-- ==== Sys2Proof/Word.lean ====
section
/-! DEFINITION. The word types and the closed sets of names that every part of the model uses: widths of registers and
addresses (R32, R33, R90), the four strands and three contexts (R3, R133), the levels of the hierarchy (R3, R4). -/
namespace Sys2Proof

/-- A general register (R90). -/
abbrev Word := BitVec 64
abbrev Byte := BitVec 8
/-- A virtual or physical byte address: 57 bits (R9, R279, R283). -/
abbrev Addr := BitVec 57
/-- The unit of code (R32). -/
abbrev Parcel := BitVec 32
/-- Number of a general register. -/
abbrev GReg := BitVec 5

/-- Package core number, 48 × die + 4 × cluster + layer (R4). -/
abbrev CoreId := Fin 192
/-- Package cluster number, 12 × die + cluster (R3). -/
abbrev ClusterId := Fin 48
abbrev DieId := Fin 4
/-- Hard partition (R363). -/
abbrev PartId := BitVec 6
/-- Virtual function (R365). -/
abbrev VfId := BitVec 8

/-- The four strands of a context (R3). -/
inductive Strand where
  | K | L | X | S
  deriving DecidableEq, Repr

/-- The three contexts of a core (R133). -/
inductive Ctx where
  | t0 | t1 | fw
  deriving DecidableEq, Repr

/-- One thing for each strand, in the order K, L, X, S. -/
structure Four (α : Type) where
  K : α
  L : α
  X : α
  S : α
  deriving DecidableEq, Repr

/-- One thing for each context of a core. -/
structure Three (α : Type) where
  t0 : α
  t1 : α
  fw : α
  deriving DecidableEq, Repr

/-- The trap causes of R60. -/
inductive Cause where
  | illegal | slot | priv | align | segfail | segbound | page | prot | febudget | barover | poison | divz | trapi
  | eccue | queue | stale | exitq
  deriving DecidableEq, Repr

/-- The number formats, in the order of their codes 0x0 to 0xF (R46). -/
inductive Fmt where
  | i8 | i16 | i32 | i64 | n8 | n16 | n32 | n64 | t2 | f4 | f8a | f8b | x8 | bf16 | f16 | f32
  deriving DecidableEq, Repr

/-- The rounding modes of R70. -/
inductive Rnd where
  | rne | rtz | rdn | rup | sr
  deriving DecidableEq, Repr

/-- The scopes of R46. -/
inductive Scope where
  | strand | core | cluster | die | package | fabric
  deriving DecidableEq, Repr

/-- The engine queues whose commands complete (R159, R164). -/
inductive Engine where
  | copyL | copyS | matrix | fabL | fabS | meL | meS
  deriving DecidableEq, Repr

end Sys2Proof
end

