-- ==== Sys2Proof/Config.lean ====
section
/-! DEFINITION. What the spec leaves open: free values. Each is an opaque constant; nothing can be proved of its values. -/
namespace Sys2Proof

/-- State of a barrier object that a store has reached since its bar.init (R269), log 1. -/
opaque Config.freeObject : Nat → BitVec 128

/-- Byte `offset` of a weight-bank quarter that nothing has written since key draw `key` (R260), log 9. -/
opaque Config.freeBank (cluster position half key offset : Nat) : BitVec 8

/-- Three entries of a column of a cluster's thermal coupling matrix before they are fitted to its sum (R378), log 10. -/
opaque Config.freeCoupling (cluster p q : Nat) : Nat

/-- A partition's part of the spare tokens when no active partition has guaranteed ones (R366), and how much of a heat charge, and of
its core-time, a core position takes when no core of the cluster has used energy (R379), log 24. -/
opaque Config.freeGrant (draw p : Nat) : Nat
opaque Config.freeHeat (draw p : Nat) : Nat × Nat

/-- By how many cycles, less one, an error in a freeze extends it (R157), log 74. -/
opaque Config.freeFreeze : Nat → Fin 24

/-- Whether a partition may use an Ethernet port for its peers (R402), log 77. -/
opaque Config.mayUsePort (part port : Nat) : Bool

/-- The signature of a record's digest under the device key, which may differ from one record of the sequence to the next (R387),
log 15. -/
opaque Config.freeSignature (seq : Nat) (digest : BitVec 512) : BitVec 26472

/-- Device serial and key identity of the records (R386), log 15. -/
opaque Config.deviceSerial : BitVec 64
opaque Config.keyId : BitVec 256

/-- Reason code of a refusal (R372), by the number of refusals before it, log 16. -/
opaque Config.freeDetail : Nat → BitVec 32

/-- The partition in whose house area a region control block lies (R347), log 17. -/
opaque Config.houseArea : Addr → PartId

/-- Whether an access uses the translation that its TLB still keeps after the tables have changed, or the tables (R287), by core, its
cycle and the address, log 50. -/
opaque Config.freeTlb (core now va : Nat) : Bool

/-- Bytes of a capture record, whose layout is not given (R393), log 25. -/
opaque Config.freeRecord : Nat → List (BitVec 8)

end Sys2Proof
end

