-- ==== Sys2Proof/Syntax.lean ====
section
/-! DEFINITION. The steps of the machine. `Instr` has one constructor for each row of the spec's table of operations and
events: the instruction words, whose payloads are the fields of their encoding formats (R38-R53), and the events of the
other agents, whose arguments are what the agent or the outside world supplies. -/
namespace Sys2Proof

/-! ## Fields of the scalar formats (R38, R39, R41) -/

structure SR where
  gm : BitVec 2
  d : GReg
  a : GReg
  b : GReg
  deriving DecidableEq, Repr
structure SI where
  gm : BitVec 2
  d : GReg
  a : GReg
  imm : BitVec 12
  deriving DecidableEq, Repr
structure SF where
  gm : BitVec 2
  d : GReg
  a : GReg
  pos : BitVec 6
  len1 : BitVec 6
  deriving DecidableEq, Repr
structure SC where
  gm : BitVec 2
  d : GReg
  a : GReg
  b : GReg
  bit : BitVec 6
  comb : BitVec 1
  deriving DecidableEq, Repr
structure SCI where
  gm : BitVec 2
  d : GReg
  a : GReg
  bit : BitVec 6
  imm : BitVec 6
  deriving DecidableEq, Repr
structure SB where
  gm : BitVec 2
  a : GReg
  bit : BitVec 6
  off : BitVec 11
  deriving DecidableEq, Repr
structure SJ where
  gm : BitVec 2
  off : BitVec 22
  deriving DecidableEq, Repr
structure SU where
  gm : BitVec 2
  d : GReg
  imm : BitVec 17
  deriving DecidableEq, Repr
structure SL where
  gm : BitVec 2
  d : GReg
  a : GReg
  handle : BitVec 6
  imm : BitVec 6
  deriving DecidableEq, Repr
structure SG where
  gm : BitVec 2
  d : GReg
  a : GReg
  imm : BitVec 12
  deriving DecidableEq, Repr
/-- The SS format: `f` is bits 31:15, whose fields R41 gives for each word. -/
structure SS where
  gm : BitVec 2
  f : BitVec 17
  deriving DecidableEq, Repr

/-! ## Fields of the vector-width and matrix-width layouts (R43-R53) -/

/-- GUARD and TOK (R44). -/
structure Pre where
  tok : BitVec 4
  en : BitVec 1
  reg : GReg
  bit : BitVec 6
  inv : BitVec 1
  deriving DecidableEq, Repr
/-- One VA operand (R45). -/
structure VOp where
  kind : BitVec 2
  index : BitVec 6
  stride : BitVec 8
  deriving DecidableEq, Repr
structure VA where
  pre : Pre
  op0 : VOp
  op1 : VOp
  op2 : VOp
  fmt : BitVec 4
  rnd : BitVec 3
  sat : BitVec 1
  sq : BitVec 1
  aux : BitVec 12
  deriving DecidableEq, Repr
structure ME where
  pre : Pre
  d : GReg
  a : GReg
  b : GReg
  c : GReg
  space : BitVec 1
  handle : BitVec 6
  imm : BitVec 12
  width : BitVec 3
  zx : BitVec 1
  fe : BitVec 3
  atom : BitVec 2
  ord : BitVec 2
  scope : BitVec 3
  sq : BitVec 1
  afmt : BitVec 4
  fval : BitVec 1
  deriving DecidableEq, Repr
structure CP where
  pre : Pre
  dst : BitVec 6
  src : BitVec 6
  idx : BitVec 5
  fe : BitVec 2
  cc : BitVec 4
  inc : BitVec 4
  bar : GReg
  rfmt : BitVec 4
  sq : BitVec 1
  deriving DecidableEq, Repr
structure CF where
  pre : Pre
  t : BitVec 5
  handle : BitVec 6
  a : GReg
  b : GReg
  imm : BitVec 6
  dim : BitVec 4
  fmt : BitVec 4
  name : BitVec 16
  deriving DecidableEq, Repr
structure SY where
  pre : Pre
  d : GReg
  a : GReg
  b : GReg
  c : GReg
  imm : BitVec 16
  scope : BitVec 3
  fmt : BitVec 4
  cc : BitVec 4
  inc : BitVec 4
  sq : BitVec 1
  deriving DecidableEq, Repr
structure MX where
  pre : Pre
  sq : BitVec 1
  fuse : BitVec 3
  first : BitVec 1
  fmtA : BitVec 4
  fmtB : BitVec 4
  aKind : BitVec 2
  aIdx : BitVec 6
  bKind : BitVec 2
  bIdx : BitVec 6
  kb : BitVec 8
  handle : BitVec 6
  off : BitVec 10
  dfmt : BitVec 4
  rnd : BitVec 3
  sat : BitVec 1
  cc : BitVec 4
  inc : BitVec 4
  saEn : BitVec 1
  sa : BitVec 5
  sbEn : BitVec 1
  sb : BitVec 5
  mdEn : BitVec 1
  md : BitVec 5
  n : BitVec 2
  mask : BitVec 4
  statD : GReg
  deriving DecidableEq, Repr

/-! ## What the events carry -/

/-- Where an uncorrectable error of a core struck (R158, R253). -/
inductive UeSite where
  | localLine (line : Nat) | accLine (line : Nat)
  | vreg (x : Ctx) (v : BitVec 4) (group : BitVec 3)
  | cells (x : Ctx) (sub : BitVec 2)
  | cache
  /-- Entry `i` of the TLBs. -/
  | tlb (i : Nat)
  | queueEntry (x : Ctx) (q : BitVec 2) (i : Nat)
  | landing (x : Ctx) (p : Strand) (i : Nat)
  | lateFault (x : Ctx) (p : Strand) (i : Nat)
  | matrixWord (x : Ctx) (i : Nat)
  deriving DecidableEq, Repr
/-- What an uncorrectable error of device memory struck (R280). -/
inductive HbmSite where
  | data | fbits | poison
  deriving DecidableEq, Repr
/-- A Sage, or the local atomic unit of a core (R306). -/
inductive SageSite where
  | die (d : DieId) | core (c : CoreId)
  deriving DecidableEq, Repr
/-- A segment of the firmware directory, as the firmware image lays it out (R133, R390): name, class, granules − 1, tile, first granule, and
its bytes. -/
structure FwSeg where
  name : BitVec 16
  cls : BitVec 2
  len : BitVec 10
  tile : BitVec 16
  base : BitVec 10
  data : List Byte
  deriving DecidableEq, Repr
/-- What a cold boot finds: whether the image verifies, the segments of its firmware, and whether the seal of each checkpoint in
flash verifies, the newest first (R389, R390). -/
structure BootInput where
  verified : Bool
  firmware : List FwSeg
  seals : List Bool
  deriving DecidableEq, Repr
/-- Where in the host's memory an object image lies, and its length (R373). -/
structure HostImage where
  addr : Word
  len : Nat
  deriving DecidableEq, Repr
/-- The host's answer to a page fault (R288). -/
inductive PageReply where
  | map (frame : Addr) | migrate | refuse
  deriving DecidableEq, Repr
/-- Energy, stalls and core energies of one position of a hot cluster over one window (R379). -/
structure HeatInput where
  cluster : ClusterId
  pos : BitVec 2
  refresh : Nat
  stalls : Nat
  ecore : Four Nat
  deriving DecidableEq, Repr
/-- A power domain that Lovage measures (R380). -/
inductive Domain where
  | core (c : CoreId) | stack (s : BitVec 3) | weight (d : DieId) | serdes | d2d | base (d : DieId)
  | service (i : BitVec 4)
  deriving DecidableEq, Repr
/-- Whose operation it is (R382, R384): a task's, with its partition and region; a packet's of a queue, whose region says whose it is
(R2); or the house's, as page clearing, migration and the refresh of unowned quarters are. -/
inductive Requester where
  | task (part : PartId) (region : Addr) | queue (d : DieId) (n : BitVec 12) | house
  deriving DecidableEq, Repr
/-- One domain's measurement of one period, in units of 2^-16 nJ, with the operations that R382 charges by coefficient:
reads and writes of a stack, slots of a weight layer, flits of a link, each by requester; for a service core the
parts of 1,024 of the period in which it served one. `refreshes` counts refresh operations by cluster and position. -/
structure DomainReading where
  dom : Domain
  measured : Nat
  reads : List (Requester × Nat)
  writes : List (Requester × Nat)
  refreshes : List (ClusterId × BitVec 2 × Nat)
  deriving DecidableEq, Repr
/-- Who makes a request of the resident service or writes a doorbell (R365, R372). -/
inductive Func where
  | pf | vf (v : VfId)
  deriving DecidableEq, Repr
/-- A mailbox request as the host has placed it in the request area of its function: SEQ, OP and LEN of the header, and the bytes of the
body, of which the event's other arguments are the fields (R372, log 23). -/
structure Req where
  fn : Func
  seq : BitVec 32
  op : BitVec 16
  len : BitVec 32
  body : List Byte
  /-- No write of REQDB: the service goes on with the request that it serves. -/
  again : Bool
  deriving DecidableEq, Repr
/-- A register that a plain write reaches and that has no behaviour of its own (R14, R400, R418): eight bytes at an offset of a
function's BAR0, or a link's status register. -/
inductive PlainReg where
  | bar0 (fn : Func) (off : BitVec 26) | linkStatus (l : Fin 12)
  deriving DecidableEq, Repr
/-- Where the resident service places an object: address space, text, and each DATA block (R358). -/
structure LoadPlan where
  root : Addr
  textVa : Addr
  textPa : Addr
  data : List (Addr × Addr)
  deriving DecidableEq, Repr
/-- A remote operation (R405-R412). `full` says that a pull takes the F bits with the data, as in copy mode. -/
inductive RemoteOp where
  | load (addr : Word) (bytes : Nat)
  | store (addr : Word) (bytes : Nat) (val : Word) (fe : BitVec 2)
  | atomic (op : BitVec 4) (addr : Word) (fmt : BitVec 4) (b expected : Word)
  | signal (addr val : Word) (add fill : Bool)
  | pull (addr : Word) (bytes : Nat) (full : Bool)
  | push (addr : Word) (data : List Byte) (fe : BitVec 2) (full : List Bool) (poison : List Bool)
  deriving DecidableEq, Repr
/-- What the target returns with its acknowledgement. -/
inductive RemoteResult where
  | done (val : Word)
  | data (bytes : List Byte) (full : List Bool) (poison : List Bool)
  | fault (c : Cause)
  deriving DecidableEq, Repr
/-- A request of another package (R403, R410). -/
structure InRequest where
  srcPkg : BitVec 10
  srcPart : PartId
  dst : PartId
  num : Nat
  op : RemoteOp
  deriving DecidableEq, Repr
/-- What a flit brings (R401): a request of the partner's package, the answer to a request of ours, the highest number the
partner has taken, or a replay request. -/
inductive FlitBody where
  | request (r : InRequest)
  | answer (part : PartId) (peer : BitVec 6) (num : Nat) (r : RemoteResult)
  | ack (seq : Nat)
  | replay (seq : Nat)
  deriving DecidableEq, Repr
structure Flit where
  seq : Nat
  crcOk : Bool
  room : Bool
  body : FlitBody
  deriving DecidableEq, Repr
/-- An IEEE 1588 message: the port on which it comes, and the offset measured from the grandmaster (R416). -/
structure TimeMessage where
  port : BitVec 3
  offs : BitVec 32
  deriving DecidableEq, Repr
/-- What two ends agree on at link training (R399-R401). -/
structure LinkPartner where
  pkg : BitVec 10
  link : BitVec 4
  /-- Request, response and signal slots; none for the default table. -/
  table : Option (BitVec 8 × BitVec 8 × BitVec 8)
  deriving DecidableEq, Repr

/-- The steps of the machine, one constructor for each row of the table of operations and events. -/
inductive Instr where
  /-- BUNDLE_ISSUE. A strand or joined group fetches a bundle, checks its header and issues its present slots in one cycle. (R97) -/
  | bundleIssue (c : CoreId) (x : Ctx) (p : Strand)
  /-- RESULT_LANDING. An exposed-latency result leaves the landing buffer and is written at its fixed pipeline cycle. (R103) -/
  | resultLanding (c : CoreId) (x : Ctx) (p : Strand)
  /-- INTERLOCKED_RESULT. An interlocked result becomes ready, is written to its register and releases stalled readers. (R105) -/
  | interlockedResult (c : CoreId) (x : Ctx) (p : Strand)
  /-- COMPLETION_FAULT. A completion fault is taken at the first bundle boundary at which the result would be readable. (R112) -/
  | completionFault (c : CoreId) (x : Ctx) (p : Strand)
  /-- FIRMWARE_TRAP_ENTRY. After the drain window, or once it becomes idle, the firmware strand of the same letter starts at the trap entry with the copied cause registers. (R111) -/
  | firmwareTrapEntry (c : CoreId) (p : Strand)
  /-- CONTEXT_SWITCH. The core switches issue to the runnable sibling task context when the active one is waiting, taking 8 cycles. (R134) -/
  | contextSwitch (c : CoreId)
  /-- FIRMWARE_CREDIT. Every D cycles the firmware credit counter gains one credit, up to 4. (R136) -/
  | firmwareCredit (c : CoreId)
  /-- CORRECTABLE_ERROR. A correctable error in a core SRAM freezes the whole core for 24 cycles and writes the corrected value back. (R157) -/
  | correctableError (c : CoreId)
  /-- FREEZE_END. 24 cycles after the last detection, the core freeze ends and all contexts and engines resume. (R157) -/
  | freezeEnd (c : CoreId)
  /-- UNCORRECTABLE_ERROR. An uncorrectable error sets poison or UE, invalidates a cache entry, or raises ECCUE at the reader. (R158) -/
  | uncorrectableError (c : CoreId) (site : UeSite)
  /-- SEGMENT_TOUCH. An access or command touches an absent segment, and Chervil makes room and starts a recall, or faults SEGFAIL. (R149) -/
  | segmentTouch (c : CoreId) (x : Ctx) (name : BitVec 16)
  /-- ROOM_AVAILABLE. A toucher waiting for frames resumes making room when a holder completes, is rolled back or unpins. (R151) -/
  | roomAvailable (c : CoreId) (x : Ctx)
  /-- RECALL_COMPLETE. The last granule of a recall arrives; the segment becomes resident and the stalled touchers proceed. (R145) -/
  | recallComplete (c : CoreId) (x : Ctx) (name : BitVec 16)
  /-- PUSH_OUT. Chervil or sg.evict starts writing a resident segment's dirty granules to its home. (R145) -/
  | pushOut (c : CoreId) (x : Ctx) (name : BitVec 16)
  /-- PUSH_OUT_COMPLETE. The last granule of a push-out is written home, the frame is freed, or a failure leaves the segment resident and queues a trap. (R146) -/
  | pushOutComplete (c : CoreId) (x : Ctx) (name : BitVec 16)
  /-- RELOCATION. Chervil compacts a resident or held segment by copying it granule by granule. (R145) -/
  | relocation (c : CoreId) (x : Ctx) (name : BitVec 16) (base : BitVec 10)
  /-- PIN_SET_ADMITTED. A waiting sg.pin set is admitted whole once all its segments fit within the reserves. (R152) -/
  | pinSetAdmitted (c : CoreId) (x : Ctx)
  /-- STREAM_FETCH. The stream fetch side fetches the next elements of a stream ahead of use. (R203) -/
  | streamFetch (c : CoreId) (x : Ctx) (t : BitVec 5) (width : Nat)
  /-- COPY_COMMAND_START. The copy engine starts the next copy of a queue, checks its barrier handle and waits for ring room where it appends. (R185) -/
  | copyCommandStart (c : CoreId) (x : Ctx) (p : Strand)
  /-- MATRIX_COMMAND_START. The matrix engine starts a queued command, touches its segments and waits for ring tiles, pages and swaps before its commit point. (R241) -/
  | matrixCommandStart (c : CoreId) (x : Ctx)
  /-- MATRIX_COMMIT. A step whose data are ready passes its commit point and accumulates into the cells. (R242) -/
  | matrixCommit (c : CoreId) (x : Ctx)
  /-- COMMAND_COMPLETION. An engine command completes: writes performed, barrier counted down, counter incremented, tokens pushed. (R161) -/
  | commandCompletion (c : CoreId) (x : Ctx) (e : Engine)
  /-- COMPLETION_STAGE_RESUME. A completion held for a full token FIFO or a full matrix queue takes its remaining steps once room appears. (R161) -/
  | completionStageResume (c : CoreId) (x : Ctx) (e : Engine)
  /-- WAITER_PERFORMED. A waiting F/E access or acq whose condition now holds is performed in arrival order at Sage or the local atomic unit. (R312) -/
  | waiterPerformed (site : SageSite)
  /-- PARK_WAKE. When a wait-table entry frees, Sage moves the head of the oldest eligible park list into the table. (R310) -/
  | parkWake (d : DieId)
  /-- FEB_BOUNDARY_CHARGE. At each 1,024-cycle boundary every waiting access is charged one budget unit, or abandoned when the budget is 0. (R315) -/
  | febBoundaryCharge (c : CoreId) (x : Ctx)
  /-- WEIGHT_SWAP_EFFECT. At a frame boundary after the prior reads and fills, the active half flips, SWAPS increments and the counter gains inc. (R273) -/
  | weightSwapEffect (k : ClusterId) (pos : BitVec 2)
  /-- WEIGHT_REFRESH. In its scheduled frame a position's quarter pair is refreshed in a refresh slot or a taken weight-read slot. (R265) -/
  | weightRefresh (k : ClusterId) (pos : BitVec 2) (frame : Nat)
  /-- REFRESH_SENSOR_SAMPLE. Every 1,024 frames the weight-layer sensor is sampled and the hot or cool refresh schedule is chosen. (R265) -/
  | refreshSensorSample (k : ClusterId) (temp : BitVec 16) (frame : Nat)
  /-- CLOCK_RATIO_CHANGE_DONE. Once the crossing FIFO has drained and the array clock switched, the input reopens and CHG clears. (R267) -/
  | clockRatioChangeDone (k : ClusterId)
  /-- PAGE_FAULT. A walk reaches an invalid entry, and the fault is served by migration, demand-zero, the host, or PROT. (R288) -/
  | pageFault (c : CoreId) (x : Ctx) (va : Addr)
  /-- PAGE_FAULT_SERVED. The page becomes present; waiting accesses restart and replay-queue entries are performed in program order. (R289) -/
  | pageFaultServed (root va : Addr)
  /-- HOST_PAGE_REPLY. In host-assisted mode the host maps, migrates or refuses a faulting page; a refusal drops entries and raises PAGE. (R288) -/
  | hostPageReply (root va : Addr) (reply : PageReply)
  /-- HOST_PUSH_OUT_REPLY. In host-assisted segment mode the host names a push-out victim or refuses, giving SEGFAIL. (R371) -/
  | hostPushOutReply (c : CoreId) (x : Ctx) (victim : Option (BitVec 16))
  /-- PAGE_OUT. The resident service invalidates a page, checks Sage for waiters and copies data, F and poison images to the host. (R292) -/
  | pageOut (root va host : Addr)
  /-- FRAME_CLEAR_DONE. A clear engine finishes a frame; its unscrubbed bit clears and its map is released. (R282) -/
  | frameClearDone (frame : Nat)
  /-- HBM_CORRECTABLE_ERROR. The memory controller corrects an error, writes it back and counts it. (R280) -/
  | hbmCorrectableError (stack : BitVec 3)
  /-- DIE_TO_DIE_FLIT. A die-to-die flit is received and checked, and a CRC failure causes a resend from the replay buffer. (R361) -/
  | dieToDieFlit (pair : Fin 6) (crcOk : Bool)
  /-- PAIR_FAILURE. A die-to-die pair fails permanently; its traffic is rerouted through a third die and logged. (R361) -/
  | pairFailure (pair : Fin 6)
  /-- BANDWIDTH_REFILL. Every 1,024 cycles each die grants memory tokens to partitions and their cores by share and cap. (R366) -/
  | bandwidthRefill (d : DieId) (waiting : List PartId)
  /-- JUNCTION_SENSOR. A junction sensor crossing 95 °C, 102 °C or back to 100 °C starts or ends throttling of the core. (R377) -/
  | junctionSensor (c : CoreId) (temp : BitVec 16)
  /-- THERMAL_WINDOW_END. At each 1 ms window end spent cores' movable tasks are moved, SPENT clears and heat charges are split. (R376) -/
  | thermalWindowEnd (heat : List HeatInput)
  /-- MOVE_TIMEOUT. A spent core whose task is not moved within 100 µs is throttled to every second cycle. (R376) -/
  | moveTimeout (c : CoreId)
  /-- ENERGY_PERIOD. Each 1 µs period Lovage measures every domain and charges the energy to partitions and the house. (R380) -/
  | energyPeriod (readings : List DomainReading)
  /-- ACCOUNTING_WINDOW_END. At each one-second accounting window end, budgets reset and a signed record is produced for every partition. (R384) -/
  | accountingWindowEnd
  /-- MARK_RECORD. The resident service turns a captured mark into a signed record and delivers it to the record ring. (R387) -/
  | markRecord (p : PartId)
  /-- CHECKPOINT. Every second Lovage writes a sealed checkpoint of the counters, SEQ and EPOCH to flash. (R389) -/
  | checkpoint
  /-- MODULE_INPUT_FAILURE. When the module input fails, a final checkpoint is written on the hold-up energy. (R389) -/
  | moduleInputFailure
  /-- COLD_BOOT. The boot ROM verifies and starts the firmware image, which restores the counters and runs QCB recovery. (R390) -/
  | coldBoot (boot : BootInput)
  /-- WARM_RESET. A warm reset resets every domain but the always-on one, increments EPOCH and redraws bank keys. (R370) -/
  | warmReset
  /-- FUNCTION_LEVEL_RESET. A PCIe function-level reset of a virtual function performs the function reset. (R418) -/
  | functionLevelReset (v : VfId)
  /-- SERVICE_WATCHDOG_EXPIRY. A service core not restarting its 1 ms watchdog is reset into recovery, which completes or rolls back journalled QCB updates. (R333) -/
  | serviceWatchdogExpiry (svc : BitVec 4)
  /-- DOORBELL. A write of a queue's doorbell count makes entries available, or stops the queue with error 0x02. (R334) -/
  | doorbell (fn : Func) (page : BitVec 14) (off : BitVec 12) (count : Word)
  /-- RELOAD_DOORBELL. Ringing a queue's reload doorbell makes the command processor re-read and perhaps adopt its QCB. (R332) -/
  | reloadDoorbell (fn : Func) (page : BitVec 14) (off : BitVec 12)
  /-- QCB_REREAD. 1,024 cycles after a QCB was not adopted, the command processor reads it again. (R332) -/
  | qcbReread (d : DieId) (q : BitVec 12)
  /-- QUEUE_MAP. The command processor maps a ready queue into a free or displaced hardware queue slot by priority. (R331) -/
  | queueMap (d : DieId)
  /-- PACKET_FETCH. The command processor fetches ring entries ahead and re-checks the header when a packet starts. (R336) -/
  | packetFetch (d : DieId) (q : BitVec 12)
  /-- NOP. A NOP packet starts and completes at once. (R337) -/
  | nop (d : DieId) (q : BitVec 12)
  /-- LAUNCH. A LAUNCH packet is checked and, once budgets allow, its tasks are handed to the dispatchers. (R339) -/
  | launch (d : DieId) (q : BitVec 12)
  /-- WAIT. A WAIT packet holds its queue at Sage until the signal word reaches the value, as an acquire. (R345) -/
  | wait (d : DieId) (q : BitVec 12)
  /-- WAIT_RESEND. Every 1,024 cycles a WAIT that found the wait table full is sent again. (R345) -/
  | waitResend (d : DieId) (q : BitVec 12)
  /-- SIGNAL. A SIGNAL packet sets or adds to its signal word as a release at package scope. (R337) -/
  | signal (d : DieId) (q : BitVec 12)
  /-- COPY. A COPY packet copies 4-byte elements with its F/E mode as a class C copy. (R337) -/
  | copy (d : DieId) (q : BitVec 12)
  /-- MARK. A MARK packet captures its partition's and region path's counters into the mark log. (R385) -/
  | mark (d : DieId) (q : BitVec 12)
  /-- PACKET_COMPLETE. A packet completes, updating the read index and sending the queue's vector when IRQ is set. (R337) -/
  | packetComplete (d : DieId) (q : BitVec 12) (index : Nat)
  /-- TASK_PLACEMENT. A dispatcher places a task on the least-penalty core of its window once a context is free. (R343) -/
  | taskPlacement (d : DieId)
  /-- TASK_END. When all four strands have ended, the task ends as a release at package scope and may complete its launch. (R116) -/
  | taskEnd (c : CoreId) (x : Ctx)
  /-- CORE_TIME_WINDOW_END. At the end of a CTWIN window a subtree's core-time budget renews and placements may resume. (R349) -/
  | coreTimeWindowEnd (region : Addr)
  /-- FAULT_DOMAIN_STOP. A failed task causes every task of its fault domain to be hard-stopped and its queues stopped with 0x06. (R350) -/
  | faultDomainStop (p : PartId) (fdom : BitVec 16)
  /-- GANG_TICK. At each tick the resident service picks incoming gangs and starts saving outgoing tasks. (R352) -/
  | gangTick (p : PartId)
  /-- TICK_MISS. A die not saved 250 µs after the tick is logged as missed. (R353) -/
  | tickMiss (d : DieId)
  /-- EPILOGUE_LIMIT. At 300 µs after the tick every running epilogue save ends in a hard stop. (R353) -/
  | epilogueLimit
  /-- EPILOGUE_TIMEOUT. When Gb cycles pass before an epilogue save finishes, ctx.sv.epi stops as a hard stop. (R355) -/
  | epilogueTimeout (c : CoreId)
  /-- SEND_MESSAGE. Sorrel matches an arriving UET send against the service table and writes a one-task LAUNCH, or declines it. (R391) -/
  | sendMessage (port : BitVec 3) (src : BitVec 32) (payload : List Byte)
  /-- LINK_TRAINING. A sub-link trains, pairing with its partner and fixing its slot reservation table. (R401) -/
  | linkTraining (sub : Fin 96) (partner : LinkPartner)
  /-- FLIT_RECEIVE. A sub-link flit is received, acknowledged, or discarded with a go-back replay request. (R401) -/
  | flitReceive (sub : Fin 96) (flit : Flit)
  /-- SUBLINK_FAILURE. A sub-link without progress for 10 µs fails, peers switch paths and unacknowledged requests are re-sent. (R409) -/
  | sublinkFailure (sub : Fin 96)
  /-- INBOUND_REQUEST. A remote request is accepted, deduplicated by sequence number, translated and performed at its home. (R403) -/
  | inboundRequest (r : InRequest)
  /-- TIME_MESSAGE. An IEEE 1588 message updates fabric time and lock status. (R416) -/
  | timeMessage (m : TimeMessage) (lock : Bool) (time : Word)
  /-- BAR2_READ. A host read through BAR2 reads device memory through the window translation as a plain access. (R419) -/
  | bar2Read (v : VfId) (off : BitVec 36) (bytes : Nat)
  /-- BAR2_WRITE. A host write through BAR2 writes device memory through the window translation as a plain access. (R419) -/
  | bar2Write (v : VfId) (off : BitVec 36) (data : List Byte)
  /-- REGISTER_WRITE. A write to a register with no behaviour of its own stores its writable fields. (R14) -/
  | registerWrite (r : PlainReg) (val : Word)
  /-- PART_CREATE. Mailbox command that creates an empty partition. (R373) -/
  | partCreate (rq : Req) (p : BitVec 8)
  /-- PART_DESTROY. Mailbox command that returns a partition's resources to the house. (R373) -/
  | partDestroy (rq : Req) (p : BitVec 8)
  /-- PART_ASSIGN. Mailbox command that assigns or releases resources of a partition. (R373) -/
  | partAssign (rq : Req) (p : BitVec 8) (kind : BitVec 8) (add : BitVec 8) (items : List Word)
  /-- VF_BIND. Mailbox command that binds or unbinds a virtual function to a partition. (R365) -/
  | vfBind (rq : Req) (v : VfId) (p : BitVec 8)
  /-- CTL_WRITE. Mailbox command that writes one control word of the selected kind. (R373) -/
  | ctlWrite (rq : Req) (p : BitVec 8) (kind : BitVec 8) (index : Word) (val : List Word)
  /-- CTL_READ. Mailbox command that returns one control word. (R373) -/
  | ctlRead (rq : Req) (p : BitVec 8) (kind : BitVec 8) (index : Word)
  /-- RCB_WRITE. Mailbox command that checks and writes a region control block. (R348) -/
  | rcbWrite (rq : Req) (node : Addr) (block : BitVec 2048)
  /-- PT_WRITE. Mailbox command that writes page-table entries. (R373) -/
  | ptWrite (rq : Req) (house : Addr) (entries : List Word)
  /-- TLB_INV_COMMAND. Mailbox command that invalidates translations as tlb.inv at package scope. (R373) -/
  | tlbInvCommand (rq : Req) (root : Addr) (base count : Word) (all : Bool)
  /-- RUNLIST_SET. Mailbox command that writes a runlist entry and returns the doorbell index. (R373) -/
  | runlistSet (rq : Req) (d : DieId) (q : BitVec 12) (qcb : Addr) (v : Bool)
  /-- OBJ_LOAD. Mailbox command that verifies and loads an IVO object into a residency slot. (R358) -/
  | objLoad (rq : Req) (p : BitVec 8) (slot : BitVec 8) (image : HostImage) (plan : LoadPlan)
  /-- OBJ_UNLOAD. Mailbox command that unloads an object once no task or launch uses its slot. (R358) -/
  | objUnload (rq : Req) (p : BitVec 8) (slot : BitVec 8)
  /-- VF_RESET. Mailbox command that resets a virtual function, stopping its queues and tasks and rotating keys. (R369) -/
  | vfReset (rq : Req) (v : VfId)
  /-- RECORD_REQ. Mailbox command that produces a signed record for a region path. (R387) -/
  | recordReq (rq : Req) (path : List Addr)
  /-- STATS_READ. Mailbox command that returns error statistics records. (R374) -/
  | statsRead (rq : Req) (first : BitVec 32)
  /-- DEBUG. Mailbox command that attaches or detaches a debugger or releases a halted strand. (R373) -/
  | debug (rq : Req) (op : BitVec 8) (task : Word) (mask : BitVec 4)
  /-- RELOCATION_COMPLETE. The last granule of a relocation lands, the segment leaves the moving state and stalled accesses proceed. (R145) -/
  | relocationComplete (c : CoreId) (x : Ctx) (name : BitVec 16)
  /-- HBM_UNCORRECTABLE_ERROR. The memory controller finds an uncorrectable error in a line's data, F bits or poison bit, and poisons the line or makes accesses fail ECCUE. (R280) -/
  | hbmUncorrectableError (pa : Addr) (site : HbmSite)
  /-- VOLTAGE_DROOP. A voltage-droop event on a core is counted into its DROOP count, which placement penalties use. (R343) -/
  | voltageDroop (c : CoreId)
  /-- FABRIC_COMMAND_SEND. A fabric queue sends the first flit of its next command in a slot of the right use, so the command has started. (R404) -/
  | fabricCommandSend (c : CoreId) (x : Ctx) (p : Strand)
  /-- TRIAGE_RELEASE. In host-assisted triage mode the host ends or releases a failing task that is held stopped. (R371) -/
  | triageRelease (p : PartId) (task : Word) (finish : Bool)
  /-- ADD. Adds two registers. (R119) -/
  | add (w : SR)
  /-- SUB. Subtracts two registers. (R119) -/
  | sub (w : SR)
  /-- MUL. Low 64 bits of the product. (R119) -/
  | mul (w : SR)
  /-- MULH. High 64 bits of the signed product. (R119) -/
  | mulh (w : SR)
  /-- MULHN. High 64 bits of the unsigned product. (R119) -/
  | mulhn (w : SR)
  /-- DIV. Signed division toward zero, DIVZ on zero divisor. (R119) -/
  | div (w : SR)
  /-- DIVN. Unsigned division, DIVZ on zero divisor. (R119) -/
  | divn (w : SR)
  /-- REM. Signed remainder. (R119) -/
  | rem (w : SR)
  /-- REMN. Unsigned remainder. (R119) -/
  | remn (w : SR)
  /-- AND. Bitwise AND. (R119) -/
  | and (w : SR)
  /-- OR. Bitwise OR. (R119) -/
  | or (w : SR)
  /-- XOR. Bitwise XOR. (R119) -/
  | xor (w : SR)
  /-- ANDN. Ga AND NOT Gb. (R119) -/
  | andn (w : SR)
  /-- ORN. Ga OR NOT Gb. (R119) -/
  | orn (w : SR)
  /-- SHL. Shift left by Gb<5:0>. (R119) -/
  | shl (w : SR)
  /-- SHR. Logical shift right. (R119) -/
  | shr (w : SR)
  /-- SAR. Arithmetic shift right. (R119) -/
  | sar (w : SR)
  /-- ROL. Rotate left. (R119) -/
  | rol (w : SR)
  /-- ROR. Rotate right. (R119) -/
  | ror (w : SR)
  /-- MIN. Signed minimum. (R119) -/
  | min (w : SR)
  /-- MAX. Signed maximum. (R119) -/
  | max (w : SR)
  /-- MINN. Unsigned minimum. (R119) -/
  | minn (w : SR)
  /-- MAXN. Unsigned maximum. (R119) -/
  | maxn (w : SR)
  /-- ADDW. 32-bit add, sign-extended. (R119) -/
  | addw (w : SR)
  /-- SUBW. 32-bit subtract, sign-extended. (R119) -/
  | subw (w : SR)
  /-- MULW. 32-bit multiply, sign-extended. (R119) -/
  | mulw (w : SR)
  /-- SHLW. 32-bit shift left, sign-extended. (R119) -/
  | shlw (w : SR)
  /-- SHRW. 32-bit logical shift right, sign-extended. (R119) -/
  | shrw (w : SR)
  /-- SARW. 32-bit arithmetic shift right, sign-extended. (R119) -/
  | sarw (w : SR)
  /-- MOV. Copies a register. (R120) -/
  | mov (w : SR)
  /-- NOT. Bitwise NOT. (R120) -/
  | not (w : SR)
  /-- NEG. Negation. (R120) -/
  | neg (w : SR)
  /-- ABS. Absolute value. (R120) -/
  | abs (w : SR)
  /-- CLZ. Count leading zeros. (R120) -/
  | clz (w : SR)
  /-- CTZ. Count trailing zeros. (R120) -/
  | ctz (w : SR)
  /-- POPC. Count one bits. (R120) -/
  | popc (w : SR)
  /-- BREV. Reverse bits. (R120) -/
  | brev (w : SR)
  /-- BSWAP. Reverse bytes. (R120) -/
  | bswap (w : SR)
  /-- SXB. Sign-extend byte. (R120) -/
  | sxb (w : SR)
  /-- SXH. Sign-extend half. (R120) -/
  | sxh (w : SR)
  /-- SXW. Sign-extend word. (R120) -/
  | sxw (w : SR)
  /-- ZXB. Zero-extend byte. (R120) -/
  | zxb (w : SR)
  /-- ZXH. Zero-extend half. (R120) -/
  | zxh (w : SR)
  /-- ZXW. Zero-extend word. (R120) -/
  | zxw (w : SR)
  /-- ADDI. Adds a signed immediate. (R121) -/
  | addi (w : SI)
  /-- ANDI. AND with a signed immediate. (R121) -/
  | andi (w : SI)
  /-- ORI. OR with a signed immediate. (R121) -/
  | ori (w : SI)
  /-- XORI. XOR with a signed immediate. (R121) -/
  | xori (w : SI)
  /-- SHLI. Shift left by an immediate. (R121) -/
  | shli (w : SI)
  /-- SHRI. Logical shift right by an immediate. (R121) -/
  | shri (w : SI)
  /-- SARI. Arithmetic shift right by an immediate. (R121) -/
  | sari (w : SI)
  /-- MULI. Multiply by a signed immediate. (R121) -/
  | muli (w : SI)
  /-- ADDWI. 32-bit add of an immediate, sign-extended. (R121) -/
  | addwi (w : SI)
  /-- LUI. Loads a sign-extended 17-bit immediate. (R121) -/
  | lui (w : SU)
  /-- LIH. Shifts Gd left 17 and inserts an unsigned immediate. (R121) -/
  | lih (w : SU)
  /-- PCA. Header address plus a parcel offset. (R121) -/
  | pca (w : SU)
  /-- BFX. Extracts a sign-extended bit field. (R122) -/
  | bfx (w : SF)
  /-- BFXN. Extracts a zero-extended bit field. (R122) -/
  | bfxn (w : SF)
  /-- BFI. Inserts a bit field into Gd. (R122) -/
  | bfi (w : SF)
  /-- CEQ. Equal compare into a bit. (R123) -/
  | ceq (w : SC)
  /-- CNE. Not-equal compare into a bit. (R123) -/
  | cne (w : SC)
  /-- CLT. Signed less-than compare into a bit. (R123) -/
  | clt (w : SC)
  /-- CLE. Signed less-or-equal compare into a bit. (R123) -/
  | cle (w : SC)
  /-- CLTN. Unsigned less-than compare into a bit. (R123) -/
  | cltn (w : SC)
  /-- CLEN. Unsigned less-or-equal compare into a bit. (R123) -/
  | clen (w : SC)
  /-- CEQI. Equal-immediate compare into a bit. (R123) -/
  | ceqi (w : SCI)
  /-- CNEI. Not-equal-immediate compare into a bit. (R123) -/
  | cnei (w : SCI)
  /-- CLTI. Signed less-than-immediate compare into a bit. (R123) -/
  | clti (w : SCI)
  /-- CGTI. Signed greater-than-immediate compare into a bit. (R123) -/
  | cgti (w : SCI)
  /-- BSET. Sets one bit. (R124) -/
  | bset (w : SCI)
  /-- BCLR. Clears one bit. (R124) -/
  | bclr (w : SCI)
  /-- BNOT. Inverts one bit. (R124) -/
  | bnot (w : SCI)
  /-- BR_T. Branches when the named bit is 1. (R125) -/
  | brT (w : SB)
  /-- BR_F. Branches when the named bit is 0. (R125) -/
  | brF (w : SB)
  /-- JMP. Jumps to a parcel offset. (R125) -/
  | jmp (w : SJ)
  /-- CALL. Jumps and writes the return address to g31. (R125) -/
  | call (w : SJ)
  /-- JR. Jumps to the address in a register. (R125) -/
  | jr (w : SR)
  /-- CALLR. Jumps to a register address and writes g31. (R125) -/
  | callr (w : SR)
  /-- FORK. The strand leaves the joined group and runs apart from the target. (R99) -/
  | fork (w : SS)
  /-- JOIN. Records arrival at a join bit and stalls until the rendezvous completes. (R99) -/
  | join (w : SS)
  /-- JBSET. Sets a join-bit flag after earlier class K stores are performed. (R126) -/
  | jbset (w : SS)
  /-- JBCLR. Clears a join-bit flag. (R126) -/
  | jbclr (w : SS)
  /-- JBWAIT. Stalls until a join-bit flag is 1. (R126) -/
  | jbwait (w : SS)
  /-- EXIT. Waits for the context's engine commands, then ends the strand. (R116) -/
  | exit (w : SS)
  /-- EXIT_AB. Discards unstarted commands, waits for started ones, and ends the strand or traps EXITQ. (R117) -/
  | exitAb (w : SS)
  /-- YIELD. Offers the core to the runnable sibling task context. (R118) -/
  | yield (w : SS)
  /-- LP_SET. Sets a level's trip count and clears its strides. (R191) -/
  | lpSet (w : SS)
  /-- LP_STRIDE. Sets a level's per-iteration stride for a stream. (R191) -/
  | lpStride (w : SS)
  /-- LP_RUN. Starts replaying the body up to END on a level. (R192) -/
  | lpRun (w : SS)
  /-- LP_BRK. Ends the level and discards its unstarted squashable commands. (R196) -/
  | lpBrk (w : SS)
  /-- LP_CLAMP. Firmware clamps an active level's trip count of a task context. (R197) -/
  | lpClamp (w : SS)
  /-- TRAP. Raises TRAPI with the immediate. (R127) -/
  | trap (w : SS)
  /-- ERET. Resumes the trapped strand, delivering queued late faults, or ends it when ENDING. (R113) -/
  | eret (w : SS)
  /-- RDSR. Reads a special register. (R127) -/
  | rdsr (w : SS)
  /-- WRSR. Writes a special register's writable fields. (R127) -/
  | wrsr (w : SS)
  /-- GUARD. Sets the guard selector %gsel. (R127) -/
  | guard (w : SS)
  /-- BRK. Halts for an attached debugger, or traps TRAPI. (R127) -/
  | brk (w : SS)
  /-- CC_ADD. Adds to a completion counter. (R164) -/
  | ccAdd (w : SS)
  /-- CC_SET. Sets a completion counter. (R164) -/
  | ccSet (w : SS)
  /-- WAIT_LT. Stalls until a counter is below the threshold, then fences. (R165) -/
  | waitLt (w : SS)
  /-- WAIT_GE. Stalls until a counter reaches the threshold, then fences. (R165) -/
  | waitGe (w : SS)
  /-- TOK_PUSH. Pushes a token toward a neighbour after earlier class K accesses. (R168) -/
  | tokPush (w : SS)
  /-- TOK_POP. Pops a token from a neighbour, as a core-scope acquire. (R168) -/
  | tokPop (w : SS)
  /-- FENCE. Stalls until accesses of the named classes are performed at the scope. (R128) -/
  | fence (w : SS)
  /-- LDL_B. Loads a byte from a segment. (R129) -/
  | ldlB (w : SL)
  /-- LDL_H. Loads a half from a segment. (R129) -/
  | ldlH (w : SL)
  /-- LDL_W. Loads a word from a segment. (R129) -/
  | ldlW (w : SL)
  /-- LDL_D. Loads a doubleword from a segment. (R129) -/
  | ldlD (w : SL)
  /-- STL_B. Stores a byte to a segment. (R129) -/
  | stlB (w : SL)
  /-- STL_H. Stores a half to a segment. (R129) -/
  | stlH (w : SL)
  /-- STL_W. Stores a word to a segment. (R129) -/
  | stlW (w : SL)
  /-- STL_D. Stores a doubleword to a segment. (R129) -/
  | stlD (w : SL)
  /-- LDG_B. Loads a byte from device memory. (R130) -/
  | ldgB (w : SG)
  /-- LDG_H. Loads a half from device memory. (R130) -/
  | ldgH (w : SG)
  /-- LDG_W. Loads a word from device memory. (R130) -/
  | ldgW (w : SG)
  /-- LDG_D. Loads a doubleword from device memory or pops a queue port. (R130) -/
  | ldgD (w : SG)
  /-- STG_B. Stores a byte to device memory. (R130) -/
  | stgB (w : SG)
  /-- STG_H. Stores a half to device memory. (R130) -/
  | stgH (w : SG)
  /-- STG_W. Stores a word to device memory. (R130) -/
  | stgW (w : SG)
  /-- STG_D. Stores a doubleword to device memory or pushes a queue port. (R130) -/
  | stgD (w : SG)
  /-- VADD. Element-wise add. (R213) -/
  | vadd (w : VA)
  /-- VSUB. Element-wise subtract. (R213) -/
  | vsub (w : VA)
  /-- VMUL. Element-wise multiply. (R213) -/
  | vmul (w : VA)
  /-- VFMA. Fused multiply-add into the destination. (R213) -/
  | vfma (w : VA)
  /-- VFMS. Fused multiply-subtract from the destination. (R213) -/
  | vfms (w : VA)
  /-- VMIN. Element-wise minimum. (R213) -/
  | vmin (w : VA)
  /-- VMAX. Element-wise maximum. (R213) -/
  | vmax (w : VA)
  /-- VABS. Element-wise absolute value. (R213) -/
  | vabs (w : VA)
  /-- VNEG. Element-wise negation. (R213) -/
  | vneg (w : VA)
  /-- VSQR. Element-wise square. (R213) -/
  | vsqr (w : VA)
  /-- VRCP. Correctly rounded reciprocal. (R220) -/
  | vrcp (w : VA)
  /-- VRSQRT. Correctly rounded reciprocal square root. (R220) -/
  | vrsqrt (w : VA)
  /-- VEXP2. Correctly rounded 2^x. (R220) -/
  | vexp2 (w : VA)
  /-- VLOG2. Correctly rounded log2 x. (R220) -/
  | vlog2 (w : VA)
  /-- VAND. Bitwise AND. (R213) -/
  | vand (w : VA)
  /-- VOR. Bitwise OR. (R213) -/
  | vor (w : VA)
  /-- VXOR. Bitwise XOR. (R213) -/
  | vxor (w : VA)
  /-- VSHL. Element-wise shift left. (R213) -/
  | vshl (w : VA)
  /-- VSHR. Element-wise logical shift right. (R213) -/
  | vshr (w : VA)
  /-- VSAR. Element-wise arithmetic shift right. (R213) -/
  | vsar (w : VA)
  /-- VCEQ. Equal compare into a mask. (R214) -/
  | vceq (w : VA)
  /-- VCLT. Less-than compare into a mask. (R214) -/
  | vclt (w : VA)
  /-- VCLE. Less-or-equal compare into a mask. (R214) -/
  | vcle (w : VA)
  /-- VSEL. Selects per element by a mask register. (R215) -/
  | vsel (w : VA)
  /-- VPERM. Permutes elements of a register by index. (R216) -/
  | vperm (w : VA)
  /-- VBCAST. Broadcasts one element of a register. (R216) -/
  | vbcast (w : VA)
  /-- VRED_ADD. Pairwise-tree sum reduction. (R218) -/
  | vredAdd (w : VA)
  /-- VRED_MAX. Pairwise-tree maximum reduction. (R218) -/
  | vredMax (w : VA)
  /-- VRED_MIN. Pairwise-tree minimum reduction. (R218) -/
  | vredMin (w : VA)
  /-- VSCAN_ADD. Sequential prefix sum. (R219) -/
  | vscanAdd (w : VA)
  /-- VMOV. Copies element patterns. (R213) -/
  | vmov (w : VA)
  /-- VCLAMP. Clamps between a low operand and a hi register. (R213) -/
  | vclamp (w : VA)
  /-- VSCALE. Multiplies by an X8 power of two. (R213) -/
  | vscale (w : VA)
  /-- VPOP. Counts non-zero active elements. (R217) -/
  | vpop (w : VA)
  /-- VCVT. Converts elements between formats. (R221) -/
  | vcvt (w : VA)
  /-- VQ. Quantises blocks of 24 with an X8 scale per block. (R223) -/
  | vq (w : VA)
  /-- VDQ. Dequantises blocks with their X8 scales. (R224) -/
  | vdq (w : VA)
  /-- VSP. Compresses groups of 24 to N kept elements with metadata. (R225) -/
  | vsp (w : VA)
  /-- VDSP. Expands N-of-24 compressed groups by metadata. (R226) -/
  | vdsp (w : VA)
  /-- VSR_SEED. Seeds the vector and drain stochastic-rounding generators. (R227) -/
  | vsrSeed (w : VA)
  /-- VPK. Narrows integers from two sources. (R222) -/
  | vpk (w : VA)
  /-- VUPK. Widens one half of a register's integers. (R222) -/
  | vupk (w : VA)
  /-- LDM. Plain memory-extended load. (R174) -/
  | ldm (w : ME)
  /-- LDM_WAIT. Load that waits for F = 1. (R174) -/
  | ldmWait (w : ME)
  /-- LDM_CONS. Load that waits for F = 1 and clears it. (R174) -/
  | ldmCons (w : ME)
  /-- STM. Plain memory-extended store. (R174) -/
  | stm (w : ME)
  /-- STM_FILL. Store that waits for F = 0 and sets it. (R174) -/
  | stmFill (w : ME)
  /-- STM_OVF. Store that sets F to 1 without waiting. (R174) -/
  | stmOvf (w : ME)
  /-- STM_SETE. Store that sets F to 0. (R174) -/
  | stmSete (w : ME)
  /-- FE_PROBE. Reads F bits without waiting. (R323) -/
  | feProbe (w : ME)
  /-- FE_SET. Sets F bits without touching data. (R324) -/
  | feSet (w : ME)
  /-- AT_ADD. Atomic add. (R320) -/
  | atAdd (w : ME)
  /-- AT_SUB. Atomic subtract. (R320) -/
  | atSub (w : ME)
  /-- AT_AND. Atomic AND. (R320) -/
  | atAnd (w : ME)
  /-- AT_OR. Atomic OR. (R320) -/
  | atOr (w : ME)
  /-- AT_XOR. Atomic XOR. (R320) -/
  | atXor (w : ME)
  /-- AT_MIN. Atomic signed minimum. (R320) -/
  | atMin (w : ME)
  /-- AT_MAX. Atomic signed maximum. (R320) -/
  | atMax (w : ME)
  /-- AT_MINN. Atomic unsigned minimum. (R320) -/
  | atMinn (w : ME)
  /-- AT_MAXN. Atomic unsigned maximum. (R320) -/
  | atMaxn (w : ME)
  /-- AT_XCHG. Atomic exchange. (R320) -/
  | atXchg (w : ME)
  /-- AT_CAS. Atomic compare and swap. (R320) -/
  | atCas (w : ME)
  /-- AT_FADD. Atomic floating add rounded RNE. (R321) -/
  | atFadd (w : ME)
  /-- AT_INC. Atomic bounded increment. (R320) -/
  | atInc (w : ME)
  /-- ACQ. Waits until a sync object's version reaches a value, then acquires. (R325) -/
  | acq (w : ME)
  /-- REL. Releases a sync object by incrementing its version. (R326) -/
  | rel (w : ME)
  /-- SYNC_BIND. Binds a memory region to a sync object. (R327) -/
  | syncBind (w : ME)
  /-- SYNC_UNBIND. Removes a region binding. (R327) -/
  | syncUnbind (w : ME)
  /-- PREFETCH. Starts a translation and line fetch, or a segment recall. (R176) -/
  | prefetch (w : ME)
  /-- CP. Copies a source stream to a destination stream. (R185) -/
  | cp (w : CP)
  /-- CP_G. Gather copy through an index stream. (R187) -/
  | cpG (w : CP)
  /-- CP_SC. Scatter copy through an index stream. (R187) -/
  | cpSc (w : CP)
  /-- CP_BC. Broadcast copy to the cluster's receiving cores. (R268) -/
  | cpBc (w : CP)
  /-- CP_RED. Reduction copy adding into the destination. (R187) -/
  | cpRed (w : CP)
  /-- CP_W. Writes the shadow weight quarter through a weight stream. (R264) -/
  | cpW (w : CP)
  /-- CP_MM. Copy that appends a follow-on matrix word on completion. (R188) -/
  | cpMm (w : CP)
  /-- CP_FE. Fills or drains destination F bits only. (R187) -/
  | cpFe (w : CP)
  /-- CP_ZERO. Writes zeros to destination elements. (R187) -/
  | cpZero (w : CP)
  /-- AS_CFG. Loads a stream register from a descriptor in a segment. (R180) -/
  | asCfg (w : CF)
  /-- AS_DIM. Sets one dimension of a stream. (R180) -/
  | asDim (w : CF)
  /-- AS_FMT. Sets a stream's format. (R180) -/
  | asFmt (w : CF)
  /-- AS_BIND_LOCAL. Binds a stream to a segment handle and base. (R180) -/
  | asBindLocal (w : CF)
  /-- AS_BIND_DEVICE. Binds a stream to a device virtual base. (R180) -/
  | asBindDevice (w : CF)
  /-- AS_RST. Resets a stream's position and counts. (R180) -/
  | asRst (w : CF)
  /-- AS_ADV. Advances a stream's position. (R180) -/
  | asAdv (w : CF)
  /-- SG_BIND. Binds a handle to a directory name. (R181) -/
  | sgBind (w : CF)
  /-- SG_PIN. Pins a set of segments, admitted whole. (R181) -/
  | sgPin (w : CF)
  /-- SG_UNPIN. Lowers pin counts. (R181) -/
  | sgUnpin (w : CF)
  /-- SG_TOUCH. Recalls a segment and stalls until resident. (R181) -/
  | sgTouch (w : CF)
  /-- SG_EVICT. Starts a push-out of an unpinned, unheld segment. (R181) -/
  | sgEvict (w : CF)
  /-- SG_INFO. Returns a snapshot of a segment's state. (R182) -/
  | sgInfo (w : CF)
  /-- VL_SET. Sets the vector length. (R183) -/
  | vlSet (w : CF)
  /-- WB_SWAP. Requests a swap of the position's active and shadow weight halves. (R273) -/
  | wbSwap (w : SY)
  /-- WB_STAT. Returns the weight-bank swap status. (R274) -/
  | wbStat (w : SY)
  /-- BAR_INIT. Arms a barrier object with its arrival count. (R272) -/
  | barInit (w : SY)
  /-- BAR_ARR. Arrives at a barrier and returns its phase. (R275) -/
  | barArr (w : SY)
  /-- BAR_WAIT. Parks until the barrier's phase changes, then acquires. (R276) -/
  | barWait (w : SY)
  /-- BAR_XFER_IN. Declares inbound transfers of a phase. (R277) -/
  | barXferIn (w : SY)
  /-- BAR_XFER_OUT. Declares outbound transfers of a phase. (R277) -/
  | barXferOut (w : SY)
  /-- VB_RD. Reads a cluster register. (R272) -/
  | vbRd (w : SY)
  /-- VB_WR. Firmware writes a cluster register or is refused. (R272) -/
  | vbWr (w : SY)
  /-- CLK_RATIO. Firmware starts a weight-layer clock-ratio change. (R267) -/
  | clkRatio (w : SY)
  /-- XLD. Remote load from a peer. (R408) -/
  | xld (w : SY)
  /-- XST. Remote store to a peer. (R408) -/
  | xst (w : SY)
  /-- XAT. Remote atomic at a peer. (R408) -/
  | xat (w : SY)
  /-- XCP_PUSH. Copies a local stream to peer memory. (R411) -/
  | xcpPush (w : SY)
  /-- XCP_PULL. Copies peer memory into a local stream. (R411) -/
  | xcpPull (w : SY)
  /-- XSIG_SET. Sets a peer's signal word as a fabric release. (R412) -/
  | xsigSet (w : SY)
  /-- XSIG_ADD. Adds to a peer's signal word as a fabric release. (R412) -/
  | xsigAdd (w : SY)
  /-- XFENCE. Holds later fabric commands of the queue until earlier ones complete. (R413) -/
  | xfence (w : SY)
  /-- XROUTE. Switches a peer's path once its commands have completed. (R414) -/
  | xroute (w : SY)
  /-- EN_RD. Reads an energy counter of the partition. (R395) -/
  | enRd (w : SY)
  /-- EN_MARK. Captures a mark after the context's earlier engine work. (R395) -/
  | enMark (w : SY)
  /-- PART_ID. Returns partition, function, core and epoch. (R395) -/
  | partId (w : SY)
  /-- TLB_INV. Drops translations of a range and waits for their users. (R287) -/
  | tlbInv (w : SY)
  /-- TLB_INV_ALL. Drops every translation of the root in the scope. (R287) -/
  | tlbInvAll (w : SY)
  /-- SEG_INV. Drops a segment's resident copy without writing it home. (R396) -/
  | segInv (w : SY)
  /-- TAR_RD. Reads another core's thermal allowance or sensors. (R395) -/
  | tarRd (w : SY)
  /-- CTX_SV. Hard-stops a task context and saves its image. (R355) -/
  | ctxSv (w : SY)
  /-- CTX_SV_EPI. Saves a task context after its clamped level drains. (R355) -/
  | ctxSvEpi (w : SY)
  /-- CTX_LD. Loads an image into an empty context and makes it runnable. (R357) -/
  | ctxLd (w : SY)
  /-- CTX_LD_HOLD. Loads an image and keeps the context stopped. (R357) -/
  | ctxLdHold (w : SY)
  /-- CTX_LD_GO. Makes a held context runnable, marking unrestored accumulations UE. (R357) -/
  | ctxLdGo (w : SY)
  /-- MM. Dense matrix accumulation step. (R242) -/
  | mm (w : MX)
  /-- MM_SP. Sparse N-of-24 matrix accumulation step. (R242) -/
  | mmSp (w : MX)
  /-- MM_TN. Ternary sign-select matrix accumulation step. (R242) -/
  | mmTn (w : MX)
  /-- MDRAIN. Converts the accumulators to a stored tile. (R246) -/
  | mdrain (w : MX)
  /-- MZERO. Zeroes the accumulation state. (R248) -/
  | mzero (w : MX)
  /-- MCORR_LD. Loads accumulation images of masked sub-arrays. (R250) -/
  | mcorrLd (w : MX)
  /-- MCORR_ST. Stores accumulation images of masked sub-arrays. (R250) -/
  | mcorrSt (w : MX)
  /-- MSTAT. Reports accumulation flags after earlier commands. (R251) -/
  | mstat (w : MX)
  deriving DecidableEq, Repr

/-! ## The instruction words

`Instr` has a constructor for each row of the table. The compiler can build no more than 245 constructors of one type, so
what the machine itself decodes and runs is an `AnyWord`, one of the 251 words in two types; `Instr.word?` and
`AnyWord.instr` (Decode.lean) go between the two. -/

/-- The scalar words (R54). -/
inductive ScalarWord where
  | add (w : SR)
  | sub (w : SR)
  | mul (w : SR)
  | mulh (w : SR)
  | mulhn (w : SR)
  | div (w : SR)
  | divn (w : SR)
  | rem (w : SR)
  | remn (w : SR)
  | and (w : SR)
  | or (w : SR)
  | xor (w : SR)
  | andn (w : SR)
  | orn (w : SR)
  | shl (w : SR)
  | shr (w : SR)
  | sar (w : SR)
  | rol (w : SR)
  | ror (w : SR)
  | min (w : SR)
  | max (w : SR)
  | minn (w : SR)
  | maxn (w : SR)
  | addw (w : SR)
  | subw (w : SR)
  | mulw (w : SR)
  | shlw (w : SR)
  | shrw (w : SR)
  | sarw (w : SR)
  | mov (w : SR)
  | not (w : SR)
  | neg (w : SR)
  | abs (w : SR)
  | clz (w : SR)
  | ctz (w : SR)
  | popc (w : SR)
  | brev (w : SR)
  | bswap (w : SR)
  | sxb (w : SR)
  | sxh (w : SR)
  | sxw (w : SR)
  | zxb (w : SR)
  | zxh (w : SR)
  | zxw (w : SR)
  | addi (w : SI)
  | andi (w : SI)
  | ori (w : SI)
  | xori (w : SI)
  | shli (w : SI)
  | shri (w : SI)
  | sari (w : SI)
  | muli (w : SI)
  | addwi (w : SI)
  | lui (w : SU)
  | lih (w : SU)
  | pca (w : SU)
  | bfx (w : SF)
  | bfxn (w : SF)
  | bfi (w : SF)
  | ceq (w : SC)
  | cne (w : SC)
  | clt (w : SC)
  | cle (w : SC)
  | cltn (w : SC)
  | clen (w : SC)
  | ceqi (w : SCI)
  | cnei (w : SCI)
  | clti (w : SCI)
  | cgti (w : SCI)
  | bset (w : SCI)
  | bclr (w : SCI)
  | bnot (w : SCI)
  | brT (w : SB)
  | brF (w : SB)
  | jmp (w : SJ)
  | call (w : SJ)
  | jr (w : SR)
  | callr (w : SR)
  | fork (w : SS)
  | join (w : SS)
  | jbset (w : SS)
  | jbclr (w : SS)
  | jbwait (w : SS)
  | exit (w : SS)
  | exitAb (w : SS)
  | yield (w : SS)
  | lpSet (w : SS)
  | lpStride (w : SS)
  | lpRun (w : SS)
  | lpBrk (w : SS)
  | lpClamp (w : SS)
  | trap (w : SS)
  | eret (w : SS)
  | rdsr (w : SS)
  | wrsr (w : SS)
  | guard (w : SS)
  | brk (w : SS)
  | ccAdd (w : SS)
  | ccSet (w : SS)
  | waitLt (w : SS)
  | waitGe (w : SS)
  | tokPush (w : SS)
  | tokPop (w : SS)
  | fence (w : SS)
  | ldlB (w : SL)
  | ldlH (w : SL)
  | ldlW (w : SL)
  | ldlD (w : SL)
  | stlB (w : SL)
  | stlH (w : SL)
  | stlW (w : SL)
  | stlD (w : SL)
  | ldgB (w : SG)
  | ldgH (w : SG)
  | ldgW (w : SG)
  | ldgD (w : SG)
  | stgB (w : SG)
  | stgH (w : SG)
  | stgW (w : SG)
  | stgD (w : SG)
  deriving DecidableEq, Repr

/-- The vector-width and matrix-width words (R53, R55). -/
inductive WideWord where
  | vadd (w : VA)
  | vsub (w : VA)
  | vmul (w : VA)
  | vfma (w : VA)
  | vfms (w : VA)
  | vmin (w : VA)
  | vmax (w : VA)
  | vabs (w : VA)
  | vneg (w : VA)
  | vsqr (w : VA)
  | vrcp (w : VA)
  | vrsqrt (w : VA)
  | vexp2 (w : VA)
  | vlog2 (w : VA)
  | vand (w : VA)
  | vor (w : VA)
  | vxor (w : VA)
  | vshl (w : VA)
  | vshr (w : VA)
  | vsar (w : VA)
  | vceq (w : VA)
  | vclt (w : VA)
  | vcle (w : VA)
  | vsel (w : VA)
  | vperm (w : VA)
  | vbcast (w : VA)
  | vredAdd (w : VA)
  | vredMax (w : VA)
  | vredMin (w : VA)
  | vscanAdd (w : VA)
  | vmov (w : VA)
  | vclamp (w : VA)
  | vscale (w : VA)
  | vpop (w : VA)
  | vcvt (w : VA)
  | vq (w : VA)
  | vdq (w : VA)
  | vsp (w : VA)
  | vdsp (w : VA)
  | vsrSeed (w : VA)
  | vpk (w : VA)
  | vupk (w : VA)
  | ldm (w : ME)
  | ldmWait (w : ME)
  | ldmCons (w : ME)
  | stm (w : ME)
  | stmFill (w : ME)
  | stmOvf (w : ME)
  | stmSete (w : ME)
  | feProbe (w : ME)
  | feSet (w : ME)
  | atAdd (w : ME)
  | atSub (w : ME)
  | atAnd (w : ME)
  | atOr (w : ME)
  | atXor (w : ME)
  | atMin (w : ME)
  | atMax (w : ME)
  | atMinn (w : ME)
  | atMaxn (w : ME)
  | atXchg (w : ME)
  | atCas (w : ME)
  | atFadd (w : ME)
  | atInc (w : ME)
  | acq (w : ME)
  | rel (w : ME)
  | syncBind (w : ME)
  | syncUnbind (w : ME)
  | prefetch (w : ME)
  | cp (w : CP)
  | cpG (w : CP)
  | cpSc (w : CP)
  | cpBc (w : CP)
  | cpRed (w : CP)
  | cpW (w : CP)
  | cpMm (w : CP)
  | cpFe (w : CP)
  | cpZero (w : CP)
  | asCfg (w : CF)
  | asDim (w : CF)
  | asFmt (w : CF)
  | asBindLocal (w : CF)
  | asBindDevice (w : CF)
  | asRst (w : CF)
  | asAdv (w : CF)
  | sgBind (w : CF)
  | sgPin (w : CF)
  | sgUnpin (w : CF)
  | sgTouch (w : CF)
  | sgEvict (w : CF)
  | sgInfo (w : CF)
  | vlSet (w : CF)
  | wbSwap (w : SY)
  | wbStat (w : SY)
  | barInit (w : SY)
  | barArr (w : SY)
  | barWait (w : SY)
  | barXferIn (w : SY)
  | barXferOut (w : SY)
  | vbRd (w : SY)
  | vbWr (w : SY)
  | clkRatio (w : SY)
  | xld (w : SY)
  | xst (w : SY)
  | xat (w : SY)
  | xcpPush (w : SY)
  | xcpPull (w : SY)
  | xsigSet (w : SY)
  | xsigAdd (w : SY)
  | xfence (w : SY)
  | xroute (w : SY)
  | enRd (w : SY)
  | enMark (w : SY)
  | partId (w : SY)
  | tlbInv (w : SY)
  | tlbInvAll (w : SY)
  | segInv (w : SY)
  | tarRd (w : SY)
  | ctxSv (w : SY)
  | ctxSvEpi (w : SY)
  | ctxLd (w : SY)
  | ctxLdHold (w : SY)
  | ctxLdGo (w : SY)
  | mm (w : MX)
  | mmSp (w : MX)
  | mmTn (w : MX)
  | mdrain (w : MX)
  | mzero (w : MX)
  | mcorrLd (w : MX)
  | mcorrSt (w : MX)
  | mstat (w : MX)
  deriving DecidableEq, Repr

/-- An instruction word. -/
inductive AnyWord where
  | scalar (w : ScalarWord)
  | wide (w : WideWord)
  deriving DecidableEq, Repr

/-- Bundle header (R34). -/
structure Header where
  sync : BitVec 1
  present : BitVec 4
  first : BitVec 4
  last : BitVec 4
  sqd : BitVec 4
  dly : BitVec 4
  deriving DecidableEq, Repr

end Sys2Proof
end

