-- ==== Sys2Proof/Machine/Fields.lean ====
section
/-! DEFINITION. Bit fields: splitting a word into fields from its low end and joining it again, the codes of the closed
field sets of R46, sign extension (R29), and the fields of the SS words (R41). -/
namespace Sys2Proof

/-- The fields of a word, of the given widths, from bit 0 upward (R10). -/
def unpack : List Nat → Nat → List Nat
  | [], _ => []
  | w :: ws, n => n % 2 ^ w :: unpack ws (n / 2 ^ w)

/-- The word whose fields, from bit 0 upward, have these widths and values. -/
def pack : List (Nat × Nat) → Nat
  | [] => 0
  | (w, v) :: r => v + 2 ^ w * pack r

/-- Format of a format code (R46). -/
def Fmt.ofCode (c : BitVec 4) : Fmt :=
  match c.toNat with
  | 0 => .i8 | 1 => .i16 | 2 => .i32 | 3 => .i64 | 4 => .n8 | 5 => .n16 | 6 => .n32 | 7 => .n64
  | 8 => .t2 | 9 => .f4 | 10 => .f8a | 11 => .f8b | 12 => .x8 | 13 => .bf16 | 14 => .f16 | _ => .f32

/-- Width of an element in bits (R61-R66). -/
def Fmt.width : Fmt → Nat
  | .i8 | .n8 | .f8a | .f8b | .x8 => 8
  | .i16 | .n16 | .bf16 | .f16 => 16
  | .i32 | .n32 | .f32 => 32
  | .i64 | .n64 => 64
  | .t2 => 2
  | .f4 => 4

/-- Bytes of a copy or stream element: T2 and F4 count one byte (R184). -/
def Fmt.bytes (f : Fmt) : Nat := (f.width + 7) / 8

def Fmt.isSigned : Fmt → Bool
  | .i8 | .i16 | .i32 | .i64 => true
  | _ => false
def Fmt.isUnsigned : Fmt → Bool
  | .n8 | .n16 | .n32 | .n64 => true
  | _ => false
def Fmt.isInt (f : Fmt) : Bool := f.isSigned || f.isUnsigned
/-- The set FP of R199. -/
def Fmt.isFp : Fmt → Bool
  | .f32 | .bf16 | .f16 => true
  | _ => false
/-- The set INT of R199. -/
def Fmt.isVInt : Fmt → Bool
  | .i32 | .n32 | .i16 | .n16 => true
  | _ => false
/-- The set ANY of R199. -/
def Fmt.isAny (f : Fmt) : Bool := f.isFp || f.isVInt
/-- The set NARROW of R199. -/
def Fmt.isNarrow : Fmt → Bool
  | .i8 | .n8 | .t2 | .f4 | .f8a | .f8b | .x8 => true
  | _ => false
/-- The formats that vq writes and vdq reads (R210). -/
def Fmt.isQuant : Fmt → Bool
  | .i8 | .t2 | .f4 | .f8a | .f8b => true
  | _ => false

/-- Rounding mode of a code (R46); codes 5 to 7 are illegal and read as RNE here. -/
def Rnd.ofCode (c : BitVec 3) : Rnd :=
  match c.toNat with
  | 1 => .rtz | 2 => .rdn | 3 => .rup | 4 => .sr | _ => .rne

/-- Scope of a code (R46); codes 6 and 7 are illegal and read as strand here. -/
def Scope.ofCode (c : BitVec 3) : Scope :=
  match c.toNat with
  | 1 => .core | 2 => .cluster | 3 => .die | 4 => .package | 5 => .fabric | _ => .strand

/-- `Sx(v, n)` of R118's pseudocode: sign-extends bits n-1:0. -/
def sx (v : Word) (n : Nat) : Word := (v.setWidth n).signExtend 64
/-- `Zx(v, n)`: zero-extends bits n-1:0. -/
def zx (v : Word) (n : Nat) : Word := (v.setWidth n).setWidth 64
/-- Low `n` bits of a natural number as a signed integer. -/
def signedOf (n : Nat) (v : Nat) : Int :=
  let r := v % 2 ^ n
  if 2 * r < 2 ^ n then (r : Int) else (r : Int) - (2 ^ n : Nat)

/-- Bit `n` of a natural number. -/
def bitOf (v n : Nat) : Bool := v / 2 ^ n % 2 == 1

def Strand.num : Strand → Nat
  | .K => 0 | .L => 1 | .X => 2 | .S => 3
def Strand.ofNum : Nat → Strand
  | 0 => .K | 1 => .L | 2 => .X | _ => .S
/-- The four strands in slot order. -/
def Strand.all : List Strand := [.K, .L, .X, .S]

/-- Cause codes (R60). -/
def Cause.code : Cause → BitVec 8
  | .illegal => 0x01 | .slot => 0x02 | .priv => 0x03 | .align => 0x04 | .segfail => 0x05 | .segbound => 0x06
  | .page => 0x07 | .prot => 0x08 | .febudget => 0x09 | .barover => 0x0A | .poison => 0x0B | .divz => 0x0C
  | .trapi => 0x0D | .eccue => 0x0E | .queue => 0x0F | .stale => 0x10 | .exitq => 0x11

namespace SS
/-- fork: off17. -/
def off17 (w : SS) : BitVec 17 := w.f
/-- join: mask, K lowest. -/
def mask (w : SS) : BitVec 4 := w.f.extractLsb' 0 4
/-- join: join bit. -/
def jjb (w : SS) : BitVec 3 := w.f.extractLsb' 4 3
/-- jbset, jbclr, jbwait: join bit. -/
def jb (w : SS) : BitVec 3 := w.f.extractLsb' 0 3
/-- Sequencer words: level. -/
def lv (w : SS) : BitVec 3 := w.f.extractLsb' 0 3
/-- lp.set, lp.clamp: register. -/
def lpa (w : SS) : GReg := w.f.extractLsb' 3 5
/-- lp.stride: stream and register. -/
def lpas (w : SS) : BitVec 5 := w.f.extractLsb' 3 5
def lpsa (w : SS) : GReg := w.f.extractLsb' 8 5
/-- lp.run: parcels to the last bundle. -/
def off14 (w : SS) : BitVec 14 := w.f.extractLsb' 3 14
/-- rdsr, wrsr, guard: register. -/
def ra (w : SS) : GReg := w.f.extractLsb' 0 5
/-- rdsr, wrsr: special register number. -/
def srn (w : SS) : BitVec 12 := w.f.extractLsb' 5 12
/-- guard: bit. -/
def gbit (w : SS) : BitVec 6 := w.f.extractLsb' 5 6
/-- cc.add, cc.set, wait.lt, wait.ge: counter, register, immediate. -/
def cc (w : SS) : BitVec 4 := w.f.extractLsb' 0 4
def cca (w : SS) : GReg := w.f.extractLsb' 4 5
def imm8 (w : SS) : BitVec 8 := w.f.extractLsb' 9 8
/-- tok.push, tok.pop: side, 1 for the right neighbour. -/
def dir (w : SS) : Bool := w.f.getLsbD 0
/-- fence: classes K V M C A F from the low bit, and scope. -/
def classes (w : SS) : BitVec 6 := w.f.extractLsb' 0 6
def fscope (w : SS) : BitVec 3 := w.f.extractLsb' 6 3
end SS

/-- A matrix-width word with every field zero. -/
def MX.zero : MX :=
  ⟨⟨0, 0, 0, 0, 0⟩, 0, 0, 0, 0, 0, 0, 0, 0, 0, 0, 0, 0, 0, 0, 0, 0, 0, 0, 0, 0, 0, 0, 0, 0, 0, 0⟩

/-- Special register numbers that exist (R42). -/
def srKnown (n : BitVec 12) : Bool :=
  n.toNat ≤ 6 || (0x10 ≤ n.toNat && n.toNat ≤ 0x12) || (0x18 ≤ n.toNat && n.toNat ≤ 0x1F)

end Sys2Proof
end

