-- ==== Sys2Proof/Machine/Legal.lean ====
section
/-! DEFINITION. Which field values each instruction word admits: the conditions under which a word of its encoding raises
ILLEGAL (R40, R41, R44-R53, R58, R172, R210, R211, R238, R272, R287, R319-R327, R355, R395, R407). `legal` does not depend
on the slot; `legalIn` is the part that does. -/
namespace Sys2Proof

/-- GUARD of a vector-width or matrix-width word: disabled means all zero (R44). -/
def preOk (p : Pre) : Bool := p.en == 1 || (p.reg == 0 && p.bit == 0 && p.inv == 0)

/-- Kinds that a VA operand position admits (R210): V, S, Q, G. -/
structure Kinds where
  v : Bool
  s : Bool
  q : Bool
  g : Bool

def kVS : Kinds := ⟨true, true, false, false⟩
def kAll : Kinds := ⟨true, true, true, true⟩
def kV : Kinds := ⟨true, false, false, false⟩
def kVGQ : Kinds := ⟨true, false, true, true⟩
def kGQ : Kinds := ⟨false, false, true, true⟩
def kNone : Kinds := ⟨false, false, false, false⟩

/-- An operand that its position admits, within the limits of R45; an unused operand is all zero. -/
def vopOk (k : Kinds) (o : VOp) : Bool :=
  if !(k.v || k.s || k.q || k.g) then o.kind == 0 && o.index == 0 && o.stride == 0
  else match o.kind.toNat with
    | 0 => k.v && o.index.toNat < 16 && o.stride == 0
    | 1 => k.s && o.index.toNat < 32
    | 2 => k.q && o.index.toNat < 3 && o.stride == 0
    | _ => k.g && o.index.toNat < 32 && o.stride == 0

/-- Which rounding codes or sat bits a row of R210 admits. -/
inductive Opt where
  | none | fp | int | all

def optOk (o : Opt) (f : Fmt) (nonzero : Bool) : Bool :=
  !nonzero || (match o with
    | .none => false
    | .fp => f.isFp
    | .int => f.isVInt
    | .all => true)

/-- The common checks of a VA word: operands, rounding code, sat, sq, and the aux bits that the row assigns. -/
def vaOk (w : VA) (k0 k1 k2 : Kinds) (fmtOk : Bool) (rnd sat : Opt) (auxMask : BitVec 12) : Bool :=
  let f := Fmt.ofCode w.fmt
  preOk w.pre && vopOk k0 w.op0 && vopOk k1 w.op1 && vopOk k2 w.op2 && fmtOk && w.rnd.toNat < 5 &&
    optOk rnd f (w.rnd != 0) && optOk sat f (w.sat != 0) && w.sq == 0 && (w.aux &&& ~~~auxMask) == 0

def VA.f (w : VA) : Fmt := Fmt.ofCode w.fmt
def VA.anyF (w : VA) : Bool := w.f.isAny
/-- aux source format of vcvt (bits 3:0) and of vq, vdq (bits 8:5) (R211). -/
def VA.sfmtLow (w : VA) : Fmt := Fmt.ofCode (w.aux.extractLsb' 0 4)
def VA.sfmtHigh (w : VA) : Fmt := Fmt.ofCode (w.aux.extractLsb' 5 4)
/-- Elements kept of 24 by the N code (R52, R211). -/
def keptOf (n : BitVec 2) : Nat :=
  match n.toNat with
  | 1 => 6 | 2 => 8 | 3 => 12 | _ => 24
def Fmt.isSparse : Fmt → Bool
  | .i8 | .f4 | .f8a | .f8b | .bf16 | .f16 => true
  | _ => false

/-- Bytes of a memory-extended width code (R47). -/
def ME.n (w : ME) : Nat := 2 ^ w.width.toNat

/-- Checks of R47 and the atom that width requires of F/E forms and atomics (R172, R319). -/
def meOk (w : ME) : Bool :=
  preOk w.pre && w.width.toNat ≤ 4 && w.fe.toNat ≤ 5 && w.atom != 3 && w.ord != 3 && w.scope.toNat ≤ 5 &&
    ((w.ord == 0) == (w.scope == 0)) && !(w.atom == 1 && w.width.toNat < 3) && !(w.atom == 2 && w.width.toNat != 4) &&
    !(w.width.toNat == 4 && w.d.toNat % 2 == 1) && !(w.space == 1 && w.imm.toNat > 63)
def atomMatches (w : ME) : Bool :=
  w.atom.toNat == (if w.width.toNat == 3 then 1 else if w.width.toNat == 4 then 2 else 0)
def ldmOk (w : ME) (fe : Nat) : Bool :=
  meOk w && w.fe.toNat == fe && w.ord != 2 && (fe == 0 || w.width.toNat < 3 || atomMatches w) &&
    w.b == 0 && w.c == 0 && w.afmt == 0 && w.fval == 0
def stmOk (w : ME) (fe : Nat) : Bool :=
  meOk w && w.fe.toNat == fe && w.ord != 1 && w.zx == 0 && (fe == 0 || w.width.toNat < 3 || atomMatches w) &&
    w.b == 0 && w.c == 0 && w.afmt == 0 && w.fval == 0
/-- Integer atomics (R319). -/
def atOk (w : ME) (cas : Bool) : Bool :=
  meOk w && w.fe == 0 && w.fval == 0 && w.afmt == 0 && w.width.toNat ≥ 2 && atomMatches w && (cas || w.c == 0) &&
    !(w.width.toNat == 4 && (w.b.toNat % 2 == 1 || w.c.toNat % 2 == 1))

def cpOk (w : CP) (useIdx : Bool) : Bool :=
  preOk w.pre && w.dst.toNat < 32 && w.src.toNat < 32 && (useIdx || w.idx == 0) && w.rfmt == 0

/-- The fields of a CF word that a row does not use are zero (R180); the flags say which it uses. -/
def cfOk (w : CF) (t h a b i d f n : Bool) : Bool :=
  preOk w.pre && (t || w.t == 0) && (h || w.handle == 0) && (a || w.a == 0) && (b || w.b == 0) && (i || w.imm == 0) &&
    (d || w.dim == 0) && (f || w.fmt == 0) && (n || w.name == 0)

/-- The fields of an SY word that a row does not use are zero (R50, R272, R395). -/
def syOk (w : SY) (d a b c i s f cc sq : Bool) : Bool :=
  preOk w.pre && (d || w.d == 0) && (a || w.a == 0) && (b || w.b == 0) && (c || w.c == 0) && (i || w.imm == 0) &&
    (s || w.scope == 0) && (f || w.fmt == 0) && (cc || (w.cc == 0 && w.inc == 0)) && (sq || w.sq == 0)
def barScope (w : SY) : Bool := w.scope == 1 || w.scope == 2 || w.scope == 3
/-- ORD of a fabric word and the scope it requires (R407). -/
def SY.ordF (w : SY) : BitVec 2 := w.imm.extractLsb' 4 2
def fabScope (w : SY) : Bool := w.scope == (if w.ordF == 0 then 0 else 5)
def invScope (w : SY) : Bool := w.scope == 1 || w.scope == 3 || w.scope == 4

/-- Kind and index limits of the A and B operands, scales and metadata of a step (R52). -/
def stepOperandsOk (w : MX) : Bool :=
  w.fuse.toNat < 4 && w.aKind.toNat < 2 && w.bKind.toNat < 3 && w.kb != 0 &&
    (w.aKind == 0 || w.aIdx.toNat < 32) && (w.bKind != 1 || w.bIdx.toNat < 32) &&
    (w.saEn == 1 || w.sa == 0) && (w.sbEn == 1 || w.sb == 0) && (w.mdEn == 1 || w.md == 0)
def noDrain (w : MX) : Bool := w.handle == 0 && w.off == 0 && w.dfmt == 0 && w.rnd == 0 && w.sat == 0
def noStep (w : MX) : Bool :=
  w.first == 0 && w.fmtA == 0 && w.fmtB == 0 && w.aKind == 0 && w.aIdx == 0 && w.bKind == 0 && w.bIdx == 0 &&
    w.kb == 0 && w.saEn == 0 && w.sa == 0 && w.sbEn == 0 && w.sb == 0
def noMeta (w : MX) : Bool := w.mdEn == 0 && w.md == 0 && w.n == 0
def Fmt.isExactM : Fmt → Bool
  | .i8 | .f4 | .f8a => true
  | _ => false
def Fmt.isAligned : Fmt → Bool
  | .f8b | .bf16 => true
  | _ => false
/-- The format pairs of mm and mm.sp (R238). -/
def mmPair (a b : Fmt) : Bool :=
  (a.isExactM || a.isAligned) && (b.isExactM || b.isAligned)
def Fmt.isDrain : Fmt → Bool
  | .f32 | .bf16 | .f16 | .f8a | .f8b | .f4 | .i8 => true
  | _ => false
def mxOk (w : MX) : Bool := preOk w.pre && w.mask == 0 && w.statD == 0

/-- Bits of an SS word beyond those its row assigns are zero. -/
def ssOk (w : SS) (bits : Nat) : Bool := w.gm != 3 && w.f.toNat < 2 ^ bits
def lvOk (w : SS) : Bool := w.lv.toNat < 6
/-- Number of strands a join mask names. -/
def maskCount (m : BitVec 4) : Nat :=
  (m.getLsbD 0).toNat + (m.getLsbD 1).toNat + (m.getLsbD 2).toNat + (m.getLsbD 3).toNat

def srOk (w : SR) : Bool := w.gm != 3
def unaryOk (w : SR) : Bool := w.gm != 3 && w.b == 0
def jrOk (w : SR) : Bool := w.gm != 3 && w.b == 0 && w.d == 0
def siOk (w : SI) : Bool := w.gm != 3
def shiOk (w : SI) : Bool := w.gm != 3 && w.imm.toNat < 64
def sfOk (w : SF) : Bool := w.gm != 3 && w.pos.toNat + w.len1.toNat + 1 ≤ 64
def bitOk (w : SCI) (code : Nat) : Bool := w.gm != 3 && w.a == 0 && w.imm.toNat == code

/-- Whether the field values of a scalar word are ones that its encoding admits. -/
def ScalarWord.legal : ScalarWord → Bool
  | .add w => srOk w
  | .sub w => srOk w
  | .mul w => srOk w
  | .mulh w => srOk w
  | .mulhn w => srOk w
  | .div w => srOk w
  | .divn w => srOk w
  | .rem w => srOk w
  | .remn w => srOk w
  | .and w => srOk w
  | .or w => srOk w
  | .xor w => srOk w
  | .andn w => srOk w
  | .orn w => srOk w
  | .shl w => srOk w
  | .shr w => srOk w
  | .sar w => srOk w
  | .rol w => srOk w
  | .ror w => srOk w
  | .min w => srOk w
  | .max w => srOk w
  | .minn w => srOk w
  | .maxn w => srOk w
  | .addw w => srOk w
  | .subw w => srOk w
  | .mulw w => srOk w
  | .shlw w => srOk w
  | .shrw w => srOk w
  | .sarw w => srOk w
  | .mov w => unaryOk w
  | .not w => unaryOk w
  | .neg w => unaryOk w
  | .abs w => unaryOk w
  | .clz w => unaryOk w
  | .ctz w => unaryOk w
  | .popc w => unaryOk w
  | .brev w => unaryOk w
  | .bswap w => unaryOk w
  | .sxb w => unaryOk w
  | .sxh w => unaryOk w
  | .sxw w => unaryOk w
  | .zxb w => unaryOk w
  | .zxh w => unaryOk w
  | .zxw w => unaryOk w
  | .addi w => siOk w
  | .andi w => siOk w
  | .ori w => siOk w
  | .xori w => siOk w
  | .shli w => shiOk w
  | .shri w => shiOk w
  | .sari w => shiOk w
  | .muli w => siOk w
  | .addwi w => siOk w
  | .lui w => w.gm != 3
  | .lih w => w.gm != 3
  | .pca w => w.gm != 3
  | .bfx w => sfOk w
  | .bfxn w => sfOk w
  | .bfi w => sfOk w
  | .ceq w => w.gm != 3
  | .cne w => w.gm != 3
  | .clt w => w.gm != 3
  | .cle w => w.gm != 3
  | .cltn w => w.gm != 3
  | .clen w => w.gm != 3
  | .ceqi w => w.gm != 3
  | .cnei w => w.gm != 3
  | .clti w => w.gm != 3
  | .cgti w => w.gm != 3
  | .bset w => bitOk w 0
  | .bclr w => bitOk w 1
  | .bnot w => bitOk w 2
  | .brT w => w.gm != 3
  | .brF w => w.gm != 3
  | .jmp w => w.gm != 3
  | .call w => w.gm != 3
  | .jr w => jrOk w
  | .callr w => jrOk w
  | .fork w => ssOk w 17
  | .join w => ssOk w 7 && maskCount w.mask ≥ 2
  | .jbset w => ssOk w 3
  | .jbclr w => ssOk w 3
  | .jbwait w => ssOk w 3
  | .exit w => ssOk w 0
  | .exitAb w => ssOk w 0
  | .yield w => ssOk w 0
  | .lpSet w => ssOk w 8 && lvOk w
  | .lpStride w => ssOk w 13 && lvOk w
  | .lpRun w => ssOk w 17 && lvOk w
  | .lpBrk w => ssOk w 3 && lvOk w
  | .lpClamp w => ssOk w 8 && lvOk w
  | .trap w => ssOk w 17
  | .eret w => ssOk w 0
  | .rdsr w => ssOk w 17 && srKnown w.srn
  | .wrsr w => ssOk w 17 && srKnown w.srn
  | .guard w => ssOk w 11
  | .brk w => ssOk w 17
  | .ccAdd w => ssOk w 17
  | .ccSet w => ssOk w 17
  | .waitLt w => ssOk w 17
  | .waitGe w => ssOk w 17
  | .tokPush w => ssOk w 1
  | .tokPop w => ssOk w 1
  | .fence w => ssOk w 9 && w.classes != 0 && w.fscope.toNat < 6
  | .ldlB w => w.gm != 3
  | .ldlH w => w.gm != 3
  | .ldlW w => w.gm != 3
  | .ldlD w => w.gm != 3
  | .stlB w => w.gm != 3
  | .stlH w => w.gm != 3
  | .stlW w => w.gm != 3
  | .stlD w => w.gm != 3
  | .ldgB w => w.gm != 3
  | .ldgH w => w.gm != 3
  | .ldgW w => w.gm != 3
  | .ldgD w => w.gm != 3
  | .stgB w => w.gm != 3
  | .stgH w => w.gm != 3
  | .stgW w => w.gm != 3
  | .stgD w => w.gm != 3

/-- Whether the field values of a vector-width or matrix-width word are ones that its encoding admits. -/
def WideWord.legal : WideWord → Bool
  | .vadd w => vaOk w kVS kAll kAll (w.anyF) .fp .all 0
  | .vsub w => vaOk w kVS kAll kAll (w.anyF) .fp .all 0
  | .vmul w => vaOk w kVS kAll kAll (w.anyF) .fp .all 0
  | .vfma w => vaOk w kV kAll kAll (w.anyF) .fp .all 0
  | .vfms w => vaOk w kV kAll kAll (w.anyF) .fp .all 0
  | .vmin w => vaOk w kVS kAll kAll (w.anyF) .none .none 0
  | .vmax w => vaOk w kVS kAll kAll (w.anyF) .none .none 0
  | .vabs w => vaOk w kVS kAll kNone (w.anyF) .none .int 0
  | .vneg w => vaOk w kVS kAll kNone (w.anyF) .none .int 0
  | .vsqr w => vaOk w kVS kAll kNone (w.anyF) .fp .all 0
  | .vrcp w => vaOk w kVS kAll kNone (w.f.isFp) .all .all 0
  | .vrsqrt w => vaOk w kVS kAll kNone (w.f.isFp) .all .all 0
  | .vexp2 w => vaOk w kVS kAll kNone (w.f.isFp) .all .all 0
  | .vlog2 w => vaOk w kVS kAll kNone (w.f.isFp) .all .all 0
  | .vand w => vaOk w kVS kAll kAll (w.anyF) .none .none 0
  | .vor w => vaOk w kVS kAll kAll (w.anyF) .none .none 0
  | .vxor w => vaOk w kVS kAll kAll (w.anyF) .none .none 0
  | .vshl w => vaOk w kVS kAll kAll (w.f.isVInt) .none .none 0
  | .vshr w => vaOk w kVS kAll kAll (w.f.isVInt) .none .none 0
  | .vsar w => vaOk w kVS kAll kAll (w.f.isVInt) .none .none 0
  | .vceq w => vaOk w kVS kAll kAll (w.anyF) .none .none 0
  | .vclt w => vaOk w kVS kAll kAll (w.anyF) .none .none 0
  | .vcle w => vaOk w kVS kAll kAll (w.anyF) .none .none 0
  | .vsel w => vaOk w kVS kAll kAll (w.anyF) .none .none 0xF
  | .vperm w => vaOk w kVS kV kAll (w.anyF) .none .none 0
  | .vbcast w => vaOk w kVS kV kNone (w.anyF) .none .none 0x7FF && w.aux.toNat < 4096 / w.f.width
  | .vredAdd w => vaOk w kVGQ kAll kNone (w.anyF) .fp .all 0
  | .vredMax w => vaOk w kVGQ kAll kNone (w.anyF) .none .none 0
  | .vredMin w => vaOk w kVGQ kAll kNone (w.anyF) .none .none 0
  | .vscanAdd w => vaOk w kVS kAll kNone (w.anyF) .fp .all 0
  | .vmov w => vaOk w kVS kAll kNone (w.anyF) .none .none 0
  | .vclamp w => vaOk w kVS kAll kAll (w.anyF) .none .none 0xF
  | .vscale w => vaOk w kVS kAll kAll (w.f.isFp) .all .all 0
  | .vpop w => vaOk w kGQ kAll kNone (w.anyF) .none .none 0
  | .vcvt w => vaOk w kVS kAll kNone ((w.f.isAny || w.f.isNarrow) && (w.sfmtLow.isAny || w.sfmtLow.isNarrow)) .all .all 0xF
  | .vq w => vaOk w kVS kAll kNone (w.f.isQuant && w.sfmtHigh.isFp) .all .none 0x1FF
  | .vdq w => vaOk w kVS kAll kNone (w.f.isFp && w.sfmtHigh.isQuant) .all .all 0x1FF
  | .vsp w => vaOk w kVS kVS kNone (w.f.isSparse) .none .none 0x7F && w.aux.extractLsb' 5 2 != 0
  | .vdsp w => vaOk w kVS kVS kNone (w.f.isSparse) .none .none 0x7F && w.aux.extractLsb' 5 2 != 0
  | .vsrSeed w => vaOk w kNone kGQ kNone (w.fmt == 0) .none .none 0
  | .vpk w => vaOk w kVS kV kV (w.f == .i16 || w.f == .n16 || w.f == .i8 || w.f == .n8) .none .all 0
  | .vupk w => vaOk w kVS kV kNone (w.f.isVInt) .none .none 1
  | .ldm w => ldmOk w 0
  | .ldmWait w => ldmOk w 1
  | .ldmCons w => ldmOk w 2
  | .stm w => stmOk w 0
  | .stmFill w => stmOk w 3
  | .stmOvf w => stmOk w 4
  | .stmSete w => stmOk w 5
  | .feProbe w => meOk w && atomMatches w && w.ord != 2 && w.fe == 0 && w.zx == 0 && w.sq == 0 && w.fval == 0 && w.b == 0 && w.c == 0 && w.afmt == 0
  | .feSet w => meOk w && atomMatches w && w.ord != 1 && w.fe == 0 && w.zx == 0 && w.sq == 0 && w.d == 0 && w.b == 0 && w.c == 0 && w.afmt == 0
  | .atAdd w => atOk w false
  | .atSub w => atOk w false
  | .atAnd w => atOk w false
  | .atOr w => atOk w false
  | .atXor w => atOk w false
  | .atMin w => atOk w false
  | .atMax w => atOk w false
  | .atMinn w => atOk w false
  | .atMaxn w => atOk w false
  | .atXchg w => atOk w false
  | .atCas w => atOk w true
  | .atFadd w => meOk w && w.fe == 0 && w.fval == 0 && w.zx == 0 && w.c == 0 && w.width == 2 && w.atom == 0 && (w.afmt == 0xF || w.afmt == 0xD)
  | .atInc w => atOk w false
  | .acq w => meOk w && w.width == 3 && w.atom == 1 && w.ord == 1 && w.c == 0 && w.space == 0 && w.handle == 0 && w.zx == 0 && w.fe == 0 && w.sq == 0 && w.afmt == 0 && w.fval == 0
  | .rel w => meOk w && w.width == 3 && w.atom == 1 && w.ord == 2 && w.b == 0 && w.c == 0 && w.space == 0 && w.handle == 0 && w.zx == 0 && w.fe == 0 && w.sq == 0 && w.afmt == 0 && w.fval == 0
  | .syncBind w => preOk w.pre && w.d == 0 && w.width == 0 && w.atom == 0 && w.ord == 0 && w.scope == 0 && w.space == 0 && w.handle == 0 && w.zx == 0 && w.fe == 0 && w.sq == 0 && w.afmt == 0 && w.fval == 0
  | .syncUnbind w => preOk w.pre && w.d == 0 && w.b == 0 && w.c == 0 && w.width == 0 && w.atom == 0 && w.ord == 0 && w.scope == 0 && w.space == 0 && w.handle == 0 && w.zx == 0 && w.fe == 0 && w.sq == 0 && w.afmt == 0 && w.fval == 0
  | .prefetch w => preOk w.pre && !(w.space == 1 && w.imm.toNat > 63) && w.d == 0 && w.b == 0 && w.c == 0 && w.width == 0 && w.atom == 0 && w.ord == 0 && w.scope == 0 && w.zx == 0 && w.fe == 0 && w.sq == 0 && w.afmt == 0 && w.fval == 0
  | .cp w => cpOk w false
  | .cpG w => cpOk w true
  | .cpSc w => cpOk w true
  | .cpBc w => cpOk w false
  | .cpRed w => preOk w.pre && w.dst.toNat < 32 && w.src.toNat < 32 && w.idx == 0 && ((Fmt.ofCode w.rfmt).isInt || (Fmt.ofCode w.rfmt).isFp)
  | .cpW w => preOk w.pre && w.src.toNat < 32 && w.idx == 0 && w.rfmt == 0 && w.fe == 0
  | .cpMm w => cpOk w false
  | .cpFe w => cpOk w false && w.src == 0 && w.fe.toNat ≥ 2
  | .cpZero w => cpOk w false && w.src == 0 && w.fe != 1
  | .asCfg w => cfOk w true true true false true false false false
  | .asDim w => cfOk w true false true true false true false false
  | .asFmt w => cfOk w true false false false false false true false
  | .asBindLocal w => cfOk w true true true false true false false false && w.imm == 0
  | .asBindDevice w => cfOk w true true true false true false false false && w.imm == 1
  | .asRst w => cfOk w true false false false false false false false
  | .asAdv w => cfOk w true false true false false false false false
  | .sgBind w => cfOk w false true false false false false false true
  | .sgPin w => cfOk w false false true false false false false false
  | .sgUnpin w => cfOk w false false true false false false false false
  | .sgTouch w => cfOk w false true false false false false false false
  | .sgEvict w => cfOk w false true false false false false false false
  | .sgInfo w => cfOk w true true false false false false false false
  | .vlSet w => cfOk w false false true false false false false false
  | .wbSwap w => syOk w false false false false false false false true false
  | .wbStat w => syOk w true false false false false false false false false
  | .barInit w => syOk w false true true false false false false false false
  | .barArr w => syOk w true true false false true true false false false && barScope w && w.imm != 0
  | .barWait w => syOk w true true true false false true false false false && barScope w
  | .barXferIn w => syOk w false true true false true false false false false && w.imm == 0
  | .barXferOut w => syOk w false true true false true false false false false && w.imm == 1
  | .vbRd w => syOk w true true false false true false false false false
  | .vbWr w => syOk w true true true false true false false false false
  | .clkRatio w => syOk w true true false false false false false false false
  | .xld w => syOk w true true true false true true true true true && (w.imm &&& ~~~0x30) == 0 && w.ordF.toNat < 2 && w.fmt.toNat < 8 && fabScope w
  | .xst w => syOk w true true true false true true true true true && (w.imm &&& ~~~0xF0) == 0 && (w.ordF == 0 || w.ordF == 2) && w.imm.extractLsb' 6 2 != 3 && w.fmt.toNat < 8 && fabScope w
  | .xat w => syOk w true true true true true true true true true && (w.imm &&& ~~~0x3F) == 0 && w.ordF != 3 && (w.imm.extractLsb' 0 4).toNat ≤ 10 && (if w.imm.extractLsb' 0 4 == 10 then w.fmt == 0xF else (w.fmt == 2 || w.fmt == 3 || w.fmt == 6 || w.fmt == 7)) && fabScope w
  | .xcpPush w => syOk w false true true false true false false true true && w.imm.toNat < 256 && !w.imm.getLsbD 5
  | .xcpPull w => syOk w false true true false true false false true true && w.imm.toNat < 256 && w.imm.getLsbD 5
  | .xsigSet w => syOk w false true true true true true false true true && w.imm.toNat < 4 && !w.imm.getLsbD 0 && w.scope == 5
  | .xsigAdd w => syOk w false true true true true true false true true && w.imm.toNat < 4 && w.imm.getLsbD 0 && w.scope == 5
  | .xfence w => syOk w false false false false false false false true true
  | .xroute w => syOk w true true false false false false false false false
  | .enRd w => syOk w true false false false true false false false false && w.imm.toNat ≤ 11
  | .enMark w => syOk w false true false false false false false false false
  | .partId w => syOk w true false false false false false false false false
  | .tlbInv w => syOk w false true true false true true false false false && w.imm == 0 && invScope w
  | .tlbInvAll w => syOk w false true true false true true false false false && w.imm == 1 && w.a == 0 && w.b == 0 && invScope w
  | .segInv w => syOk w true true false false false false false false false
  | .tarRd w => syOk w true true false false true false false false false && w.imm.toNat ≤ 1
  | .ctxSv w => syOk w true true true false true false false false false && w.imm.toNat < 2
  | .ctxSvEpi w => syOk w true true true false true false false false false && (w.imm == 2 || w.imm == 3)
  | .ctxLd w => syOk w true true false false true false false false false && w.imm.toNat < 2
  | .ctxLdHold w => syOk w true true false false true false false false false && (w.imm == 2 || w.imm == 3)
  | .ctxLdGo w => syOk w true true false false true false false false false && (w.imm == 4 || w.imm == 5) && w.a == 0
  | .mm w => mxOk w && stepOperandsOk w && noDrain w && noMeta w && mmPair (Fmt.ofCode w.fmtA) (Fmt.ofCode w.fmtB)
  | .mmSp w => mxOk w && stepOperandsOk w && noDrain w && w.n != 0 && mmPair (Fmt.ofCode w.fmtA) (Fmt.ofCode w.fmtB)
  | .mmTn w => mxOk w && stepOperandsOk w && noDrain w && noMeta w && w.fmtA == 0 && w.fmtB == 8
  | .mdrain w => mxOk w && noStep w && noMeta w && w.fuse.toNat < 4 && (Fmt.ofCode w.dfmt).isDrain && w.rnd.toNat < 5
  | .mzero w => mxOk w && noStep w && noMeta w && noDrain w && w.fuse.toNat < 4
  | .mcorrLd w => preOk w.pre && noStep w && noMeta w && w.fuse == 0 && w.dfmt == 0 && w.rnd == 0 && w.sat == 0 && w.statD == 0 && w.mask != 0
  | .mcorrSt w => preOk w.pre && noStep w && noMeta w && w.fuse == 0 && w.dfmt == 0 && w.rnd == 0 && w.sat == 0 && w.statD == 0 && w.mask != 0
  | .mstat w => preOk w.pre && noStep w && noMeta w && noDrain w && w.fuse == 0 && w.mask == 0 && w.cc == 0 && w.inc == 0 && w.sq == 0

def AnyWord.legal : AnyWord → Bool
  | .scalar w => w.legal
  | .wide w => w.legal

/-- The side on which a strand of this slot has no neighbour in the line K-L-X-S (R41, R44): left of K, right of S. -/
def tokOk (p : Strand) (tok : BitVec 4) : Bool :=
  match p with
  | .K => !(tok.getLsbD 0) && !(tok.getLsbD 2)
  | .S => !(tok.getLsbD 1) && !(tok.getLsbD 3)
  | _ => true

/-- GUARD and TOK (R44). -/
def WideWord.pre : WideWord → Pre
  | .vadd w => w.pre
  | .vsub w => w.pre
  | .vmul w => w.pre
  | .vfma w => w.pre
  | .vfms w => w.pre
  | .vmin w => w.pre
  | .vmax w => w.pre
  | .vabs w => w.pre
  | .vneg w => w.pre
  | .vsqr w => w.pre
  | .vrcp w => w.pre
  | .vrsqrt w => w.pre
  | .vexp2 w => w.pre
  | .vlog2 w => w.pre
  | .vand w => w.pre
  | .vor w => w.pre
  | .vxor w => w.pre
  | .vshl w => w.pre
  | .vshr w => w.pre
  | .vsar w => w.pre
  | .vceq w => w.pre
  | .vclt w => w.pre
  | .vcle w => w.pre
  | .vsel w => w.pre
  | .vperm w => w.pre
  | .vbcast w => w.pre
  | .vredAdd w => w.pre
  | .vredMax w => w.pre
  | .vredMin w => w.pre
  | .vscanAdd w => w.pre
  | .vmov w => w.pre
  | .vclamp w => w.pre
  | .vscale w => w.pre
  | .vpop w => w.pre
  | .vcvt w => w.pre
  | .vq w => w.pre
  | .vdq w => w.pre
  | .vsp w => w.pre
  | .vdsp w => w.pre
  | .vsrSeed w => w.pre
  | .vpk w => w.pre
  | .vupk w => w.pre
  | .ldm w => w.pre
  | .ldmWait w => w.pre
  | .ldmCons w => w.pre
  | .stm w => w.pre
  | .stmFill w => w.pre
  | .stmOvf w => w.pre
  | .stmSete w => w.pre
  | .feProbe w => w.pre
  | .feSet w => w.pre
  | .atAdd w => w.pre
  | .atSub w => w.pre
  | .atAnd w => w.pre
  | .atOr w => w.pre
  | .atXor w => w.pre
  | .atMin w => w.pre
  | .atMax w => w.pre
  | .atMinn w => w.pre
  | .atMaxn w => w.pre
  | .atXchg w => w.pre
  | .atCas w => w.pre
  | .atFadd w => w.pre
  | .atInc w => w.pre
  | .acq w => w.pre
  | .rel w => w.pre
  | .syncBind w => w.pre
  | .syncUnbind w => w.pre
  | .prefetch w => w.pre
  | .cp w => w.pre
  | .cpG w => w.pre
  | .cpSc w => w.pre
  | .cpBc w => w.pre
  | .cpRed w => w.pre
  | .cpW w => w.pre
  | .cpMm w => w.pre
  | .cpFe w => w.pre
  | .cpZero w => w.pre
  | .asCfg w => w.pre
  | .asDim w => w.pre
  | .asFmt w => w.pre
  | .asBindLocal w => w.pre
  | .asBindDevice w => w.pre
  | .asRst w => w.pre
  | .asAdv w => w.pre
  | .sgBind w => w.pre
  | .sgPin w => w.pre
  | .sgUnpin w => w.pre
  | .sgTouch w => w.pre
  | .sgEvict w => w.pre
  | .sgInfo w => w.pre
  | .vlSet w => w.pre
  | .wbSwap w => w.pre
  | .wbStat w => w.pre
  | .barInit w => w.pre
  | .barArr w => w.pre
  | .barWait w => w.pre
  | .barXferIn w => w.pre
  | .barXferOut w => w.pre
  | .vbRd w => w.pre
  | .vbWr w => w.pre
  | .clkRatio w => w.pre
  | .xld w => w.pre
  | .xst w => w.pre
  | .xat w => w.pre
  | .xcpPush w => w.pre
  | .xcpPull w => w.pre
  | .xsigSet w => w.pre
  | .xsigAdd w => w.pre
  | .xfence w => w.pre
  | .xroute w => w.pre
  | .enRd w => w.pre
  | .enMark w => w.pre
  | .partId w => w.pre
  | .tlbInv w => w.pre
  | .tlbInvAll w => w.pre
  | .segInv w => w.pre
  | .tarRd w => w.pre
  | .ctxSv w => w.pre
  | .ctxSvEpi w => w.pre
  | .ctxLd w => w.pre
  | .ctxLdHold w => w.pre
  | .ctxLdGo w => w.pre
  | .mm w => w.pre
  | .mmSp w => w.pre
  | .mmTn w => w.pre
  | .mdrain w => w.pre
  | .mzero w => w.pre
  | .mcorrLd w => w.pre
  | .mcorrSt w => w.pre
  | .mstat w => w.pre

/-- The conditions on a word's encoding that depend on the executing strand and context (R41, R44, R133). -/
def AnyWord.legalIn (p : Strand) (x : Ctx) : AnyWord → Bool
  | .scalar (.join w) => w.mask.getLsbD p.num
  | .scalar (.tokPush w) | .scalar (.tokPop w) => !(p == .K && !w.dir) && !(p == .S && w.dir)
  | .scalar (.lpSet _) | .scalar (.lpStride _) | .scalar (.lpRun _) | .scalar (.lpBrk _) => x != .fw
  | .scalar _ => true
  | .wide w => tokOk p w.pre.tok

/-- The word of a row of the table; none for an event, which has no encoding. -/
def Instr.word? : Instr → Option AnyWord
  | .add w => some (.scalar (.add w))
  | .sub w => some (.scalar (.sub w))
  | .mul w => some (.scalar (.mul w))
  | .mulh w => some (.scalar (.mulh w))
  | .mulhn w => some (.scalar (.mulhn w))
  | .div w => some (.scalar (.div w))
  | .divn w => some (.scalar (.divn w))
  | .rem w => some (.scalar (.rem w))
  | .remn w => some (.scalar (.remn w))
  | .and w => some (.scalar (.and w))
  | .or w => some (.scalar (.or w))
  | .xor w => some (.scalar (.xor w))
  | .andn w => some (.scalar (.andn w))
  | .orn w => some (.scalar (.orn w))
  | .shl w => some (.scalar (.shl w))
  | .shr w => some (.scalar (.shr w))
  | .sar w => some (.scalar (.sar w))
  | .rol w => some (.scalar (.rol w))
  | .ror w => some (.scalar (.ror w))
  | .min w => some (.scalar (.min w))
  | .max w => some (.scalar (.max w))
  | .minn w => some (.scalar (.minn w))
  | .maxn w => some (.scalar (.maxn w))
  | .addw w => some (.scalar (.addw w))
  | .subw w => some (.scalar (.subw w))
  | .mulw w => some (.scalar (.mulw w))
  | .shlw w => some (.scalar (.shlw w))
  | .shrw w => some (.scalar (.shrw w))
  | .sarw w => some (.scalar (.sarw w))
  | .mov w => some (.scalar (.mov w))
  | .not w => some (.scalar (.not w))
  | .neg w => some (.scalar (.neg w))
  | .abs w => some (.scalar (.abs w))
  | .clz w => some (.scalar (.clz w))
  | .ctz w => some (.scalar (.ctz w))
  | .popc w => some (.scalar (.popc w))
  | .brev w => some (.scalar (.brev w))
  | .bswap w => some (.scalar (.bswap w))
  | .sxb w => some (.scalar (.sxb w))
  | .sxh w => some (.scalar (.sxh w))
  | .sxw w => some (.scalar (.sxw w))
  | .zxb w => some (.scalar (.zxb w))
  | .zxh w => some (.scalar (.zxh w))
  | .zxw w => some (.scalar (.zxw w))
  | .addi w => some (.scalar (.addi w))
  | .andi w => some (.scalar (.andi w))
  | .ori w => some (.scalar (.ori w))
  | .xori w => some (.scalar (.xori w))
  | .shli w => some (.scalar (.shli w))
  | .shri w => some (.scalar (.shri w))
  | .sari w => some (.scalar (.sari w))
  | .muli w => some (.scalar (.muli w))
  | .addwi w => some (.scalar (.addwi w))
  | .lui w => some (.scalar (.lui w))
  | .lih w => some (.scalar (.lih w))
  | .pca w => some (.scalar (.pca w))
  | .bfx w => some (.scalar (.bfx w))
  | .bfxn w => some (.scalar (.bfxn w))
  | .bfi w => some (.scalar (.bfi w))
  | .ceq w => some (.scalar (.ceq w))
  | .cne w => some (.scalar (.cne w))
  | .clt w => some (.scalar (.clt w))
  | .cle w => some (.scalar (.cle w))
  | .cltn w => some (.scalar (.cltn w))
  | .clen w => some (.scalar (.clen w))
  | .ceqi w => some (.scalar (.ceqi w))
  | .cnei w => some (.scalar (.cnei w))
  | .clti w => some (.scalar (.clti w))
  | .cgti w => some (.scalar (.cgti w))
  | .bset w => some (.scalar (.bset w))
  | .bclr w => some (.scalar (.bclr w))
  | .bnot w => some (.scalar (.bnot w))
  | .brT w => some (.scalar (.brT w))
  | .brF w => some (.scalar (.brF w))
  | .jmp w => some (.scalar (.jmp w))
  | .call w => some (.scalar (.call w))
  | .jr w => some (.scalar (.jr w))
  | .callr w => some (.scalar (.callr w))
  | .fork w => some (.scalar (.fork w))
  | .join w => some (.scalar (.join w))
  | .jbset w => some (.scalar (.jbset w))
  | .jbclr w => some (.scalar (.jbclr w))
  | .jbwait w => some (.scalar (.jbwait w))
  | .exit w => some (.scalar (.exit w))
  | .exitAb w => some (.scalar (.exitAb w))
  | .yield w => some (.scalar (.yield w))
  | .lpSet w => some (.scalar (.lpSet w))
  | .lpStride w => some (.scalar (.lpStride w))
  | .lpRun w => some (.scalar (.lpRun w))
  | .lpBrk w => some (.scalar (.lpBrk w))
  | .lpClamp w => some (.scalar (.lpClamp w))
  | .trap w => some (.scalar (.trap w))
  | .eret w => some (.scalar (.eret w))
  | .rdsr w => some (.scalar (.rdsr w))
  | .wrsr w => some (.scalar (.wrsr w))
  | .guard w => some (.scalar (.guard w))
  | .brk w => some (.scalar (.brk w))
  | .ccAdd w => some (.scalar (.ccAdd w))
  | .ccSet w => some (.scalar (.ccSet w))
  | .waitLt w => some (.scalar (.waitLt w))
  | .waitGe w => some (.scalar (.waitGe w))
  | .tokPush w => some (.scalar (.tokPush w))
  | .tokPop w => some (.scalar (.tokPop w))
  | .fence w => some (.scalar (.fence w))
  | .ldlB w => some (.scalar (.ldlB w))
  | .ldlH w => some (.scalar (.ldlH w))
  | .ldlW w => some (.scalar (.ldlW w))
  | .ldlD w => some (.scalar (.ldlD w))
  | .stlB w => some (.scalar (.stlB w))
  | .stlH w => some (.scalar (.stlH w))
  | .stlW w => some (.scalar (.stlW w))
  | .stlD w => some (.scalar (.stlD w))
  | .ldgB w => some (.scalar (.ldgB w))
  | .ldgH w => some (.scalar (.ldgH w))
  | .ldgW w => some (.scalar (.ldgW w))
  | .ldgD w => some (.scalar (.ldgD w))
  | .stgB w => some (.scalar (.stgB w))
  | .stgH w => some (.scalar (.stgH w))
  | .stgW w => some (.scalar (.stgW w))
  | .stgD w => some (.scalar (.stgD w))
  | .vadd w => some (.wide (.vadd w))
  | .vsub w => some (.wide (.vsub w))
  | .vmul w => some (.wide (.vmul w))
  | .vfma w => some (.wide (.vfma w))
  | .vfms w => some (.wide (.vfms w))
  | .vmin w => some (.wide (.vmin w))
  | .vmax w => some (.wide (.vmax w))
  | .vabs w => some (.wide (.vabs w))
  | .vneg w => some (.wide (.vneg w))
  | .vsqr w => some (.wide (.vsqr w))
  | .vrcp w => some (.wide (.vrcp w))
  | .vrsqrt w => some (.wide (.vrsqrt w))
  | .vexp2 w => some (.wide (.vexp2 w))
  | .vlog2 w => some (.wide (.vlog2 w))
  | .vand w => some (.wide (.vand w))
  | .vor w => some (.wide (.vor w))
  | .vxor w => some (.wide (.vxor w))
  | .vshl w => some (.wide (.vshl w))
  | .vshr w => some (.wide (.vshr w))
  | .vsar w => some (.wide (.vsar w))
  | .vceq w => some (.wide (.vceq w))
  | .vclt w => some (.wide (.vclt w))
  | .vcle w => some (.wide (.vcle w))
  | .vsel w => some (.wide (.vsel w))
  | .vperm w => some (.wide (.vperm w))
  | .vbcast w => some (.wide (.vbcast w))
  | .vredAdd w => some (.wide (.vredAdd w))
  | .vredMax w => some (.wide (.vredMax w))
  | .vredMin w => some (.wide (.vredMin w))
  | .vscanAdd w => some (.wide (.vscanAdd w))
  | .vmov w => some (.wide (.vmov w))
  | .vclamp w => some (.wide (.vclamp w))
  | .vscale w => some (.wide (.vscale w))
  | .vpop w => some (.wide (.vpop w))
  | .vcvt w => some (.wide (.vcvt w))
  | .vq w => some (.wide (.vq w))
  | .vdq w => some (.wide (.vdq w))
  | .vsp w => some (.wide (.vsp w))
  | .vdsp w => some (.wide (.vdsp w))
  | .vsrSeed w => some (.wide (.vsrSeed w))
  | .vpk w => some (.wide (.vpk w))
  | .vupk w => some (.wide (.vupk w))
  | .ldm w => some (.wide (.ldm w))
  | .ldmWait w => some (.wide (.ldmWait w))
  | .ldmCons w => some (.wide (.ldmCons w))
  | .stm w => some (.wide (.stm w))
  | .stmFill w => some (.wide (.stmFill w))
  | .stmOvf w => some (.wide (.stmOvf w))
  | .stmSete w => some (.wide (.stmSete w))
  | .feProbe w => some (.wide (.feProbe w))
  | .feSet w => some (.wide (.feSet w))
  | .atAdd w => some (.wide (.atAdd w))
  | .atSub w => some (.wide (.atSub w))
  | .atAnd w => some (.wide (.atAnd w))
  | .atOr w => some (.wide (.atOr w))
  | .atXor w => some (.wide (.atXor w))
  | .atMin w => some (.wide (.atMin w))
  | .atMax w => some (.wide (.atMax w))
  | .atMinn w => some (.wide (.atMinn w))
  | .atMaxn w => some (.wide (.atMaxn w))
  | .atXchg w => some (.wide (.atXchg w))
  | .atCas w => some (.wide (.atCas w))
  | .atFadd w => some (.wide (.atFadd w))
  | .atInc w => some (.wide (.atInc w))
  | .acq w => some (.wide (.acq w))
  | .rel w => some (.wide (.rel w))
  | .syncBind w => some (.wide (.syncBind w))
  | .syncUnbind w => some (.wide (.syncUnbind w))
  | .prefetch w => some (.wide (.prefetch w))
  | .cp w => some (.wide (.cp w))
  | .cpG w => some (.wide (.cpG w))
  | .cpSc w => some (.wide (.cpSc w))
  | .cpBc w => some (.wide (.cpBc w))
  | .cpRed w => some (.wide (.cpRed w))
  | .cpW w => some (.wide (.cpW w))
  | .cpMm w => some (.wide (.cpMm w))
  | .cpFe w => some (.wide (.cpFe w))
  | .cpZero w => some (.wide (.cpZero w))
  | .asCfg w => some (.wide (.asCfg w))
  | .asDim w => some (.wide (.asDim w))
  | .asFmt w => some (.wide (.asFmt w))
  | .asBindLocal w => some (.wide (.asBindLocal w))
  | .asBindDevice w => some (.wide (.asBindDevice w))
  | .asRst w => some (.wide (.asRst w))
  | .asAdv w => some (.wide (.asAdv w))
  | .sgBind w => some (.wide (.sgBind w))
  | .sgPin w => some (.wide (.sgPin w))
  | .sgUnpin w => some (.wide (.sgUnpin w))
  | .sgTouch w => some (.wide (.sgTouch w))
  | .sgEvict w => some (.wide (.sgEvict w))
  | .sgInfo w => some (.wide (.sgInfo w))
  | .vlSet w => some (.wide (.vlSet w))
  | .wbSwap w => some (.wide (.wbSwap w))
  | .wbStat w => some (.wide (.wbStat w))
  | .barInit w => some (.wide (.barInit w))
  | .barArr w => some (.wide (.barArr w))
  | .barWait w => some (.wide (.barWait w))
  | .barXferIn w => some (.wide (.barXferIn w))
  | .barXferOut w => some (.wide (.barXferOut w))
  | .vbRd w => some (.wide (.vbRd w))
  | .vbWr w => some (.wide (.vbWr w))
  | .clkRatio w => some (.wide (.clkRatio w))
  | .xld w => some (.wide (.xld w))
  | .xst w => some (.wide (.xst w))
  | .xat w => some (.wide (.xat w))
  | .xcpPush w => some (.wide (.xcpPush w))
  | .xcpPull w => some (.wide (.xcpPull w))
  | .xsigSet w => some (.wide (.xsigSet w))
  | .xsigAdd w => some (.wide (.xsigAdd w))
  | .xfence w => some (.wide (.xfence w))
  | .xroute w => some (.wide (.xroute w))
  | .enRd w => some (.wide (.enRd w))
  | .enMark w => some (.wide (.enMark w))
  | .partId w => some (.wide (.partId w))
  | .tlbInv w => some (.wide (.tlbInv w))
  | .tlbInvAll w => some (.wide (.tlbInvAll w))
  | .segInv w => some (.wide (.segInv w))
  | .tarRd w => some (.wide (.tarRd w))
  | .ctxSv w => some (.wide (.ctxSv w))
  | .ctxSvEpi w => some (.wide (.ctxSvEpi w))
  | .ctxLd w => some (.wide (.ctxLd w))
  | .ctxLdHold w => some (.wide (.ctxLdHold w))
  | .ctxLdGo w => some (.wide (.ctxLdGo w))
  | .mm w => some (.wide (.mm w))
  | .mmSp w => some (.wide (.mmSp w))
  | .mmTn w => some (.wide (.mmTn w))
  | .mdrain w => some (.wide (.mdrain w))
  | .mzero w => some (.wide (.mzero w))
  | .mcorrLd w => some (.wide (.mcorrLd w))
  | .mcorrSt w => some (.wide (.mcorrSt w))
  | .mstat w => some (.wide (.mstat w))
  | _ => none

/-- Whether the field values of an instruction word are ones that its encoding admits; false for an event. -/
def Instr.legal (i : Instr) : Bool :=
  match i.word? with
  | some w => w.legal
  | none => false

end Sys2Proof
end

