-- ==== Sys2Proof/Decode.lean ====
section
/-! DEFINITION. The encodings (R32-R55): bundle headers, the bit layouts of the words, which word each opcode is, the
decoder of any bytes and the encoder of a well-formed instruction. Every encoding that is no instruction raises ILLEGAL
(R58); the decoder says by name what is wrong with it. -/
namespace Sys2Proof

/-- What is wrong with bytes that are no instruction word. -/
inductive DecodeError where
  /-- Fewer bytes than the word's length code asks for. -/
  | truncated
  /-- A header's length code in a word's place (R36). -/
  | headerInWord
  /-- A major or opcode with no row, or a row's selecting field with a value that no row has (R54, R55, R53, R41). -/
  | reservedOpcode
  /-- A bit that the layout reserves is set (R58). -/
  | reservedBits
  /-- A field holds a value that the row marks ILLEGAL (R58). -/
  | illegalField
  deriving DecidableEq, Repr

/-! ## Byte order (R32) -/

/-- The number whose little-endian bytes these are. -/
def natOfBytes : List Byte → Nat
  | [] => 0
  | b :: bs => b.toNat + 256 * natOfBytes bs
/-- The `n` little-endian bytes of a number. -/
def bytesOfNat : Nat → Nat → List Byte
  | 0, _ => []
  | n + 1, v => BitVec.ofNat 8 (v % 256) :: bytesOfNat n (v / 256)

/-- Parcels of a word by the length code of its first parcel (R32); 0 for a header's code. -/
def parcelsOf (len : Nat) : Nat :=
  match len with
  | 0 => 1 | 1 => 3 | 2 => 6 | _ => 0

/-! ## The words as layouts (R38, R39, R41, R43, R47-R51) -/

/-- A word as its layout, its opcode fields and its other fields. -/
inductive View where
  | sr (major : BitVec 6) (fn : BitVec 7) (w : SR)
  | si (major : BitVec 6) (w : SI)
  | sf (major : BitVec 6) (w : SF)
  | sc (major : BitVec 6) (w : SC)
  | sci (major : BitVec 6) (w : SCI)
  | sb (major : BitVec 6) (w : SB)
  | sj (major : BitVec 6) (w : SJ)
  | su (major : BitVec 6) (w : SU)
  | sl (major : BitVec 6) (w : SL)
  | sg (major : BitVec 6) (w : SG)
  | ss (major : BitVec 6) (fn : BitVec 5) (w : SS)
  | va (op : BitVec 8) (w : VA)
  | me (op : BitVec 8) (w : ME)
  | cp (op : BitVec 8) (w : CP)
  | cf (op : BitVec 8) (w : CF)
  | sy (op : BitVec 8) (w : SY)
  | mx (op : BitVec 8) (w : MX)
  deriving DecidableEq, Repr

/-- The fields of a word from bit 0 upward, each with its width; a reserved field is 0. -/
def View.fields : View → List (Nat × Nat)
  | .sr major fn w => [(2, 0), (2, w.gm.toNat), (6, major.toNat), (5, w.d.toNat), (5, w.a.toNat), (5, w.b.toNat),
      (7, fn.toNat)]
  | .si major w => [(2, 0), (2, w.gm.toNat), (6, major.toNat), (5, w.d.toNat), (5, w.a.toNat), (12, w.imm.toNat)]
  | .sf major w => [(2, 0), (2, w.gm.toNat), (6, major.toNat), (5, w.d.toNat), (5, w.a.toNat), (6, w.pos.toNat),
      (6, w.len1.toNat)]
  | .sc major w => [(2, 0), (2, w.gm.toNat), (6, major.toNat), (5, w.d.toNat), (5, w.a.toNat), (5, w.b.toNat),
      (6, w.bit.toNat), (1, w.comb.toNat)]
  | .sci major w => [(2, 0), (2, w.gm.toNat), (6, major.toNat), (5, w.d.toNat), (5, w.a.toNat), (6, w.bit.toNat),
      (6, w.imm.toNat)]
  | .sb major w => [(2, 0), (2, w.gm.toNat), (6, major.toNat), (5, w.a.toNat), (6, w.bit.toNat), (11, w.off.toNat)]
  | .sj major w => [(2, 0), (2, w.gm.toNat), (6, major.toNat), (22, w.off.toNat)]
  | .su major w => [(2, 0), (2, w.gm.toNat), (6, major.toNat), (5, w.d.toNat), (17, w.imm.toNat)]
  | .sl major w => [(2, 0), (2, w.gm.toNat), (6, major.toNat), (5, w.d.toNat), (5, w.a.toNat), (6, w.handle.toNat),
      (6, w.imm.toNat)]
  | .sg major w => [(2, 0), (2, w.gm.toNat), (6, major.toNat), (5, w.d.toNat), (5, w.a.toNat), (12, w.imm.toNat)]
  | .ss major fn w => [(2, 0), (2, w.gm.toNat), (6, major.toNat), (5, fn.toNat), (17, w.f.toNat)]
  | .va op w => [(2, 1), (8, op.toNat), (4, w.pre.tok.toNat), (1, w.pre.en.toNat), (5, w.pre.reg.toNat),
      (6, w.pre.bit.toNat), (1, w.pre.inv.toNat), (2, w.op0.kind.toNat), (6, w.op0.index.toNat),
      (8, w.op0.stride.toNat), (2, w.op1.kind.toNat), (6, w.op1.index.toNat), (8, w.op1.stride.toNat),
      (2, w.op2.kind.toNat), (6, w.op2.index.toNat), (8, w.op2.stride.toNat), (4, w.fmt.toNat), (3, w.rnd.toNat),
      (1, w.sat.toNat), (1, w.sq.toNat), (12, w.aux.toNat)]
  | .me op w => [(2, 1), (8, op.toNat), (4, w.pre.tok.toNat), (1, w.pre.en.toNat), (5, w.pre.reg.toNat),
      (6, w.pre.bit.toNat), (1, w.pre.inv.toNat), (5, w.d.toNat), (5, w.a.toNat), (5, w.b.toNat), (5, w.c.toNat),
      (1, w.space.toNat), (6, w.handle.toNat), (12, w.imm.toNat), (3, w.width.toNat), (1, w.zx.toNat),
      (3, w.fe.toNat), (2, w.atom.toNat), (2, w.ord.toNat), (3, w.scope.toNat), (3, 0), (1, w.sq.toNat),
      (4, w.afmt.toNat), (1, w.fval.toNat), (7, 0)]
  | .cp op w => [(2, 1), (8, op.toNat), (4, w.pre.tok.toNat), (1, w.pre.en.toNat), (5, w.pre.reg.toNat),
      (6, w.pre.bit.toNat), (1, w.pre.inv.toNat), (6, w.dst.toNat), (6, w.src.toNat), (5, w.idx.toNat),
      (2, w.fe.toNat), (4, w.cc.toNat), (4, w.inc.toNat), (5, w.bar.toNat), (4, w.rfmt.toNat), (20, 0),
      (1, w.sq.toNat), (12, 0)]
  | .cf op w => [(2, 1), (8, op.toNat), (4, w.pre.tok.toNat), (1, w.pre.en.toNat), (5, w.pre.reg.toNat),
      (6, w.pre.bit.toNat), (1, w.pre.inv.toNat), (5, w.t.toNat), (6, w.handle.toNat), (5, w.a.toNat),
      (5, w.b.toNat), (6, w.imm.toNat), (4, w.dim.toNat), (4, w.fmt.toNat), (16, w.name.toNat), (18, 0)]
  | .sy op w => [(2, 1), (8, op.toNat), (4, w.pre.tok.toNat), (1, w.pre.en.toNat), (5, w.pre.reg.toNat),
      (6, w.pre.bit.toNat), (1, w.pre.inv.toNat), (5, w.d.toNat), (5, w.a.toNat), (5, w.b.toNat), (5, w.c.toNat),
      (16, w.imm.toNat), (3, w.scope.toNat), (4, w.fmt.toNat), (4, w.cc.toNat), (4, w.inc.toNat), (5, 0),
      (1, w.sq.toNat), (12, 0)]
  | .mx op w => [(2, 2), (8, op.toNat), (4, w.pre.tok.toNat), (1, w.pre.en.toNat), (5, w.pre.reg.toNat),
      (6, w.pre.bit.toNat), (1, w.pre.inv.toNat), (1, w.sq.toNat), (3, w.fuse.toNat), (1, w.first.toNat),
      (4, w.fmtA.toNat), (4, w.fmtB.toNat), (2, w.aKind.toNat), (6, w.aIdx.toNat), (2, w.bKind.toNat),
      (6, w.bIdx.toNat), (8, w.kb.toNat), (6, w.handle.toNat), (10, w.off.toNat), (4, w.dfmt.toNat),
      (3, w.rnd.toNat), (1, w.sat.toNat), (4, w.cc.toNat), (4, w.inc.toNat), (1, w.saEn.toNat), (5, w.sa.toNat),
      (1, w.sbEn.toNat), (5, w.sb.toNat), (1, w.mdEn.toNat), (5, w.md.toNat), (2, w.n.toNat), (12, 0),
      (4, w.mask.toNat), (5, w.statD.toNat), (55, 0)]

/-- Parcels of the word. -/
def View.parcels : View → Nat
  | .va _ _ | .me _ _ | .cp _ _ | .cf _ _ | .sy _ _ => 3
  | .mx _ _ => 6
  | _ => 1

/-- The word as a number, its first parcel lowest. -/
def View.word (v : View) : Nat := pack v.fields

/-- A reserved field that is not zero. -/
def unlessReserved (bad : Bool) (v : View) : Except DecodeError View :=
  if bad then .error .reservedBits else .ok v

def readSR (n : Nat) : Except DecodeError View :=
  match unpack [2, 2, 6, 5, 5, 5, 7] n with
  | [_, x_gm, mj, x_d, x_a, x_b, fnc] =>
    .ok (.sr (BitVec.ofNat 6 mj) (BitVec.ofNat 7 fnc) ⟨BitVec.ofNat 2 x_gm, BitVec.ofNat 5 x_d,
      BitVec.ofNat 5 x_a, BitVec.ofNat 5 x_b⟩)
  | _ => .error .truncated

def readSI (n : Nat) : Except DecodeError View :=
  match unpack [2, 2, 6, 5, 5, 12] n with
  | [_, x_gm, mj, x_d, x_a, x_imm] =>
    .ok (.si (BitVec.ofNat 6 mj) ⟨BitVec.ofNat 2 x_gm, BitVec.ofNat 5 x_d, BitVec.ofNat 5 x_a,
      BitVec.ofNat 12 x_imm⟩)
  | _ => .error .truncated

def readSF (n : Nat) : Except DecodeError View :=
  match unpack [2, 2, 6, 5, 5, 6, 6] n with
  | [_, x_gm, mj, x_d, x_a, x_pos, x_len1] =>
    .ok (.sf (BitVec.ofNat 6 mj) ⟨BitVec.ofNat 2 x_gm, BitVec.ofNat 5 x_d, BitVec.ofNat 5 x_a,
      BitVec.ofNat 6 x_pos, BitVec.ofNat 6 x_len1⟩)
  | _ => .error .truncated

def readSC (n : Nat) : Except DecodeError View :=
  match unpack [2, 2, 6, 5, 5, 5, 6, 1] n with
  | [_, x_gm, mj, x_d, x_a, x_b, x_bit, x_comb] =>
    .ok (.sc (BitVec.ofNat 6 mj) ⟨BitVec.ofNat 2 x_gm, BitVec.ofNat 5 x_d, BitVec.ofNat 5 x_a, BitVec.ofNat 5 x_b,
      BitVec.ofNat 6 x_bit, BitVec.ofNat 1 x_comb⟩)
  | _ => .error .truncated

def readSCI (n : Nat) : Except DecodeError View :=
  match unpack [2, 2, 6, 5, 5, 6, 6] n with
  | [_, x_gm, mj, x_d, x_a, x_bit, x_imm] =>
    .ok (.sci (BitVec.ofNat 6 mj) ⟨BitVec.ofNat 2 x_gm, BitVec.ofNat 5 x_d, BitVec.ofNat 5 x_a,
      BitVec.ofNat 6 x_bit, BitVec.ofNat 6 x_imm⟩)
  | _ => .error .truncated

def readSB (n : Nat) : Except DecodeError View :=
  match unpack [2, 2, 6, 5, 6, 11] n with
  | [_, x_gm, mj, x_a, x_bit, x_off] =>
    .ok (.sb (BitVec.ofNat 6 mj) ⟨BitVec.ofNat 2 x_gm, BitVec.ofNat 5 x_a, BitVec.ofNat 6 x_bit,
      BitVec.ofNat 11 x_off⟩)
  | _ => .error .truncated

def readSJ (n : Nat) : Except DecodeError View :=
  match unpack [2, 2, 6, 22] n with
  | [_, x_gm, mj, x_off] =>
    .ok (.sj (BitVec.ofNat 6 mj) ⟨BitVec.ofNat 2 x_gm, BitVec.ofNat 22 x_off⟩)
  | _ => .error .truncated

def readSU (n : Nat) : Except DecodeError View :=
  match unpack [2, 2, 6, 5, 17] n with
  | [_, x_gm, mj, x_d, x_imm] =>
    .ok (.su (BitVec.ofNat 6 mj) ⟨BitVec.ofNat 2 x_gm, BitVec.ofNat 5 x_d, BitVec.ofNat 17 x_imm⟩)
  | _ => .error .truncated

def readSL (n : Nat) : Except DecodeError View :=
  match unpack [2, 2, 6, 5, 5, 6, 6] n with
  | [_, x_gm, mj, x_d, x_a, x_handle, x_imm] =>
    .ok (.sl (BitVec.ofNat 6 mj) ⟨BitVec.ofNat 2 x_gm, BitVec.ofNat 5 x_d, BitVec.ofNat 5 x_a,
      BitVec.ofNat 6 x_handle, BitVec.ofNat 6 x_imm⟩)
  | _ => .error .truncated

def readSG (n : Nat) : Except DecodeError View :=
  match unpack [2, 2, 6, 5, 5, 12] n with
  | [_, x_gm, mj, x_d, x_a, x_imm] =>
    .ok (.sg (BitVec.ofNat 6 mj) ⟨BitVec.ofNat 2 x_gm, BitVec.ofNat 5 x_d, BitVec.ofNat 5 x_a,
      BitVec.ofNat 12 x_imm⟩)
  | _ => .error .truncated

def readSS (n : Nat) : Except DecodeError View :=
  match unpack [2, 2, 6, 5, 17] n with
  | [_, x_gm, mj, fnc, x_f] =>
    .ok (.ss (BitVec.ofNat 6 mj) (BitVec.ofNat 5 fnc) ⟨BitVec.ofNat 2 x_gm, BitVec.ofNat 17 x_f⟩)
  | _ => .error .truncated

def readVA (n : Nat) : Except DecodeError View :=
  match unpack [2, 8, 4, 1, 5, 6, 1, 2, 6, 8, 2, 6, 8, 2, 6, 8, 4, 3, 1, 1, 12] n with
  | [_, opc, x_pre_tok, x_pre_en, x_pre_reg, x_pre_bit, x_pre_inv, x_op0_kind, x_op0_index, x_op0_stride, x_op1_kind,
      x_op1_index, x_op1_stride, x_op2_kind, x_op2_index, x_op2_stride, x_fmt, x_rnd, x_sat, x_sq, x_aux] =>
    .ok (.va (BitVec.ofNat 8 opc) ⟨⟨BitVec.ofNat 4 x_pre_tok, BitVec.ofNat 1 x_pre_en, BitVec.ofNat 5 x_pre_reg,
      BitVec.ofNat 6 x_pre_bit, BitVec.ofNat 1 x_pre_inv⟩, ⟨BitVec.ofNat 2 x_op0_kind, BitVec.ofNat 6 x_op0_index,
      BitVec.ofNat 8 x_op0_stride⟩, ⟨BitVec.ofNat 2 x_op1_kind, BitVec.ofNat 6 x_op1_index,
      BitVec.ofNat 8 x_op1_stride⟩, ⟨BitVec.ofNat 2 x_op2_kind, BitVec.ofNat 6 x_op2_index,
      BitVec.ofNat 8 x_op2_stride⟩, BitVec.ofNat 4 x_fmt, BitVec.ofNat 3 x_rnd, BitVec.ofNat 1 x_sat,
      BitVec.ofNat 1 x_sq, BitVec.ofNat 12 x_aux⟩)
  | _ => .error .truncated

def readME (n : Nat) : Except DecodeError View :=
  match unpack [2, 8, 4, 1, 5, 6, 1, 5, 5, 5, 5, 1, 6, 12, 3, 1, 3, 2, 2, 3, 3, 1, 4, 1, 7] n with
  | [_, opc, x_pre_tok, x_pre_en, x_pre_reg, x_pre_bit, x_pre_inv, x_d, x_a, x_b, x_c, x_space, x_handle, x_imm,
      x_width, x_zx, x_fe, x_atom, x_ord, x_scope, r0, x_sq, x_afmt, x_fval, r1] =>
    unlessReserved (r0 != 0 || r1 != 0) (.me (BitVec.ofNat 8 opc) ⟨⟨BitVec.ofNat 4 x_pre_tok,
      BitVec.ofNat 1 x_pre_en, BitVec.ofNat 5 x_pre_reg, BitVec.ofNat 6 x_pre_bit, BitVec.ofNat 1 x_pre_inv⟩,
      BitVec.ofNat 5 x_d, BitVec.ofNat 5 x_a, BitVec.ofNat 5 x_b, BitVec.ofNat 5 x_c, BitVec.ofNat 1 x_space,
      BitVec.ofNat 6 x_handle, BitVec.ofNat 12 x_imm, BitVec.ofNat 3 x_width, BitVec.ofNat 1 x_zx,
      BitVec.ofNat 3 x_fe, BitVec.ofNat 2 x_atom, BitVec.ofNat 2 x_ord, BitVec.ofNat 3 x_scope,
      BitVec.ofNat 1 x_sq, BitVec.ofNat 4 x_afmt, BitVec.ofNat 1 x_fval⟩)
  | _ => .error .truncated

def readCP (n : Nat) : Except DecodeError View :=
  match unpack [2, 8, 4, 1, 5, 6, 1, 6, 6, 5, 2, 4, 4, 5, 4, 20, 1, 12] n with
  | [_, opc, x_pre_tok, x_pre_en, x_pre_reg, x_pre_bit, x_pre_inv, x_dst, x_src, x_idx, x_fe, x_cc, x_inc, x_bar,
      x_rfmt, r0, x_sq, r1] =>
    unlessReserved (r0 != 0 || r1 != 0) (.cp (BitVec.ofNat 8 opc) ⟨⟨BitVec.ofNat 4 x_pre_tok,
      BitVec.ofNat 1 x_pre_en, BitVec.ofNat 5 x_pre_reg, BitVec.ofNat 6 x_pre_bit, BitVec.ofNat 1 x_pre_inv⟩,
      BitVec.ofNat 6 x_dst, BitVec.ofNat 6 x_src, BitVec.ofNat 5 x_idx, BitVec.ofNat 2 x_fe, BitVec.ofNat 4 x_cc,
      BitVec.ofNat 4 x_inc, BitVec.ofNat 5 x_bar, BitVec.ofNat 4 x_rfmt, BitVec.ofNat 1 x_sq⟩)
  | _ => .error .truncated

def readCF (n : Nat) : Except DecodeError View :=
  match unpack [2, 8, 4, 1, 5, 6, 1, 5, 6, 5, 5, 6, 4, 4, 16, 18] n with
  | [_, opc, x_pre_tok, x_pre_en, x_pre_reg, x_pre_bit, x_pre_inv, x_t, x_handle, x_a, x_b, x_imm, x_dim, x_fmt,
      x_name, r0] =>
    unlessReserved (r0 != 0) (.cf (BitVec.ofNat 8 opc) ⟨⟨BitVec.ofNat 4 x_pre_tok, BitVec.ofNat 1 x_pre_en,
      BitVec.ofNat 5 x_pre_reg, BitVec.ofNat 6 x_pre_bit, BitVec.ofNat 1 x_pre_inv⟩, BitVec.ofNat 5 x_t,
      BitVec.ofNat 6 x_handle, BitVec.ofNat 5 x_a, BitVec.ofNat 5 x_b, BitVec.ofNat 6 x_imm, BitVec.ofNat 4 x_dim,
      BitVec.ofNat 4 x_fmt, BitVec.ofNat 16 x_name⟩)
  | _ => .error .truncated

def readSY (n : Nat) : Except DecodeError View :=
  match unpack [2, 8, 4, 1, 5, 6, 1, 5, 5, 5, 5, 16, 3, 4, 4, 4, 5, 1, 12] n with
  | [_, opc, x_pre_tok, x_pre_en, x_pre_reg, x_pre_bit, x_pre_inv, x_d, x_a, x_b, x_c, x_imm, x_scope, x_fmt, x_cc,
      x_inc, r0, x_sq, r1] =>
    unlessReserved (r0 != 0 || r1 != 0) (.sy (BitVec.ofNat 8 opc) ⟨⟨BitVec.ofNat 4 x_pre_tok,
      BitVec.ofNat 1 x_pre_en, BitVec.ofNat 5 x_pre_reg, BitVec.ofNat 6 x_pre_bit, BitVec.ofNat 1 x_pre_inv⟩,
      BitVec.ofNat 5 x_d, BitVec.ofNat 5 x_a, BitVec.ofNat 5 x_b, BitVec.ofNat 5 x_c, BitVec.ofNat 16 x_imm,
      BitVec.ofNat 3 x_scope, BitVec.ofNat 4 x_fmt, BitVec.ofNat 4 x_cc, BitVec.ofNat 4 x_inc,
      BitVec.ofNat 1 x_sq⟩)
  | _ => .error .truncated

def readMX (n : Nat) : Except DecodeError View :=
  match unpack ([2, 8, 4, 1, 5, 6, 1, 1, 3, 1, 4, 4, 2, 6, 2, 6, 8] ++
      [6, 10, 4, 3, 1, 4, 4, 1, 5, 1, 5, 1, 5, 2, 12, 4, 5, 55]) n with
  | _ :: opc :: x_pre_tok :: x_pre_en :: x_pre_reg :: x_pre_bit :: x_pre_inv :: x_sq :: [x_fuse, x_first, x_fmtA,
      x_fmtB, x_aKind, x_aIdx, x_bKind, x_bIdx, x_kb, x_handle, x_off, x_dfmt, x_rnd, x_sat, x_cc, x_inc, x_saEn,
      x_sa, x_sbEn, x_sb, x_mdEn, x_md, x_n, r0, x_mask, x_statD, r1] =>
    unlessReserved (r0 != 0 || r1 != 0) (.mx (BitVec.ofNat 8 opc) ⟨⟨BitVec.ofNat 4 x_pre_tok,
      BitVec.ofNat 1 x_pre_en, BitVec.ofNat 5 x_pre_reg, BitVec.ofNat 6 x_pre_bit, BitVec.ofNat 1 x_pre_inv⟩,
      BitVec.ofNat 1 x_sq, BitVec.ofNat 3 x_fuse, BitVec.ofNat 1 x_first, BitVec.ofNat 4 x_fmtA,
      BitVec.ofNat 4 x_fmtB, BitVec.ofNat 2 x_aKind, BitVec.ofNat 6 x_aIdx, BitVec.ofNat 2 x_bKind,
      BitVec.ofNat 6 x_bIdx, BitVec.ofNat 8 x_kb, BitVec.ofNat 6 x_handle, BitVec.ofNat 10 x_off,
      BitVec.ofNat 4 x_dfmt, BitVec.ofNat 3 x_rnd, BitVec.ofNat 1 x_sat, BitVec.ofNat 4 x_cc,
      BitVec.ofNat 4 x_inc, BitVec.ofNat 1 x_saEn, BitVec.ofNat 5 x_sa, BitVec.ofNat 1 x_sbEn,
      BitVec.ofNat 5 x_sb, BitVec.ofNat 1 x_mdEn, BitVec.ofNat 5 x_md, BitVec.ofNat 2 x_n, BitVec.ofNat 4 x_mask,
      BitVec.ofNat 5 x_statD⟩)
  | _ => .error .truncated

/-- How a scalar word of major `m` is read (R54). -/
def scalarLayout (m : Nat) : Nat → Except DecodeError View :=
  if m == 0x01 || m == 0x02 || m == 0x24 || m == 0x25 then readSR
  else if 0x03 ≤ m && m ≤ 0x0B then readSI
  else if 0x0C ≤ m && m ≤ 0x0E then readSU
  else if 0x0F ≤ m && m ≤ 0x11 then readSF
  else if 0x12 ≤ m && m ≤ 0x17 then readSC
  else if 0x18 ≤ m && m ≤ 0x1C then readSCI
  else if m == 0x20 || m == 0x21 then readSB
  else if m == 0x22 || m == 0x23 then readSJ
  else if 0x26 ≤ m && m ≤ 0x2A then readSS
  else if 0x30 ≤ m && m ≤ 0x37 then readSL
  else if 0x38 ≤ m then readSG
  else fun _ => .error .reservedOpcode
def readScalar (n : Nat) : Except DecodeError View := scalarLayout (n / 16 % 64) n

/-- How a vector-width word of opcode `c` is read: by the opcode's class (R55). -/
def vectorLayout (c : Nat) : Nat → Except DecodeError View :=
  if c < 0x60 then readVA
  else if c < 0x80 then readME
  else if c < 0xA0 then readCP
  else if c < 0xB0 then readCF
  else if c < 0xE0 then readSY
  else fun _ => .error .reservedOpcode
def readVector (n : Nat) : Except DecodeError View := vectorLayout (n / 4 % 256) n

/-- The layout and fields of the word in these bits. -/
def View.read (n : Nat) : Except DecodeError View :=
  match n % 4 with
  | 0 => readScalar n
  | 1 => readVector n
  | 2 => readMX n
  | _ => .error .headerInWord

/-! ## Which instruction a word is (R41, R53-R55)

Rows that share an opcode differ in one field. -/

/-- The rows of layout SR: majors 0x01, 0x02, 0x24, 0x25 by fn7 (R54). -/
def rowSR (major fn : Nat) (w : SR) : Option ScalarWord :=
  match major, fn with
  | 0x1, 0 => some (.add w)
  | 0x1, 1 => some (.sub w)
  | 0x1, 2 => some (.mul w)
  | 0x1, 3 => some (.mulh w)
  | 0x1, 4 => some (.mulhn w)
  | 0x1, 5 => some (.div w)
  | 0x1, 6 => some (.divn w)
  | 0x1, 7 => some (.rem w)
  | 0x1, 8 => some (.remn w)
  | 0x1, 9 => some (.and w)
  | 0x1, 10 => some (.or w)
  | 0x1, 11 => some (.xor w)
  | 0x1, 12 => some (.andn w)
  | 0x1, 13 => some (.orn w)
  | 0x1, 14 => some (.shl w)
  | 0x1, 15 => some (.shr w)
  | 0x1, 16 => some (.sar w)
  | 0x1, 17 => some (.rol w)
  | 0x1, 18 => some (.ror w)
  | 0x1, 19 => some (.min w)
  | 0x1, 20 => some (.max w)
  | 0x1, 21 => some (.minn w)
  | 0x1, 22 => some (.maxn w)
  | 0x1, 23 => some (.addw w)
  | 0x1, 24 => some (.subw w)
  | 0x1, 25 => some (.mulw w)
  | 0x1, 26 => some (.shlw w)
  | 0x1, 27 => some (.shrw w)
  | 0x1, 28 => some (.sarw w)
  | 0x2, 0 => some (.mov w)
  | 0x2, 1 => some (.not w)
  | 0x2, 2 => some (.neg w)
  | 0x2, 3 => some (.abs w)
  | 0x2, 4 => some (.clz w)
  | 0x2, 5 => some (.ctz w)
  | 0x2, 6 => some (.popc w)
  | 0x2, 7 => some (.brev w)
  | 0x2, 8 => some (.bswap w)
  | 0x2, 9 => some (.sxb w)
  | 0x2, 10 => some (.sxh w)
  | 0x2, 11 => some (.sxw w)
  | 0x2, 12 => some (.zxb w)
  | 0x2, 13 => some (.zxh w)
  | 0x2, 14 => some (.zxw w)
  | 0x24, 0 => some (.jr w)
  | 0x25, 0 => some (.callr w)
  | _, _ => none

/-- The rows of layout SI: by major (R54). -/
def rowSI (code : Nat) (w : SI) : Option ScalarWord :=
  match code with
  | 0x3 => some (.addi w)
  | 0x4 => some (.andi w)
  | 0x5 => some (.ori w)
  | 0x6 => some (.xori w)
  | 0x7 => some (.shli w)
  | 0x8 => some (.shri w)
  | 0x9 => some (.sari w)
  | 0xa => some (.muli w)
  | 0xb => some (.addwi w)
  | _ => none

/-- The rows of layout SF: by major (R54). -/
def rowSF (code : Nat) (w : SF) : Option ScalarWord :=
  match code with
  | 0xf => some (.bfx w)
  | 0x10 => some (.bfxn w)
  | 0x11 => some (.bfi w)
  | _ => none

/-- The rows of layout SC: by major (R54). -/
def rowSC (code : Nat) (w : SC) : Option ScalarWord :=
  match code with
  | 0x12 => some (.ceq w)
  | 0x13 => some (.cne w)
  | 0x14 => some (.clt w)
  | 0x15 => some (.cle w)
  | 0x16 => some (.cltn w)
  | 0x17 => some (.clen w)
  | _ => none

/-- The rows of layout SCI: by major (R54). -/
def rowSCI (code : Nat) (w : SCI) : Option ScalarWord :=
  match code with
  | 0x18 => some (.ceqi w)
  | 0x19 => some (.cnei w)
  | 0x1a => some (.clti w)
  | 0x1b => some (.cgti w)
  | 0x1c => if w.imm == 0 then some (.bset w) else if w.imm == 1 then some (.bclr w) else if w.imm == 2 then some (.bnot w) else none
  | _ => none

/-- The rows of layout SB: by major (R54). -/
def rowSB (code : Nat) (w : SB) : Option ScalarWord :=
  match code with
  | 0x20 => some (.brT w)
  | 0x21 => some (.brF w)
  | _ => none

/-- The rows of layout SJ: by major (R54). -/
def rowSJ (code : Nat) (w : SJ) : Option ScalarWord :=
  match code with
  | 0x22 => some (.jmp w)
  | 0x23 => some (.call w)
  | _ => none

/-- The rows of layout SU: by major (R54). -/
def rowSU (code : Nat) (w : SU) : Option ScalarWord :=
  match code with
  | 0xc => some (.lui w)
  | 0xd => some (.lih w)
  | 0xe => some (.pca w)
  | _ => none

/-- The rows of layout SL: by major (R54). -/
def rowSL (code : Nat) (w : SL) : Option ScalarWord :=
  match code with
  | 0x30 => some (.ldlB w)
  | 0x31 => some (.ldlH w)
  | 0x32 => some (.ldlW w)
  | 0x33 => some (.ldlD w)
  | 0x34 => some (.stlB w)
  | 0x35 => some (.stlH w)
  | 0x36 => some (.stlW w)
  | 0x37 => some (.stlD w)
  | _ => none

/-- The rows of layout SG: by major (R54). -/
def rowSG (code : Nat) (w : SG) : Option ScalarWord :=
  match code with
  | 0x38 => some (.ldgB w)
  | 0x39 => some (.ldgH w)
  | 0x3a => some (.ldgW w)
  | 0x3b => some (.ldgD w)
  | 0x3c => some (.stgB w)
  | 0x3d => some (.stgH w)
  | 0x3e => some (.stgW w)
  | 0x3f => some (.stgD w)
  | _ => none

/-- The rows of layout SS: majors 0x26 to 0x2A by fn (R41). -/
def rowSS (major fn : Nat) (w : SS) : Option ScalarWord :=
  match major, fn with
  | 0x26, 0 => some (.fork w)
  | 0x26, 1 => some (.join w)
  | 0x26, 2 => some (.jbset w)
  | 0x26, 3 => some (.jbclr w)
  | 0x26, 4 => some (.jbwait w)
  | 0x26, 5 => some (.exit w)
  | 0x26, 6 => some (.exitAb w)
  | 0x26, 7 => some (.yield w)
  | 0x27, 0 => some (.lpSet w)
  | 0x27, 1 => some (.lpStride w)
  | 0x27, 2 => some (.lpRun w)
  | 0x27, 3 => some (.lpBrk w)
  | 0x27, 4 => some (.lpClamp w)
  | 0x28, 0 => some (.trap w)
  | 0x28, 1 => some (.eret w)
  | 0x28, 2 => some (.rdsr w)
  | 0x28, 3 => some (.wrsr w)
  | 0x28, 4 => some (.guard w)
  | 0x28, 5 => some (.brk w)
  | 0x29, 0 => some (.ccAdd w)
  | 0x29, 1 => some (.ccSet w)
  | 0x29, 2 => some (.waitLt w)
  | 0x29, 3 => some (.waitGe w)
  | 0x29, 4 => some (.tokPush w)
  | 0x29, 5 => some (.tokPop w)
  | 0x2a, 0 => some (.fence w)
  | _, _ => none

/-- The rows of layout VA: by opcode (R55). -/
def rowVA (code : Nat) (w : VA) : Option WideWord :=
  match code with
  | 0x1 => some (.vadd w)
  | 0x2 => some (.vsub w)
  | 0x3 => some (.vmul w)
  | 0x4 => some (.vfma w)
  | 0x5 => some (.vfms w)
  | 0x6 => some (.vmin w)
  | 0x7 => some (.vmax w)
  | 0x8 => some (.vabs w)
  | 0x9 => some (.vneg w)
  | 0xa => some (.vsqr w)
  | 0xb => some (.vrcp w)
  | 0xc => some (.vrsqrt w)
  | 0xd => some (.vexp2 w)
  | 0xe => some (.vlog2 w)
  | 0xf => some (.vand w)
  | 0x10 => some (.vor w)
  | 0x11 => some (.vxor w)
  | 0x12 => some (.vshl w)
  | 0x13 => some (.vshr w)
  | 0x14 => some (.vsar w)
  | 0x15 => some (.vceq w)
  | 0x16 => some (.vclt w)
  | 0x17 => some (.vcle w)
  | 0x18 => some (.vsel w)
  | 0x19 => some (.vperm w)
  | 0x1a => some (.vbcast w)
  | 0x1b => some (.vredAdd w)
  | 0x1c => some (.vredMax w)
  | 0x1d => some (.vredMin w)
  | 0x1e => some (.vscanAdd w)
  | 0x1f => some (.vmov w)
  | 0x20 => some (.vclamp w)
  | 0x21 => some (.vscale w)
  | 0x22 => some (.vpop w)
  | 0x40 => some (.vcvt w)
  | 0x41 => some (.vq w)
  | 0x42 => some (.vdq w)
  | 0x43 => some (.vsp w)
  | 0x44 => some (.vdsp w)
  | 0x45 => some (.vsrSeed w)
  | 0x46 => some (.vpk w)
  | 0x47 => some (.vupk w)
  | _ => none

/-- The rows of layout ME: by opcode (R55). -/
def rowME (code : Nat) (w : ME) : Option WideWord :=
  match code with
  | 0x60 => if w.fe == 0 then some (.ldm w) else if w.fe == 1 then some (.ldmWait w) else if w.fe == 2 then some (.ldmCons w) else none
  | 0x61 => if w.fe == 0 then some (.stm w) else if w.fe == 3 then some (.stmFill w) else if w.fe == 4 then some (.stmOvf w) else if w.fe == 5 then some (.stmSete w) else none
  | 0x62 => some (.feProbe w)
  | 0x63 => some (.feSet w)
  | 0x64 => some (.atAdd w)
  | 0x65 => some (.atSub w)
  | 0x66 => some (.atAnd w)
  | 0x67 => some (.atOr w)
  | 0x68 => some (.atXor w)
  | 0x69 => some (.atMin w)
  | 0x6a => some (.atMax w)
  | 0x6b => some (.atMinn w)
  | 0x6c => some (.atMaxn w)
  | 0x6d => some (.atXchg w)
  | 0x6e => some (.atCas w)
  | 0x6f => some (.atFadd w)
  | 0x70 => some (.atInc w)
  | 0x71 => some (.acq w)
  | 0x72 => some (.rel w)
  | 0x73 => some (.syncBind w)
  | 0x74 => some (.syncUnbind w)
  | 0x75 => some (.prefetch w)
  | _ => none

/-- The rows of layout CP: by opcode (R55). -/
def rowCP (code : Nat) (w : CP) : Option WideWord :=
  match code with
  | 0x80 => some (.cp w)
  | 0x81 => some (.cpG w)
  | 0x82 => some (.cpSc w)
  | 0x83 => some (.cpBc w)
  | 0x84 => some (.cpRed w)
  | 0x85 => some (.cpW w)
  | 0x86 => some (.cpMm w)
  | 0x87 => some (.cpFe w)
  | 0x88 => some (.cpZero w)
  | _ => none

/-- The rows of layout CF: by opcode (R55). -/
def rowCF (code : Nat) (w : CF) : Option WideWord :=
  match code with
  | 0xa0 => some (.asCfg w)
  | 0xa1 => some (.asDim w)
  | 0xa2 => some (.asFmt w)
  | 0xa3 => if w.imm == 0 then some (.asBindLocal w) else if w.imm == 1 then some (.asBindDevice w) else none
  | 0xa4 => some (.asRst w)
  | 0xa5 => some (.asAdv w)
  | 0xa6 => some (.sgBind w)
  | 0xa7 => some (.sgPin w)
  | 0xa8 => some (.sgUnpin w)
  | 0xa9 => some (.sgTouch w)
  | 0xaa => some (.sgEvict w)
  | 0xab => some (.sgInfo w)
  | 0xac => some (.vlSet w)
  | _ => none

/-- The rows of layout SY: by opcode (R55). -/
def rowSY (code : Nat) (w : SY) : Option WideWord :=
  match code with
  | 0xb0 => some (.wbSwap w)
  | 0xb1 => some (.wbStat w)
  | 0xb2 => some (.barInit w)
  | 0xb3 => some (.barArr w)
  | 0xb4 => some (.barWait w)
  | 0xb5 => if w.imm == 0 then some (.barXferIn w) else if w.imm == 1 then some (.barXferOut w) else none
  | 0xb6 => some (.vbRd w)
  | 0xb7 => some (.vbWr w)
  | 0xb8 => some (.clkRatio w)
  | 0xc0 => some (.xld w)
  | 0xc1 => some (.xst w)
  | 0xc2 => some (.xat w)
  | 0xc3 => if !w.imm.getLsbD 5 then some (.xcpPush w) else if w.imm.getLsbD 5 then some (.xcpPull w) else none
  | 0xc4 => if !w.imm.getLsbD 0 then some (.xsigSet w) else if w.imm.getLsbD 0 then some (.xsigAdd w) else none
  | 0xc5 => some (.xfence w)
  | 0xc6 => some (.xroute w)
  | 0xd0 => some (.enRd w)
  | 0xd1 => some (.enMark w)
  | 0xd2 => some (.partId w)
  | 0xd3 => if w.imm == 0 then some (.tlbInv w) else if w.imm == 1 then some (.tlbInvAll w) else none
  | 0xd4 => some (.segInv w)
  | 0xd5 => some (.tarRd w)
  | 0xd6 => if !w.imm.getLsbD 1 then some (.ctxSv w) else if w.imm.getLsbD 1 then some (.ctxSvEpi w) else none
  | 0xd7 => if w.imm.getLsbD 2 then some (.ctxLdGo w) else if w.imm.getLsbD 1 then some (.ctxLdHold w) else some (.ctxLd w)
  | _ => none

/-- The rows of layout MX: by opcode (R53). -/
def rowMX (code : Nat) (w : MX) : Option WideWord :=
  match code with
  | 0x1 => some (.mm w)
  | 0x2 => some (.mmSp w)
  | 0x3 => some (.mmTn w)
  | 0x4 => some (.mdrain w)
  | 0x5 => some (.mzero w)
  | 0x6 => some (.mcorrLd w)
  | 0x7 => some (.mcorrSt w)
  | 0x8 => some (.mstat w)
  | _ => none

/-- The word of a view; none where its opcode has no row. -/
def View.anyWord : View → Option AnyWord
  | .sr major fn w => (rowSR major.toNat fn.toNat w).map .scalar
  | .si major w => (rowSI major.toNat w).map .scalar
  | .sf major w => (rowSF major.toNat w).map .scalar
  | .sc major w => (rowSC major.toNat w).map .scalar
  | .sci major w => (rowSCI major.toNat w).map .scalar
  | .sb major w => (rowSB major.toNat w).map .scalar
  | .sj major w => (rowSJ major.toNat w).map .scalar
  | .su major w => (rowSU major.toNat w).map .scalar
  | .sl major w => (rowSL major.toNat w).map .scalar
  | .sg major w => (rowSG major.toNat w).map .scalar
  | .ss major fn w => (rowSS major.toNat fn.toNat w).map .scalar
  | .va op w => (rowVA op.toNat w).map .wide
  | .me op w => (rowME op.toNat w).map .wide
  | .cp op w => (rowCP op.toNat w).map .wide
  | .cf op w => (rowCF op.toNat w).map .wide
  | .sy op w => (rowSY op.toNat w).map .wide
  | .mx op w => (rowMX op.toNat w).map .wide

/-- The layout and fields of a scalar word. -/
def ScalarWord.view : ScalarWord → View
  | .add w => .sr 0x1 0 w
  | .sub w => .sr 0x1 1 w
  | .mul w => .sr 0x1 2 w
  | .mulh w => .sr 0x1 3 w
  | .mulhn w => .sr 0x1 4 w
  | .div w => .sr 0x1 5 w
  | .divn w => .sr 0x1 6 w
  | .rem w => .sr 0x1 7 w
  | .remn w => .sr 0x1 8 w
  | .and w => .sr 0x1 9 w
  | .or w => .sr 0x1 10 w
  | .xor w => .sr 0x1 11 w
  | .andn w => .sr 0x1 12 w
  | .orn w => .sr 0x1 13 w
  | .shl w => .sr 0x1 14 w
  | .shr w => .sr 0x1 15 w
  | .sar w => .sr 0x1 16 w
  | .rol w => .sr 0x1 17 w
  | .ror w => .sr 0x1 18 w
  | .min w => .sr 0x1 19 w
  | .max w => .sr 0x1 20 w
  | .minn w => .sr 0x1 21 w
  | .maxn w => .sr 0x1 22 w
  | .addw w => .sr 0x1 23 w
  | .subw w => .sr 0x1 24 w
  | .mulw w => .sr 0x1 25 w
  | .shlw w => .sr 0x1 26 w
  | .shrw w => .sr 0x1 27 w
  | .sarw w => .sr 0x1 28 w
  | .mov w => .sr 0x2 0 w
  | .not w => .sr 0x2 1 w
  | .neg w => .sr 0x2 2 w
  | .abs w => .sr 0x2 3 w
  | .clz w => .sr 0x2 4 w
  | .ctz w => .sr 0x2 5 w
  | .popc w => .sr 0x2 6 w
  | .brev w => .sr 0x2 7 w
  | .bswap w => .sr 0x2 8 w
  | .sxb w => .sr 0x2 9 w
  | .sxh w => .sr 0x2 10 w
  | .sxw w => .sr 0x2 11 w
  | .zxb w => .sr 0x2 12 w
  | .zxh w => .sr 0x2 13 w
  | .zxw w => .sr 0x2 14 w
  | .addi w => .si 0x3 w
  | .andi w => .si 0x4 w
  | .ori w => .si 0x5 w
  | .xori w => .si 0x6 w
  | .shli w => .si 0x7 w
  | .shri w => .si 0x8 w
  | .sari w => .si 0x9 w
  | .muli w => .si 0xa w
  | .addwi w => .si 0xb w
  | .lui w => .su 0xc w
  | .lih w => .su 0xd w
  | .pca w => .su 0xe w
  | .bfx w => .sf 0xf w
  | .bfxn w => .sf 0x10 w
  | .bfi w => .sf 0x11 w
  | .ceq w => .sc 0x12 w
  | .cne w => .sc 0x13 w
  | .clt w => .sc 0x14 w
  | .cle w => .sc 0x15 w
  | .cltn w => .sc 0x16 w
  | .clen w => .sc 0x17 w
  | .ceqi w => .sci 0x18 w
  | .cnei w => .sci 0x19 w
  | .clti w => .sci 0x1a w
  | .cgti w => .sci 0x1b w
  | .bset w => .sci 0x1c w
  | .bclr w => .sci 0x1c w
  | .bnot w => .sci 0x1c w
  | .brT w => .sb 0x20 w
  | .brF w => .sb 0x21 w
  | .jmp w => .sj 0x22 w
  | .call w => .sj 0x23 w
  | .jr w => .sr 0x24 0 w
  | .callr w => .sr 0x25 0 w
  | .fork w => .ss 0x26 0 w
  | .join w => .ss 0x26 1 w
  | .jbset w => .ss 0x26 2 w
  | .jbclr w => .ss 0x26 3 w
  | .jbwait w => .ss 0x26 4 w
  | .exit w => .ss 0x26 5 w
  | .exitAb w => .ss 0x26 6 w
  | .yield w => .ss 0x26 7 w
  | .lpSet w => .ss 0x27 0 w
  | .lpStride w => .ss 0x27 1 w
  | .lpRun w => .ss 0x27 2 w
  | .lpBrk w => .ss 0x27 3 w
  | .lpClamp w => .ss 0x27 4 w
  | .trap w => .ss 0x28 0 w
  | .eret w => .ss 0x28 1 w
  | .rdsr w => .ss 0x28 2 w
  | .wrsr w => .ss 0x28 3 w
  | .guard w => .ss 0x28 4 w
  | .brk w => .ss 0x28 5 w
  | .ccAdd w => .ss 0x29 0 w
  | .ccSet w => .ss 0x29 1 w
  | .waitLt w => .ss 0x29 2 w
  | .waitGe w => .ss 0x29 3 w
  | .tokPush w => .ss 0x29 4 w
  | .tokPop w => .ss 0x29 5 w
  | .fence w => .ss 0x2a 0 w
  | .ldlB w => .sl 0x30 w
  | .ldlH w => .sl 0x31 w
  | .ldlW w => .sl 0x32 w
  | .ldlD w => .sl 0x33 w
  | .stlB w => .sl 0x34 w
  | .stlH w => .sl 0x35 w
  | .stlW w => .sl 0x36 w
  | .stlD w => .sl 0x37 w
  | .ldgB w => .sg 0x38 w
  | .ldgH w => .sg 0x39 w
  | .ldgW w => .sg 0x3a w
  | .ldgD w => .sg 0x3b w
  | .stgB w => .sg 0x3c w
  | .stgH w => .sg 0x3d w
  | .stgW w => .sg 0x3e w
  | .stgD w => .sg 0x3f w

/-- The layout and fields of a vector-width or matrix-width word. -/
def WideWord.view : WideWord → View
  | .vadd w => .va 0x1 w
  | .vsub w => .va 0x2 w
  | .vmul w => .va 0x3 w
  | .vfma w => .va 0x4 w
  | .vfms w => .va 0x5 w
  | .vmin w => .va 0x6 w
  | .vmax w => .va 0x7 w
  | .vabs w => .va 0x8 w
  | .vneg w => .va 0x9 w
  | .vsqr w => .va 0xa w
  | .vrcp w => .va 0xb w
  | .vrsqrt w => .va 0xc w
  | .vexp2 w => .va 0xd w
  | .vlog2 w => .va 0xe w
  | .vand w => .va 0xf w
  | .vor w => .va 0x10 w
  | .vxor w => .va 0x11 w
  | .vshl w => .va 0x12 w
  | .vshr w => .va 0x13 w
  | .vsar w => .va 0x14 w
  | .vceq w => .va 0x15 w
  | .vclt w => .va 0x16 w
  | .vcle w => .va 0x17 w
  | .vsel w => .va 0x18 w
  | .vperm w => .va 0x19 w
  | .vbcast w => .va 0x1a w
  | .vredAdd w => .va 0x1b w
  | .vredMax w => .va 0x1c w
  | .vredMin w => .va 0x1d w
  | .vscanAdd w => .va 0x1e w
  | .vmov w => .va 0x1f w
  | .vclamp w => .va 0x20 w
  | .vscale w => .va 0x21 w
  | .vpop w => .va 0x22 w
  | .vcvt w => .va 0x40 w
  | .vq w => .va 0x41 w
  | .vdq w => .va 0x42 w
  | .vsp w => .va 0x43 w
  | .vdsp w => .va 0x44 w
  | .vsrSeed w => .va 0x45 w
  | .vpk w => .va 0x46 w
  | .vupk w => .va 0x47 w
  | .ldm w => .me 0x60 w
  | .ldmWait w => .me 0x60 w
  | .ldmCons w => .me 0x60 w
  | .stm w => .me 0x61 w
  | .stmFill w => .me 0x61 w
  | .stmOvf w => .me 0x61 w
  | .stmSete w => .me 0x61 w
  | .feProbe w => .me 0x62 w
  | .feSet w => .me 0x63 w
  | .atAdd w => .me 0x64 w
  | .atSub w => .me 0x65 w
  | .atAnd w => .me 0x66 w
  | .atOr w => .me 0x67 w
  | .atXor w => .me 0x68 w
  | .atMin w => .me 0x69 w
  | .atMax w => .me 0x6a w
  | .atMinn w => .me 0x6b w
  | .atMaxn w => .me 0x6c w
  | .atXchg w => .me 0x6d w
  | .atCas w => .me 0x6e w
  | .atFadd w => .me 0x6f w
  | .atInc w => .me 0x70 w
  | .acq w => .me 0x71 w
  | .rel w => .me 0x72 w
  | .syncBind w => .me 0x73 w
  | .syncUnbind w => .me 0x74 w
  | .prefetch w => .me 0x75 w
  | .cp w => .cp 0x80 w
  | .cpG w => .cp 0x81 w
  | .cpSc w => .cp 0x82 w
  | .cpBc w => .cp 0x83 w
  | .cpRed w => .cp 0x84 w
  | .cpW w => .cp 0x85 w
  | .cpMm w => .cp 0x86 w
  | .cpFe w => .cp 0x87 w
  | .cpZero w => .cp 0x88 w
  | .asCfg w => .cf 0xa0 w
  | .asDim w => .cf 0xa1 w
  | .asFmt w => .cf 0xa2 w
  | .asBindLocal w => .cf 0xa3 w
  | .asBindDevice w => .cf 0xa3 w
  | .asRst w => .cf 0xa4 w
  | .asAdv w => .cf 0xa5 w
  | .sgBind w => .cf 0xa6 w
  | .sgPin w => .cf 0xa7 w
  | .sgUnpin w => .cf 0xa8 w
  | .sgTouch w => .cf 0xa9 w
  | .sgEvict w => .cf 0xaa w
  | .sgInfo w => .cf 0xab w
  | .vlSet w => .cf 0xac w
  | .wbSwap w => .sy 0xb0 w
  | .wbStat w => .sy 0xb1 w
  | .barInit w => .sy 0xb2 w
  | .barArr w => .sy 0xb3 w
  | .barWait w => .sy 0xb4 w
  | .barXferIn w => .sy 0xb5 w
  | .barXferOut w => .sy 0xb5 w
  | .vbRd w => .sy 0xb6 w
  | .vbWr w => .sy 0xb7 w
  | .clkRatio w => .sy 0xb8 w
  | .xld w => .sy 0xc0 w
  | .xst w => .sy 0xc1 w
  | .xat w => .sy 0xc2 w
  | .xcpPush w => .sy 0xc3 w
  | .xcpPull w => .sy 0xc3 w
  | .xsigSet w => .sy 0xc4 w
  | .xsigAdd w => .sy 0xc4 w
  | .xfence w => .sy 0xc5 w
  | .xroute w => .sy 0xc6 w
  | .enRd w => .sy 0xd0 w
  | .enMark w => .sy 0xd1 w
  | .partId w => .sy 0xd2 w
  | .tlbInv w => .sy 0xd3 w
  | .tlbInvAll w => .sy 0xd3 w
  | .segInv w => .sy 0xd4 w
  | .tarRd w => .sy 0xd5 w
  | .ctxSv w => .sy 0xd6 w
  | .ctxSvEpi w => .sy 0xd6 w
  | .ctxLd w => .sy 0xd7 w
  | .ctxLdHold w => .sy 0xd7 w
  | .ctxLdGo w => .sy 0xd7 w
  | .mm w => .mx 0x1 w
  | .mmSp w => .mx 0x2 w
  | .mmTn w => .mx 0x3 w
  | .mdrain w => .mx 0x4 w
  | .mzero w => .mx 0x5 w
  | .mcorrLd w => .mx 0x6 w
  | .mcorrSt w => .mx 0x7 w
  | .mstat w => .mx 0x8 w

def AnyWord.view : AnyWord → View
  | .scalar w => w.view
  | .wide w => w.view

/-- The row of the table that a word is. Not compiled: the runtime cannot build so many constructors of one type. -/
noncomputable def AnyWord.instr : AnyWord → Instr
  | .scalar (.add w) => .add w
  | .scalar (.sub w) => .sub w
  | .scalar (.mul w) => .mul w
  | .scalar (.mulh w) => .mulh w
  | .scalar (.mulhn w) => .mulhn w
  | .scalar (.div w) => .div w
  | .scalar (.divn w) => .divn w
  | .scalar (.rem w) => .rem w
  | .scalar (.remn w) => .remn w
  | .scalar (.and w) => .and w
  | .scalar (.or w) => .or w
  | .scalar (.xor w) => .xor w
  | .scalar (.andn w) => .andn w
  | .scalar (.orn w) => .orn w
  | .scalar (.shl w) => .shl w
  | .scalar (.shr w) => .shr w
  | .scalar (.sar w) => .sar w
  | .scalar (.rol w) => .rol w
  | .scalar (.ror w) => .ror w
  | .scalar (.min w) => .min w
  | .scalar (.max w) => .max w
  | .scalar (.minn w) => .minn w
  | .scalar (.maxn w) => .maxn w
  | .scalar (.addw w) => .addw w
  | .scalar (.subw w) => .subw w
  | .scalar (.mulw w) => .mulw w
  | .scalar (.shlw w) => .shlw w
  | .scalar (.shrw w) => .shrw w
  | .scalar (.sarw w) => .sarw w
  | .scalar (.mov w) => .mov w
  | .scalar (.not w) => .not w
  | .scalar (.neg w) => .neg w
  | .scalar (.abs w) => .abs w
  | .scalar (.clz w) => .clz w
  | .scalar (.ctz w) => .ctz w
  | .scalar (.popc w) => .popc w
  | .scalar (.brev w) => .brev w
  | .scalar (.bswap w) => .bswap w
  | .scalar (.sxb w) => .sxb w
  | .scalar (.sxh w) => .sxh w
  | .scalar (.sxw w) => .sxw w
  | .scalar (.zxb w) => .zxb w
  | .scalar (.zxh w) => .zxh w
  | .scalar (.zxw w) => .zxw w
  | .scalar (.addi w) => .addi w
  | .scalar (.andi w) => .andi w
  | .scalar (.ori w) => .ori w
  | .scalar (.xori w) => .xori w
  | .scalar (.shli w) => .shli w
  | .scalar (.shri w) => .shri w
  | .scalar (.sari w) => .sari w
  | .scalar (.muli w) => .muli w
  | .scalar (.addwi w) => .addwi w
  | .scalar (.lui w) => .lui w
  | .scalar (.lih w) => .lih w
  | .scalar (.pca w) => .pca w
  | .scalar (.bfx w) => .bfx w
  | .scalar (.bfxn w) => .bfxn w
  | .scalar (.bfi w) => .bfi w
  | .scalar (.ceq w) => .ceq w
  | .scalar (.cne w) => .cne w
  | .scalar (.clt w) => .clt w
  | .scalar (.cle w) => .cle w
  | .scalar (.cltn w) => .cltn w
  | .scalar (.clen w) => .clen w
  | .scalar (.ceqi w) => .ceqi w
  | .scalar (.cnei w) => .cnei w
  | .scalar (.clti w) => .clti w
  | .scalar (.cgti w) => .cgti w
  | .scalar (.bset w) => .bset w
  | .scalar (.bclr w) => .bclr w
  | .scalar (.bnot w) => .bnot w
  | .scalar (.brT w) => .brT w
  | .scalar (.brF w) => .brF w
  | .scalar (.jmp w) => .jmp w
  | .scalar (.call w) => .call w
  | .scalar (.jr w) => .jr w
  | .scalar (.callr w) => .callr w
  | .scalar (.fork w) => .fork w
  | .scalar (.join w) => .join w
  | .scalar (.jbset w) => .jbset w
  | .scalar (.jbclr w) => .jbclr w
  | .scalar (.jbwait w) => .jbwait w
  | .scalar (.exit w) => .exit w
  | .scalar (.exitAb w) => .exitAb w
  | .scalar (.yield w) => .yield w
  | .scalar (.lpSet w) => .lpSet w
  | .scalar (.lpStride w) => .lpStride w
  | .scalar (.lpRun w) => .lpRun w
  | .scalar (.lpBrk w) => .lpBrk w
  | .scalar (.lpClamp w) => .lpClamp w
  | .scalar (.trap w) => .trap w
  | .scalar (.eret w) => .eret w
  | .scalar (.rdsr w) => .rdsr w
  | .scalar (.wrsr w) => .wrsr w
  | .scalar (.guard w) => .guard w
  | .scalar (.brk w) => .brk w
  | .scalar (.ccAdd w) => .ccAdd w
  | .scalar (.ccSet w) => .ccSet w
  | .scalar (.waitLt w) => .waitLt w
  | .scalar (.waitGe w) => .waitGe w
  | .scalar (.tokPush w) => .tokPush w
  | .scalar (.tokPop w) => .tokPop w
  | .scalar (.fence w) => .fence w
  | .scalar (.ldlB w) => .ldlB w
  | .scalar (.ldlH w) => .ldlH w
  | .scalar (.ldlW w) => .ldlW w
  | .scalar (.ldlD w) => .ldlD w
  | .scalar (.stlB w) => .stlB w
  | .scalar (.stlH w) => .stlH w
  | .scalar (.stlW w) => .stlW w
  | .scalar (.stlD w) => .stlD w
  | .scalar (.ldgB w) => .ldgB w
  | .scalar (.ldgH w) => .ldgH w
  | .scalar (.ldgW w) => .ldgW w
  | .scalar (.ldgD w) => .ldgD w
  | .scalar (.stgB w) => .stgB w
  | .scalar (.stgH w) => .stgH w
  | .scalar (.stgW w) => .stgW w
  | .scalar (.stgD w) => .stgD w
  | .wide (.vadd w) => .vadd w
  | .wide (.vsub w) => .vsub w
  | .wide (.vmul w) => .vmul w
  | .wide (.vfma w) => .vfma w
  | .wide (.vfms w) => .vfms w
  | .wide (.vmin w) => .vmin w
  | .wide (.vmax w) => .vmax w
  | .wide (.vabs w) => .vabs w
  | .wide (.vneg w) => .vneg w
  | .wide (.vsqr w) => .vsqr w
  | .wide (.vrcp w) => .vrcp w
  | .wide (.vrsqrt w) => .vrsqrt w
  | .wide (.vexp2 w) => .vexp2 w
  | .wide (.vlog2 w) => .vlog2 w
  | .wide (.vand w) => .vand w
  | .wide (.vor w) => .vor w
  | .wide (.vxor w) => .vxor w
  | .wide (.vshl w) => .vshl w
  | .wide (.vshr w) => .vshr w
  | .wide (.vsar w) => .vsar w
  | .wide (.vceq w) => .vceq w
  | .wide (.vclt w) => .vclt w
  | .wide (.vcle w) => .vcle w
  | .wide (.vsel w) => .vsel w
  | .wide (.vperm w) => .vperm w
  | .wide (.vbcast w) => .vbcast w
  | .wide (.vredAdd w) => .vredAdd w
  | .wide (.vredMax w) => .vredMax w
  | .wide (.vredMin w) => .vredMin w
  | .wide (.vscanAdd w) => .vscanAdd w
  | .wide (.vmov w) => .vmov w
  | .wide (.vclamp w) => .vclamp w
  | .wide (.vscale w) => .vscale w
  | .wide (.vpop w) => .vpop w
  | .wide (.vcvt w) => .vcvt w
  | .wide (.vq w) => .vq w
  | .wide (.vdq w) => .vdq w
  | .wide (.vsp w) => .vsp w
  | .wide (.vdsp w) => .vdsp w
  | .wide (.vsrSeed w) => .vsrSeed w
  | .wide (.vpk w) => .vpk w
  | .wide (.vupk w) => .vupk w
  | .wide (.ldm w) => .ldm w
  | .wide (.ldmWait w) => .ldmWait w
  | .wide (.ldmCons w) => .ldmCons w
  | .wide (.stm w) => .stm w
  | .wide (.stmFill w) => .stmFill w
  | .wide (.stmOvf w) => .stmOvf w
  | .wide (.stmSete w) => .stmSete w
  | .wide (.feProbe w) => .feProbe w
  | .wide (.feSet w) => .feSet w
  | .wide (.atAdd w) => .atAdd w
  | .wide (.atSub w) => .atSub w
  | .wide (.atAnd w) => .atAnd w
  | .wide (.atOr w) => .atOr w
  | .wide (.atXor w) => .atXor w
  | .wide (.atMin w) => .atMin w
  | .wide (.atMax w) => .atMax w
  | .wide (.atMinn w) => .atMinn w
  | .wide (.atMaxn w) => .atMaxn w
  | .wide (.atXchg w) => .atXchg w
  | .wide (.atCas w) => .atCas w
  | .wide (.atFadd w) => .atFadd w
  | .wide (.atInc w) => .atInc w
  | .wide (.acq w) => .acq w
  | .wide (.rel w) => .rel w
  | .wide (.syncBind w) => .syncBind w
  | .wide (.syncUnbind w) => .syncUnbind w
  | .wide (.prefetch w) => .prefetch w
  | .wide (.cp w) => .cp w
  | .wide (.cpG w) => .cpG w
  | .wide (.cpSc w) => .cpSc w
  | .wide (.cpBc w) => .cpBc w
  | .wide (.cpRed w) => .cpRed w
  | .wide (.cpW w) => .cpW w
  | .wide (.cpMm w) => .cpMm w
  | .wide (.cpFe w) => .cpFe w
  | .wide (.cpZero w) => .cpZero w
  | .wide (.asCfg w) => .asCfg w
  | .wide (.asDim w) => .asDim w
  | .wide (.asFmt w) => .asFmt w
  | .wide (.asBindLocal w) => .asBindLocal w
  | .wide (.asBindDevice w) => .asBindDevice w
  | .wide (.asRst w) => .asRst w
  | .wide (.asAdv w) => .asAdv w
  | .wide (.sgBind w) => .sgBind w
  | .wide (.sgPin w) => .sgPin w
  | .wide (.sgUnpin w) => .sgUnpin w
  | .wide (.sgTouch w) => .sgTouch w
  | .wide (.sgEvict w) => .sgEvict w
  | .wide (.sgInfo w) => .sgInfo w
  | .wide (.vlSet w) => .vlSet w
  | .wide (.wbSwap w) => .wbSwap w
  | .wide (.wbStat w) => .wbStat w
  | .wide (.barInit w) => .barInit w
  | .wide (.barArr w) => .barArr w
  | .wide (.barWait w) => .barWait w
  | .wide (.barXferIn w) => .barXferIn w
  | .wide (.barXferOut w) => .barXferOut w
  | .wide (.vbRd w) => .vbRd w
  | .wide (.vbWr w) => .vbWr w
  | .wide (.clkRatio w) => .clkRatio w
  | .wide (.xld w) => .xld w
  | .wide (.xst w) => .xst w
  | .wide (.xat w) => .xat w
  | .wide (.xcpPush w) => .xcpPush w
  | .wide (.xcpPull w) => .xcpPull w
  | .wide (.xsigSet w) => .xsigSet w
  | .wide (.xsigAdd w) => .xsigAdd w
  | .wide (.xfence w) => .xfence w
  | .wide (.xroute w) => .xroute w
  | .wide (.enRd w) => .enRd w
  | .wide (.enMark w) => .enMark w
  | .wide (.partId w) => .partId w
  | .wide (.tlbInv w) => .tlbInv w
  | .wide (.tlbInvAll w) => .tlbInvAll w
  | .wide (.segInv w) => .segInv w
  | .wide (.tarRd w) => .tarRd w
  | .wide (.ctxSv w) => .ctxSv w
  | .wide (.ctxSvEpi w) => .ctxSvEpi w
  | .wide (.ctxLd w) => .ctxLd w
  | .wide (.ctxLdHold w) => .ctxLdHold w
  | .wide (.ctxLdGo w) => .ctxLdGo w
  | .wide (.mm w) => .mm w
  | .wide (.mmSp w) => .mmSp w
  | .wide (.mmTn w) => .mmTn w
  | .wide (.mdrain w) => .mdrain w
  | .wide (.mzero w) => .mzero w
  | .wide (.mcorrLd w) => .mcorrLd w
  | .wide (.mcorrSt w) => .mcorrSt w
  | .wide (.mstat w) => .mstat w


/-! ## Decoding and encoding -/

/-- The word in these bits. -/
def decodeNat (n : Nat) : Except DecodeError AnyWord :=
  match View.read n with
  | .error e => .error e
  | .ok v => match v.anyWord with
    | none => .error .reservedOpcode
    | some i => if i.legal then .ok i else .error .illegalField

/-- The word at the head of these bytes, as bits, with the bytes after it. -/
def takeWord (bs : List Byte) : Except DecodeError (Nat × List Byte) :=
  match bs with
  | [] => .error .truncated
  | b :: _ =>
    let k := parcelsOf (b.toNat % 4)
    if k == 0 then .error .headerInWord
    else if bs.length < 4 * k then .error .truncated
    else .ok (natOfBytes (bs.take (4 * k)), bs.drop (4 * k))

/-- The instruction at the head of these bytes, with the bytes after it. Total: any bytes give an instruction or the name
of what is wrong. -/
noncomputable def decode (bs : List Byte) : Except DecodeError (Instr × List Byte) :=
  match takeWord bs with
  | .error e => .error e
  | .ok (n, rest) => match decodeNat n with
    | .error e => .error e
    | .ok w => .ok (w.instr, rest)

/-- The bytes of an instruction word, first parcel first, each parcel little-endian (R32); none for an event. -/
def encode (i : Instr) : List Byte :=
  match i.word? with
  | some w => bytesOfNat (4 * w.view.parcels) w.view.word
  | none => []

/-- Number of set bits of a per-slot field. -/
def slotCount (m : BitVec 4) : Nat := maskCount m

/-- The header in a parcel; none where R33 or R36 makes it ILLEGAL. -/
def decodeHeader (n : Nat) : Option Header :=
  match unpack [2, 1, 4, 4, 4, 4, 4, 9] n with
  | [m, sy, pr, fi, la, sd, dl, r] =>
    let h : Header := ⟨BitVec.ofNat 1 sy, BitVec.ofNat 4 pr, BitVec.ofNat 4 fi, BitVec.ofNat 4 la, BitVec.ofNat 4 sd,
      BitVec.ofNat 4 dl⟩
    if m == 3 && r == 0 && h.present != 0 && (h.sync == 1 || slotCount h.present ≤ 1) &&
        (h.first &&& ~~~h.present) == 0 && (h.last &&& ~~~h.present) == 0 && (h.sqd &&& ~~~h.present) == 0 &&
        (h.first &&& h.last) == 0 then some h else none
  | _ => none

/-- The parcel of a header. -/
def encodeHeader (h : Header) : Nat :=
  pack [(2, 3), (1, h.sync.toNat), (4, h.present.toNat), (4, h.first.toNat), (4, h.last.toNat), (4, h.sqd.toNat),
    (4, h.dly.toNat), (9, 0)]

/-- The instruction the decoder reads from a table word: its bits above `nbits` are zero, its parcels little-endian, the
first at the lowest address. -/
noncomputable def decodeTableWord (nbits w : Nat) : Option Instr :=
  match decode (bytesOfNat 24 (w % 2 ^ nbits)) with
  | .ok (i, _) => some i
  | .error _ => none

end Sys2Proof
end

