-- ==== Sys2Proof/Machine/CoreState.lean ====
section
/-! DEFINITION. The state of a core: its strands, contexts, engine queues, segments and accumulations (R90-R100, R133-R153,
R159-R190, R198, R229, R240). Plain data only. -/
namespace Sys2Proof.Machine

/-! ## Byte stores -/

/-- A byte memory with the two metadata bits of R68: the bytes, the 4-byte words whose F bit is 1 (by word number) and the
64-byte lines whose poison bit is 1 (by line number). Each list is strictly rising and `bytes` lists no zero byte: an
unlisted byte reads as 0, its F bit as 0, its poison bit as 0 (DESIGN CHOICE, log 2). -/
structure Store where
  bytes : List Host.Cell
  full : List Nat
  poison : List Nat
  deriving DecidableEq, Repr

def Store.empty : Store := ⟨[], [], []⟩

/-- Where bytes lie: a physical address of device memory, an offset of a segment of a core's context, or a byte of a die's
sync window space (R308). -/
inductive Place where
  | dev (pa : Nat)
  | seg (c : CoreId) (x : Ctx) (name : BitVec 16) (off : Nat)
  | win (d : DieId) (a : Nat)
  deriving DecidableEq, Repr

/-! ## Strands (R90-R95) -/

/-- Why a strand does not issue (R102, R134). -/
inductive Wait where
  /-- Arrived at a join bit (R99). -/
  | join (jb : BitVec 3)
  | jbwait (jb : BitVec 3)
  | exit
  | counter
  | queueReg | token
  | segment | page
  /-- A fence, a full engine queue, a push into a full token FIFO, a pending register, the 17th load, an earlier access of the
  strand to the same bytes (R105, R128, R159, R168, R173). -/
  | interlock
  | pin
  | barrier
  /-- A fence, while vector results of its own pipeline are still to land: pipeline cycles pass (R128, R206). -/
  | drain
  | yield
  deriving DecidableEq, Repr

inductive Life where
  | running
  | waiting (w : Wait)
  /-- Stopped by a trap until the eret that returns from it (R111, R113). -/
  | trapped
  /-- Halted by brk for an attached debugger (R127). -/
  | halted
  | ended
  deriving DecidableEq, Repr

/-- A fault on its way to %cause and %eval: code, slot of the word that raised it, value for %eval. -/
structure FaultRec where
  cause : Cause
  slot : Strand
  eval : Word
  deriving DecidableEq, Repr

/-- One element written by a vector word to a stream (R204): in a segment (by name) at an offset, or at a device address. -/
structure ElemWrite where
  seg : Option (BitVec 16)
  addr : Nat
  bytes : Nat
  val : Nat
  /-- Bits of the first byte to write when the element is narrower than a byte: bit position and width; width 0 means
  whole bytes. -/
  bit : Nat
  width : Nat
  poison : Bool
  deriving DecidableEq, Repr

/-- The register that an entry would have written: g0 for none, or a vector register. -/
inductive LandDst where
  | g (d : GReg) | v (d : BitVec 4)
  deriving DecidableEq, Repr
/-- What a landing-buffer entry writes (R90, R103, R204, R205). -/
inductive LandWhat where
  | reg (d : GReg) (v : Word)
  | bit (d : GReg) (b : BitVec 6) (v : Bool)
  /-- Bits `n-1:0` of a vector register, with the poison of each lane group of the written bits. -/
  | vec (d : BitVec 4) (n : Nat) (v : BitVec 4096) (poison : BitVec 8)
  | elems (ws : List ElemWrite)
  /-- A push into qxs. -/
  | push (v : Word)
  /-- Nothing but the entry's push-after tokens, which found a full FIFO (R167). -/
  | tokens
  /-- A completion fault that becomes due when the result would be readable (R112); of an interlocked operation, at the first
  boundary, unless a taken branch of its own cycle kills it. `d` is the register that stays unwritten: its pending bit is set
  until then (R108). -/
  | fault (f : FaultRec) (interlocked : Bool) (d : LandDst)
  deriving DecidableEq, Repr

/-- A landing-buffer entry: pipeline cycles still to run, SQD bit, SAT and push-after effects at landing. -/
structure Landing where
  left : Nat
  sqd : Bool
  sat : Bool
  push : BitVec 4
  what : LandWhat
  deriving DecidableEq, Repr

/-- A register that awaits an interlocked result (R105): none until the value is ready. `load` counts it among the 16
outstanding loads; `sqd` lets a taken branch kill it; `serial` names the command that will answer. -/
structure Pend where
  d : GReg
  val : Option Word
  load : Bool
  sqd : Bool
  serial : Nat
  deriving DecidableEq, Repr

/-- A page that an access of a strand waits for: the strand's own word, or the command of a serial number; and that the host has
refused it, which the access finds when it tries again (R288). -/
structure PageWait where
  serial : Option Nat
  va : Addr
  refused : Bool
  deriving DecidableEq, Repr

structure StrandSt where
  g : Vector Word 32
  pc : Addr
  sat : Bool
  joined : Bool
  ending : Bool
  /-- %cause (R93). -/
  code : BitVec 8
  slot : BitVec 2
  late : Bool
  len : BitVec 5
  /-- Bits 56:2 of %epc (R94). -/
  epc : BitVec 55
  eval : Word
  gselReg : GReg
  gselBit : BitVec 6
  feb : BitVec 16
  land : List Landing
  pend : List Pend
  /-- Late-fault queue (R111). -/
  lateq : List FaultRec
  /-- Completion faults due at the next bundle boundary (R112). -/
  due : List FaultRec
  life : Life
  /-- Cycles for which the strand has been blocked on a queue register or token pop (R134). -/
  blocked : Nat
  /-- Threshold of the wait.lt or wait.ge it has started (R165). -/
  threshold : Option (BitVec 16)
  /-- Serial number up to which the exit it has started waits for commands (R116), with the count exit.ab discarded. -/
  exitMark : Option (Nat × Nat)
  /-- Where a taken branch of this cycle goes (R98). -/
  redirect : Option Addr
  /-- Where it goes next for another reason: fork, join, sequencer (R99, R192, R196). -/
  forced : Option Addr
  /-- Pipeline cycles that pass before its next bundle: the bubbles of R99, R106, R192, R196. -/
  bubble : Nat
  /-- What its parked bar.wait has been woken with (R276). -/
  woken : Option Word
  /-- Its bar.wait found no free park record: the word's serial number, and whether the 1,024-cycle boundary at which it is sent again is
  still to come (R313). -/
  resend : Option (Nat × Bool)
  /-- Pop-before tokens that its stalled word has already popped: left, right (R169). -/
  popped : BitVec 2
  /-- The DLY of the next bundle has been spent (R34). -/
  delayed : Bool
  /-- An exit.ab of its bundle has discarded commands and traps EXITQ: count, address and parcels of the bundle (R117). -/
  exitq : Option (Nat × Addr × Nat)
  /-- Pages that accesses of the strand wait for (R288). -/
  pages : List PageWait
  /-- Serial of the context's newest command when it started the fence, exit or mark that it waits in (R128, R395). -/
  mark : Option Nat
  deriving DecidableEq, Repr

/-! ## Streams (R138, R177-R179) -/

/-- One dimension: extent − 1 and stride in elements. -/
structure Dim where
  ext1 : BitVec 16
  stride : BitVec 32
  deriving DecidableEq, Repr

/-- An element that the fetch side holds (R203): linear index, width in bits, value, poison. -/
structure Ahead where
  index : Nat
  width : Nat
  val : Nat
  poison : Bool
  deriving DecidableEq, Repr

structure StreamReg where
  bound : Bool
  /-- 0 local, 1 device. -/
  space : BitVec 1
  handle : BitVec 6
  base : Word
  fmt : BitVec 4
  /-- Number of dimensions − 1. -/
  ndim : BitVec 4
  dims : Vector Dim 16
  blk : BitVec 8
  sstr : BitVec 16
  pos : Nat
  arrived : Nat
  consumed : Nat
  ahead : List Ahead
  deriving DecidableEq, Repr

/-- A stream as a command or a word sees it: the register, and the segment name that its handle resolved to. -/
structure Snap where
  reg : StreamReg
  name : BitVec 16
  deriving DecidableEq, Repr

/-! ## Engine commands (R159-R163, R194) -/

/-- What the iteration stamp records of one level. -/
structure LevelStamp where
  active : Bool
  run : BitVec 16
  index : BitVec 32
  deriving DecidableEq, Repr

/-- What every command carries: its number in the context's enqueue order, the strand and context that enqueued it, whether
it takes a ticket and which, stamp and sq, push-after tokens, counter increment. -/
structure Tag where
  serial : Nat
  strand : Strand
  fw : Bool
  ticket : Option (BitVec 32)
  stamp : Vector LevelStamp 6
  sq : Bool
  push : BitVec 4
  cc : BitVec 4
  inc : BitVec 4
  deriving DecidableEq, Repr

/-- Phase of an F/E access or acq that cannot be performed yet (R309, R310, R317). -/
inductive MePhase where
  | queued
  /-- In the wait table or local wait list, with its arrival number and the F value or version it needs. -/
  | waiting (arrival : Nat)
  /-- On a park list of the partition's park area (R313), in arrival order. -/
  | parked (arrival : Nat)
  /-- At its core: found no free record, or a full local wait list; sent again at the next boundary (R313, R317). -/
  | resend
  /-- Abandoned for an exhausted budget: it stays at the head of its queue until an eret (R316). -/
  | abandoned
  deriving DecidableEq, Repr

/-- A memory-extended command: its word and the register values it took at issue (R159, R174). -/
structure MeCmd where
  tag : Tag
  word : WideWord
  w : ME
  name : BitVec 16
  a : Word
  data : Word
  data1 : Word
  b : Word
  b1 : Word
  c : Word
  c1 : Word
  phase : MePhase
  /-- Budget units charged so far are taken from %feb; this marks an access that has touched its segment (R149). -/
  touched : Bool
  deriving DecidableEq, Repr

/-- Phase of a copy, matrix or fabric command. -/
inductive Phase where
  | queued
  /-- Touching and holding its segments, or waiting for data or room (R241 phases 2 and 3). -/
  | started
  /-- Past its commit point (R153). -/
  | committed
  deriving DecidableEq, Repr

/-- A matrix command, or a drain-state seed of vsr.seed in the queue (R227). -/
structure MxCmd where
  tag : Tag
  word : WideWord
  w : MX
  seed : Option (BitVec 32)
  nameA : BitVec 16
  nameB : BitVec 16
  nameD : BitVec 16
  a : Option Snap
  b : Option Snap
  sa : Option Snap
  sb : Option Snap
  md : Option Snap
  phase : Phase
  holds : List (BitVec 16)
  /-- The task context whose accumulation state it acts on: its own, or for a firmware word the one at whose bundle boundary
  it issued (R231). -/
  target : Ctx
  /-- Of a firmware word: the commands that stood in that context's queue when it was enqueued (R231). -/
  ahead : List Nat
  /-- Byte of the weight stream at which a step starts to read (R263). -/
  wpos : Nat
  deriving DecidableEq, Repr

/-- %task (R342). -/
structure TaskId where
  die : BitVec 2
  queue : BitVec 12
  lser : BitVec 16
  index : BitVec 16
  slot : BitVec 8
  deriving DecidableEq, Repr

structure CopyCmd where
  tag : Tag
  word : WideWord
  w : CP
  dst : Option Snap
  src : Option Snap
  idx : Option Snap
  /-- Barrier handle, and the name that its HANDLE resolved to; none where the word names no barrier. -/
  bar : Option (Word × BitVec 16)
  follow : Option MxCmd
  phase : Phase
  holds : List (BitVec 16)
  /-- Byte of the weight stream at which cp.w starts to write (R263). -/
  wpos : Nat
  /-- Tails of the rings that it appends to, as they stood when it started, and the lengths that it appends, by receiver (R234,
  R268). -/
  tails : List (CoreId × Ctx × Nat × Nat)
  /-- The receivers of a started copy, with the tasks that they ran (R268). -/
  rs : List (CoreId × Ctx × TaskId)
  deriving DecidableEq, Repr

/-- A fabric command: word, register values at issue, stream of an xcp (R404, R411). -/
structure FabCmd where
  tag : Tag
  word : WideWord
  w : SY
  d : GReg
  a : Word
  b : Word
  c : Word
  data : Word
  stream : Option Snap
  phase : Phase
  /-- Peer entry, fabric sequence number and operation of the request that it sent (R410). -/
  peer : BitVec 6
  num : Nat
  op : Option RemoteOp
  /-- What the target has returned. -/
  answer : Option RemoteResult
  holds : List (BitVec 16)
  deriving DecidableEq, Repr

/-- A completion held in a completion stage: what is still to do (R161, R188). -/
structure Stage where
  tag : Tag
  bar : Option (Word × BitVec 16)
  /-- Cores that received the copy (R277). -/
  receivers : Nat
  ccDone : Bool
  follow : Option MxCmd
  deriving DecidableEq, Repr

/-! ## Segments (R141-R149) -/

inductive Moving where
  | recall
  | pushOut
  | relocate (dest : BitVec 10)
  deriving DecidableEq, Repr

/-- A segment that occupies a frame. -/
structure Seg where
  name : BitVec 16
  /-- 0 D, 1 RING, 2 ACC (R142). -/
  cls : BitVec 2
  /-- Granules − 1. -/
  len : BitVec 10
  tile : BitVec 16
  home : Addr
  base : BitVec 10
  pins : Nat
  head : BitVec 23
  tail : BitVec 23
  dirty : List Nat
  touched : Nat
  moving : Option Moving
  /-- A push-out has failed: never pushed out again (R146). -/
  stuck : Bool
  deriving DecidableEq, Repr

/-- Who waits for a segment: a strand's scalar access or a command, with its ticket (R149, R150). -/
structure Toucher where
  name : BitVec 16
  strand : Strand
  serial : Option Nat
  ticket : BitVec 32
  /-- Its place in the order of issue, by which equal tickets are ordered: twice the serial of a command, and one more than that of
  the context's newest command for a strand's own access (R150). -/
  order : Nat
  /-- Chervil could not bring the segment in: the access takes SEGFAIL when it tries again (R146). -/
  failed : Bool
  deriving DecidableEq, Repr

/-! ## Contexts (R137) -/

structure Level where
  active : Bool
  trip : BitVec 32
  index : BitVec 32
  run : BitVec 16
  top : Addr
  fin : Addr
  stride : Vector (BitVec 32) 32
  /-- Header after END, as the loop buffer holds it, and whether the joined group replays the body or K alone (R192). -/
  after : Addr
  joint : Bool
  deriving DecidableEq, Repr

/-- A join bit (R99, R100): flag, mask of the rendezvous in progress, strands that have arrived, and for each strand that
executed the join the address of the bundle after it. -/
structure JoinBit where
  flag : Bool
  mask : BitVec 4
  arrived : BitVec 4
  next : Four (Option Addr)
  deriving DecidableEq, Repr

structure VReg where
  val : BitVec 4096
  poison : BitVec 8
  deriving DecidableEq, Repr

structure Cell where
  m : Word
  e : BitVec 32
  deriving DecidableEq, Repr

/-- One sub-array's accumulation (R229). -/
structure Accum where
  cells : Vector Cell 4096
  rpois : BitVec 64
  cpois : BitVec 64
  kcnt : BitVec 17
  ovr : Bool
  fold : Bool
  ue : Bool
  deriving DecidableEq, Repr

/-- Token FIFOs, named by the pair of strands (R167). -/
structure Tokens where
  kl : Nat
  lk : Nat
  lx : Nat
  xl : Nat
  xs : Nat
  sx : Nat
  deriving DecidableEq, Repr

/-- Residency control word and directory base (R140). -/
structure Residency where
  lq : BitVec 11
  lr : BitVec 11
  aq : BitVec 9
  ar : BitVec 9
  dircnt : BitVec 16
  dirbase : BitVec 53
  deriving DecidableEq, Repr

/-- An entry of a context's share of the replay queue (R289): a store whose page faulted, with its strand, its data and its
F effect. `vec` marks a vector word's device write, which carries poison (R204, R207). -/
structure Replay where
  strand : Strand
  va : Addr
  fe : BitVec 3
  vec : Bool
  writes : List ElemWrite
  /-- The command that was the store, for its push-after tokens. -/
  tag : Option Tag
  deriving DecidableEq, Repr

/-- A barrier object of a segment (R269): where bar.init made it, and whether a scalar or memory-extended store has reached
it since, which leaves its state undefined until the next bar.init. -/
structure BarObj where
  name : BitVec 16
  off : Nat
  tainted : Bool
  deriving DecidableEq, Repr

/-- What a task took from its region when it was placed (R348): FWD, PMODE, FEBPOL, the budget that FEB gives, PRIO. -/
structure Terms where
  fwd : BitVec 11
  hard : Bool
  febPol : BitVec 2
  feb : BitVec 16
  prio : BitVec 3
  deriving DecidableEq, Repr

structure Context where
  strands : Four StrandSt
  cycle : Word
  /-- %cycle has reached a multiple of 1,024 and its charge is due (R315). -/
  febDue : Bool
  /-- It has yielded to its sibling (R118). -/
  yielding : Bool
  dbg : Bool
  streams : Vector StreamReg 32
  v : Vector VReg 16
  qkl : List Word
  qlx : List Word
  qxs : List Word
  /-- Queue entries struck by an uncorrectable error (R158): queue (0 qkl, 1 qlx, 2 qxs) and place from its head. -/
  qbad : List (Nat × Nat)
  tokens : Tokens
  cc : Vector (BitVec 16) 16
  jb : Vector JoinBit 8
  lv : Vector Level 6
  sg : Vector (BitVec 16) 64
  task : TaskId
  vf : VfId
  part : PartId
  rel : Vector Word 8
  srVec : BitVec 32
  srDrain : BitVec 32
  ticket : BitVec 32
  res : Residency
  vl : BitVec 8
  /-- Page-table root, and the base and limit of the addresses its task may name, by its region (R284). -/
  root : Addr
  region : Addr
  serial : Nat
  meL : List MeCmd
  meS : List MeCmd
  copyL : List CopyCmd
  copyS : List CopyCmd
  mx : List MxCmd
  fabL : List FabCmd
  fabS : List FabCmd
  stageL : List Stage
  stageS : List Stage
  stageM : List Stage
  stageFL : List Stage
  stageFS : List Stage
  stageEL : List Stage
  stageES : List Stage
  acc : Four Accum
  aepoch : BitVec 16
  /-- Loaded with .hold: kept stopped until ctx.ld.go (R357), with the sub-arrays marked unrestored. -/
  held : Bool
  unrestored : BitVec 4
  /-- Segments that came with its image, and their contents, for which no frame was free and the host chooses what makes room (R371,
  log 37). -/
  adrift : List (Seg × Store)
  segs : List Seg
  touch : List Toucher
  /-- The pin set that L waits for (R152), and that it has been admitted. -/
  pinWait : Option (Word × Bool)
  /-- In host-assisted segment mode: the host has been asked for a victim (R371). -/
  askHost : Bool
  replay : List Replay
  /-- SPACE 0 barrier objects (R269). MODEL'S OWN. -/
  bars : List BarObj
  /-- Level clamped by the epilogue save and its TRIP before the clamp (R353, R356). -/
  clamp : Option (BitVec 3 × BitVec 32)
  /-- A task occupies the context; its fault domain and launch (R339, R350). -/
  busy : Bool
  fdom : BitVec 16
  launch : Nat
  /-- Kind and number of the task's gang (R339, R352). -/
  gang : BitVec 2
  gangId : Nat
  /-- What its region gave it at its placement (R348). -/
  terms : Terms
  /-- A FEBUDGET of the task has been answered with a refill (R351). -/
  refilled : Bool
  /-- Its directory and the images of its segments are still to be copied to their homes: no bundle of it issues (R340). -/
  copying : Bool
  /-- Weight swaps of the context that have been accepted and have not taken effect (R273). -/
  swaps : Nat
  /-- The task has been failed and is held stopped for host-assisted triage (R371). -/
  triage : Bool
  /-- A debugger is attached to this task (R373). -/
  debugger : Bool
  deriving DecidableEq, Repr

/-- What a waiter waits for (R312, R314): F = 1, F = 1 to be consumed, F = 0, a version, a changed generation. -/
inductive Cond where
  | full
  | consume
  | empty
  | version (threshold : Word)
  | phase (gen : BitVec 4)
  deriving DecidableEq, Repr

/-- An entry of a core's wait list, of a Sage wait table or of a park list (R310, R314, R317): whose access waits (its
serial number in the context's enqueue order), in which order it arrived, on which bytes, for what.
`record` is its park record when it is parked. -/
structure Waiter where
  core : CoreId
  ctx : Ctx
  strand : Strand
  serial : Nat
  arrival : Nat
  place : Place
  bytes : Nat
  va : Addr
  cond : Cond
  part : PartId
  record : Option Nat
  deriving DecidableEq, Repr

/-- %tar (R375). -/
structure Tar where
  allow : BitVec 16
  used : BitVec 16
  spent : Bool
  heater : Bool
  deriving DecidableEq, Repr

/-- A context save in progress (R355): which task context, where its image goes, cycles left for its epilogue, and whether
the resident service runs it for a tick or a move; then the firmware strand waits for no result. -/
structure Save where
  ctx : Ctx
  pa : Nat
  left : Nat
  service : Bool
  /-- The core to which the service moves the task (R376). -/
  move : Option CoreId
  /-- Register of firmware K that takes the result. -/
  d : GReg
  deriving DecidableEq, Repr

/-- The translation buffers of a core (R156): that of its scalar side, and the stream TLBs of its engines; and the inbound one of a
base die (R403). -/
inductive TlbUnit where
  | scalar | vector | matrix | copy | inbound
  deriving DecidableEq, Repr

/-- A translation that a TLB keeps: the root, the page's first address and size, and its leaf as it was, without A and D. -/
structure TlbEntry where
  unit : TlbUnit
  root : Addr
  va : Nat
  size : Nat
  pte : Nat
  deriving DecidableEq, Repr

structure CoreSt where
  ctxs : Three Context
  /-- The task context to which issue goes (R134). -/
  active : Ctx
  lstore : Store
  astore : Store
  waitList : List Waiter
  arrivals : Nat
  fwCredit : BitVec 3
  fwD : BitVec 11
  freeze : Nat
  freezeCount : BitVec 32
  tar : Tar
  temp : BitVec 16
  /-- Die times of its voltage-droop events (R343). -/
  droops : List Word
  /-- Energy of the core in the thermal window, in units of 2^-16 nJ (R375, R380). -/
  energy : Nat
  /-- Throttled by a spent allowance (R376). -/
  throttled : Bool
  /-- Stopped by its junction sensor (R377). -/
  hot : Bool
  /-- The trap each firmware strand serves, and those that wait for it (R111). -/
  serving : Four (Option (Ctx × Strand))
  trapQueue : List (Ctx × Strand)
  fwHalted : Bool
  /-- Firmware directory: segments the resident service named for firmware handles (R133). -/
  fwDir : List Seg
  /-- The task context at whose bundle boundary firmware issues (R197, R231). -/
  boundary : Ctx
  /-- Cycles counted by the core, for the least-recently-touched order (R151). MODEL'S OWN. -/
  now : Nat
  /-- Tokens of memory bandwidth granted by the die (R366). -/
  tokens : Nat
  /-- It has spent a token since the last refill (R366). -/
  drew : Bool
  save : Option Save
  /-- The save of the service that follows it. -/
  later : Option Save
  /-- A spent core whose task is to be moved within 100 µs (R376). -/
  moving : Bool
  /-- The task context that the last ctx.sv or ctx.ld named (R355). -/
  named : Ctx
  /-- A context was loaded in this period of R380: the partition and region of its task (R382). -/
  restored : Option (PartId × Addr)
  /-- Partition and region of a task that has been saved, or of whose segments left behind one has been pushed out, in this measured
  period (R148, R382). -/
  outgoing : Option (PartId × Addr)
  /-- The entries of its four TLBs, oldest first (R156). -/
  tlb : List TlbEntry
  deriving DecidableEq, Repr

end Sys2Proof.Machine
end

