-- ==== Sys2Proof/Machine/PackageState.lean ====
section
/-! DEFINITION. The state above the cores: device memory's side state (R280-R292), partitions (R363), and the agents of the
die and package. Plain data only. -/
namespace Sys2Proof.Machine

/-! ## Device memory (R279-R292) -/

/-- A page fault that waits to be served (R288): address space, 64 KiB unit, and whether the host serves it. -/
structure PFault where
  root : Addr
  va : Addr
  part : PartId
  host : Bool
  deriving DecidableEq, Repr

/-- A page-out under way (R292): the page, the address of its leaf and the leaf as it was, its place in host memory. -/
structure PageOut where
  root : Addr
  va : Nat
  size : Nat
  entry : Nat
  pte : Nat
  host : Nat
  deriving DecidableEq, Repr

/-- Side state of device memory. `scrubbed` lists the frames whose unscrubbed bit is 0; a frame it does not list reads as
zeros until it is written (R282). `clearing` holds the maps of frames being cleared: frame and lines already cleared. -/
structure HbmSt where
  scrubbed : List Nat
  clearing : List (Nat × List Nat)
  /-- Lines of which an uncorrectable error has struck the F bits, the poison bit, the data (R280). -/
  ueF : List Nat
  ueP : List Nat
  ueD : List Nat
  /-- Correctable-error counters of the stacks (R280). -/
  corrected : Vector (BitVec 32) 8
  faults : List PFault
  /-- Frames that the service has given to pages (R288). -/
  taken : List Nat
  /-- Host memory with the F and poison images of its pages, by address on the PCIe link (R292). -/
  host : Store
  outs : List PageOut
  deriving DecidableEq, Repr

/-! ## Clusters (R255-R267) -/

/-- A quarter of a weight bank (R258-R261): its owner, its key epoch, the number of its key draw, the bytes written since that
draw (a listed byte number has been written; `store` holds its value) and the poison of its lines. -/
structure Quarter where
  owner : PartId
  valid : Bool
  keyEpoch : BitVec 8
  key : Nat
  store : Store
  written : List Nat
  deriving DecidableEq, Repr

/-- A weight stream (R262): BASE and LENM1 in 64-byte units, and the two byte positions. -/
structure WStream where
  base : BitVec 22
  len : BitVec 22
  wpos : BitVec 28
  rpos : BitVec 28
  deriving DecidableEq, Repr

/-- An accepted wb.swap (R273): its context, counter and increment, and the task and the newest command of each context then. -/
structure Swap where
  ctx : Ctx
  cc : BitVec 4
  inc : BitVec 4
  marks : Three Nat
  tasks : Three TaskId
  /-- The tasks of the core that were saved then, with their newest commands. -/
  away : List (TaskId × Nat)
  /-- Cycle of its core in which it was accepted. MODEL'S OWN, log 6. -/
  since : Nat
  deriving DecidableEq, Repr

/-- A position of a cluster: its quarter pair and its weight streams (R258-R263). -/
structure Position where
  half0 : Quarter
  half1 : Quarter
  /-- ACTIVE: the active half. -/
  active : BitVec 1
  swaps : BitVec 16
  pend : Option Swap
  streams : Vector WStream 64
  /-- Refresh-stall counter (R266). -/
  stalls : BitVec 32
  deriving DecidableEq, Repr

structure Cluster where
  /-- The frame counter, as the events at frame boundaries advance it (R255). -/
  frame : Nat
  /-- Thyme vertical table: KIND and POS of each slot (R256). -/
  table : Vector (BitVec 5) 16
  /-- The table that governs this frame (R256). -/
  ruling : Vector (BitVec 5) 16
  pos : Vector Position 4
  temp : BitVec 16
  hot : Bool
  /-- The schedule that the last sample chose, and the frame from which it applies (R265). -/
  hotNext : Option (Bool × Nat)
  ratio : BitVec 2
  /-- A ratio change in progress, and to what (R267). -/
  chg : Option (BitVec 2)
  deriving DecidableEq, Repr

/-! ## Partitions (R363, R371, R291) -/

/-- A window word (R308). -/
structure Window where
  wtq : BitVec 12
  size : BitVec 6
  valid : Bool
  base : BitVec 12
  deriving DecidableEq, Repr

/-- A region bound to a sync object (R303, R327): address space, first byte, length, object, function. -/
structure Binding where
  root : Addr
  start : Addr
  len : Nat
  obj : Word
  vf : VfId
  deriving DecidableEq, Repr

/-! ## Fabric (R399-R416) -/

/-- A request that has been sent and not acknowledged (R410): its number, the command that made it, its path. -/
structure SentReq where
  num : Nat
  core : CoreId
  ctx : Ctx
  strand : Strand
  serial : Nat
  op : RemoteOp
  path : BitVec 7
  deriving DecidableEq, Repr

/-- A peer entry (R402), with the sequence numbers of both directions (R410): next number to send, requests not yet
acknowledged, and for inbound requests the highest number performed and those performed among the 4,096 below it. -/
structure Peer where
  kind : BitVec 1
  path1 : BitVec 7
  path0 : BitVec 7
  p1v : Bool
  sel : BitVec 1
  v : Bool
  rpart : PartId
  rpkg : BitVec 10
  remep : BitVec 32
  next : Nat
  sent : List SentReq
  high : Option Nat
  done : List Nat
  deriving DecidableEq, Repr

/-- An answer to an inbound request, sent to its source (R403, R405). -/
structure Answer where
  pkg : BitVec 10
  srcPart : PartId
  dst : PartId
  num : Nat
  result : RemoteResult
  deriving DecidableEq, Repr

/-- An inbound request whose page is being served, or that stands behind such a one of its source, and the sub-link on which it came
(R408, R409). -/
structure Delayed where
  req : InRequest
  sub : Option (Fin 96)
  deriving DecidableEq, Repr

/-- A link's split, owner and status registers (R400). -/
structure Link where
  split : BitVec 24
  owner : Word
  sig : BitVec 8
  rsp : BitVec 8
  req : BitVec 8
  failed : BitVec 8
  up : BitVec 8
  plink : BitVec 4
  ppkg : BitVec 10
  deriving DecidableEq, Repr
/-- What a flit of ours brings the partner's package: a request, the answer to one of its own, to a signal or not, the highest number
that has been taken, or a replay request. -/
inductive OutFlit where
  | request (r : InRequest)
  | answer (a : Answer) (signal : Bool)
  | ack (seq : Nat)
  | replay (seq : Nat)
  deriving DecidableEq, Repr
/-- The uses of a frame's flit slots, idle ones apart (R401). -/
inductive SlotUse where
  | request | response | signal
  deriving DecidableEq, Repr
/-- A sub-link: its partner package, next flit number to send, highest acknowledged, next expected; failures counted; replay asked for;
flits that are not acknowledged, what has gone out on the line, in order, and what waits since its table has no slot of the use (R401). -/
structure SubLink where
  pkg : BitVec 10
  tx : Nat
  acked : Nat
  rx : Nat
  fails : Nat
  asks : Bool
  held : List (Nat × OutFlit)
  line : List (Nat × OutFlit)
  waiting : List OutFlit
  deriving DecidableEq, Repr
/-- A die-to-die pair (R361): failed permanently, failures counted, flits received and sent again. -/
structure Pair where
  failed : Bool
  fails : Nat
  rx : Nat
  resent : Nat
  deriving DecidableEq, Repr

/-! ## Objects (R358, R359) -/

inductive SlotState where
  | loading | loaded | unloading
  deriving DecidableEq, Repr
/-- A residency slot that is not EMPTY: what a task's creation needs of the object. -/
structure ObjSlot where
  num : BitVec 8
  st : SlotState
  root : Addr
  entry : Addr
  dircnt : BitVec 16
  scrsz : Nat
  segdir : List Byte
  segimg : List Byte
  data : List (List Byte × Addr)
  /-- Page-table entries that the load has written, with their frames. -/
  pages : List (Nat × Nat)
  deriving DecidableEq, Repr

/-! ## Energy, marks and records (R380-R389) -/

/-- Counters 1 to 11 of R381 in units of 2^-16 nJ, by number; entry 0 is not used. -/
abbrev Counters := Vector Int 12

/-- A region node of which the service keeps usage (R349, R384): core-time in the window in core cycles, energy in the accounting window,
whether its vector has been sent, and counters. -/
structure Region where
  node : Addr
  core : Int
  energy : Int
  told : Bool
  counters : Counters
  deriving DecidableEq, Repr

/-- A captured mark (R385): number, die time, region path from the root with each node's counters, the partition's counters. -/
structure Mark where
  number : BitVec 32
  time : Word
  path : List (Addr × Counters)
  vf : VfId
  counters : Counters
  deriving DecidableEq, Repr

/-- A signed record (R386). `sig` is the signature, a free value (log 15). -/
structure Record where
  flags : BitVec 16
  epoch : Word
  seq : Word
  part : PartId
  markNo : BitVec 32
  t0 : Word
  t1 : Word
  path : List Addr
  counters : Vector Word 12
  sig : BitVec 26472
  deriving DecidableEq, Repr

/-- A sealed checkpoint (R389). -/
structure Checkpoint where
  counters : Vector Counters 64
  /-- Counters of the region nodes. -/
  regions : List Region
  house : Int
  seq : Word
  epoch : Word
  time : Word
  /-- T1 of the last record of each partition and path. -/
  lasts : List (PartId × List Addr × Word)
  /-- Written at the failure of the module's input. -/
  final : Bool
  deriving DecidableEq, Repr

/-! ## Capture (R392-R394) -/

/-- An input that has crossed into a partition, in the order of crossing: an event that brought it, or a Thyme table and clock ratio
of a cluster, or a die-ring table, as a change has left them. -/
inductive Crossing where
  | event (i : Instr)
  /-- A packet that has started: its event, and the words of its ring entries. -/
  | packet (i : Instr) (words : List (BitVec 512))
  /-- What a COPY has written. -/
  | copied (data : List Byte)
  | thyme (k : ClusterId) (table : Vector (BitVec 5) 16) (ratio : BitVec 2)
  | ring (d : DieId) (table : Vector (Bool × PartId) 64)
  deriving DecidableEq, Repr
/-- Who arrived at Sage with an operation on a word of device memory, or on an object of a sync window (R309). -/
structure Arrival where
  word : Place
  core : CoreId
  ctx : Ctx
  strand : Strand
  deriving DecidableEq, Repr
/-- What a capture area holds: inputs, cores of placements, arrivals at Sage and seeds, each in order. -/
structure Capture where
  inputs : List Crossing
  places : List CoreId
  orders : List Arrival
  seeds : List (CoreId × Ctx × BitVec 32)
  deriving DecidableEq, Repr

structure Partition where
  /-- PART.CREATE has made it. -/
  made : Bool
  /-- The root of its tree of region control blocks, 0 while it has none (R347). -/
  root : Addr
  /-- Split word: SEG, PAGE, INGRESS, TRIAGE, CODE from bit 0 (R371). -/
  split : BitVec 5
  /-- Migration control THR and BLK (R291). -/
  thr : BitVec 8
  blk : BitVec 4
  /-- Window word of each die (R308): WTQ, SIZEM1, V, BASE. -/
  window : Vector Window 4
  /-- Park area word (R313): bits 56:12 of its address, size in 4 KiB units − 1. -/
  parkBase : BitVec 45
  parkSize : BitVec 12
  /-- Bound regions (R327). -/
  bindings : List Binding
  /-- Capture control word (R392): BASE, SIZEM1, MODE. -/
  capBase : BitVec 45
  capSize : BitVec 8
  capMode : BitVec 2
  /-- What the capture area holds, what a replay has left of it, and bytes of the area in use (R393). -/
  cap : Capture
  capLeft : Capture
  capFill : Nat
  /-- Inbound control word (R403). -/
  inroot : BitVec 45
  inen : Bool
  peers : Vector Peer 64
  /-- Residency slots that are not EMPTY, by rising number. -/
  slots : List ObjSlot
  counters : Counters
  marks : List Mark
  /-- Gang-tick misses. -/
  misses : Nat
  /-- Gangs in the order in which ticks last gave them cores, the latest last (R352). -/
  ran : List Nat
  /-- Die time of its last tick. -/
  tick : Word
  deriving DecidableEq, Repr

/-! ## Queues and launches (R331-R340) -/

/-- The command processor's copy of a queue control block (R332). -/
structure Qcb where
  seq : Word
  jrnl : Addr
  rdaddr : Addr
  region : Addr
  vf : VfId
  vec : BitVec 11
  pkg : Bool
  state : BitVec 2
  rbase : Addr
  rsize : BitVec 4
  deriving DecidableEq, Repr
/-- A ring entry that has been fetched ahead (R336). -/
structure RingEntry where
  index : Nat
  bits : BitVec 512
  deriving DecidableEq, Repr
/-- A packet that has started and has not completed: its index, IRQ, and the launch that it is, or for a SIGNAL or COPY its
entry and the address of the page that it waits for. -/
structure Started where
  index : Nat
  irq : Bool
  launch : Option Nat
  access : Option (BitVec 512 × Addr)
  deriving DecidableEq, Repr
/-- A queue of a die's runlist (R331-R337). -/
structure Queue where
  num : BitVec 12
  v : Bool
  qcb : Addr
  copy : Option Qcb
  /-- Its QCB was not adopted and is to be read again. -/
  reread : Bool
  count : Word
  rd : Nat
  /-- Error that has stopped it (R346). -/
  err : BitVec 8
  /-- Hardware slot, and the number of its mapping. -/
  slot : Option (Nat × Nat)
  fetched : List RingEntry
  /-- Fetch-ahead has ended until the next doorbell. -/
  ended : Bool
  started : List Started
  /-- The launch whose tasks are being placed, or whose budgets do not allow it yet. -/
  opening : Option Nat
  /-- A WAIT found the wait table full (R345). -/
  resend : Bool
  /-- Page that it is held for (R345). -/
  held : Option (Addr × Addr)
  lser : BitVec 16
  /-- Its doorbell index (R419). -/
  bell : Option (BitVec 10)
  /-- Its read-index word is still to be written (R334). -/
  owed : Bool
  deriving DecidableEq, Repr
/-- A WAIT held at a Sage (R345). -/
structure QWait where
  die : DieId
  queue : BitVec 12
  arrival : Nat
  pa : Nat
  value : Word
  part : PartId
  deriving DecidableEq, Repr

/-- A launch whose tasks have not all ended (R338-R340). -/
structure Launch where
  id : Nat
  die : DieId
  queue : BitVec 12
  index : Nat
  lser : BitVec 16
  slot : BitVec 8
  rcb : Addr
  scratch : Addr
  pmap : Addr
  dbg : Bool
  gang : BitVec 2
  args : Vector Word 8
  vf : VfId
  part : PartId
  /-- IRQ of its packet's header, as it was when the packet was taken up (R335). -/
  irq : Bool
  /-- Its budgets have let it go to the dispatchers. -/
  open_ : Bool
  todo : List Nat
  live : Nat
  deriving DecidableEq, Repr

/-! ## Dies -/

/-- A die: its Sage's wait table, park lists in arrival order and next arrival number (R310). -/
structure Die where
  waiters : List Waiter
  parked : List Waiter
  arrivals : Nat
  /-- The sync window space, 16 MiB backed by the overflow area (R307, R308). -/
  window : Store
  /-- WAIT packets held at its Sage. -/
  qwaits : List QWait
  /-- Die-ring Thyme table: V and OWNER (R364). -/
  ring : Vector (Bool × PartId) 64
  /-- Die time (R362). -/
  time : Word
  /-- Runlist entries in use, by rising number. -/
  queues : List Queue
  /-- Queue mapped last, and mappings made (R331). -/
  lastMapped : BitVec 12
  mappings : Nat
  /-- The dispatcher's pointer (R343). -/
  pointer : Nat
  /-- Its inbound TLB (R403). -/
  inTlb : List TlbEntry
  deriving DecidableEq, Repr

/-! ## The package (R361-R391, R416-R419) -/

/-- The areas and registers of a mailbox (R372): the request area's bytes, RSPSEQ, BUSY, and the response area's header and body. -/
structure Mail where
  area : Store
  rspseq : BitVec 32
  /-- A request is being served, and its SEQ. -/
  busy : Option (BitVec 32)
  op : BitVec 16
  status : BitVec 16
  detail : BitVec 32
  body : List Byte
  deriving DecidableEq, Repr

/-- What event logs and AER record (R146, R353, R361, R409, R416, R419). -/
inductive LogEntry where
  | tickMiss (p : PartId) (d : DieId) (tick : Word) (done : Option Word)
  | pairFailed (pair : Nat)
  | subFailed (sub : Nat)
  | freeTick (p : PartId)
  | pushOutFailed (p : PartId) (name : BitVec 16)
  | unsupported (v : VfId)
  | declined (port : BitVec 3)
  | unmatched (port : BitVec 3) (host : Bool)
  | coreFault (c : CoreId)
  /-- An exit.ab of a task discarded commands (R351). -/
  | discarded (c : CoreId) (task : Word) (count : Word)
  deriving DecidableEq, Repr

/-- Frames of a partition (R363). -/
structure FrameRange where
  first : Nat
  count : Nat
  part : PartId
  deriving DecidableEq, Repr

/-- A service-table entry (R391). -/
structure Service where
  index : BitVec 10
  svc : BitVec 32
  ports : BitVec 8
  v : Bool
  dbg : Bool
  die : BitVec 4
  queue : BitVec 12
  rcb : Word
  slot : BitVec 8
  maxlen : BitVec 32
  bufring : Word
  args : Vector Word 4
  deriving DecidableEq, Repr

/-- A saved context image (R356): where it lies, and all that ctx.ld restores. -/
structure Image where
  pa : Nat
  core : CoreId
  sctx : Ctx
  epi : Bool
  level : BitVec 3
  idx : BitVec 32
  trip : BitVec 32
  /-- The context; its segments stay in the frames of the core that saved it until they are pushed out or it is loaded (R148). -/
  k : Context
  /-- Strands whose traps waited for service or were in service. -/
  traps : List Strand
  /-- The service has saved the accumulation state into `k`, since the cells were needed for another task (R252). -/
  stored : Bool
  /-- Its task has not been loaded since. -/
  out : Bool
  deriving DecidableEq, Repr

structure Pkg where
  /-- The package's own number in its domain (R402). -/
  number : BitVec 10
  /-- Segments of the firmware image that runs (R133, R390). -/
  firmware : List FwSeg
  /-- The service accepts requests; else the package is in recovery (R390). -/
  running : Bool
  coreOwner : Vector (Option PartId) 192
  frames : List FrameRange
  runOwner : List (DieId × BitVec 12 × PartId)
  /-- Bound functions (R365). -/
  vfs : List (VfId × PartId)
  /-- WINBASE of the functions that have one other than 0 (R419). -/
  winbase : List (VfId × Addr)
  mail : List (Func × Mail)
  /-- Vectors sent (R368). -/
  msix : List (Func × BitVec 11)
  /-- Entries of the functions' MSI-X tables that have been written, and the pending bits that are set (R418). -/
  vectors : List (Func × BitVec 11 × BitVec 128)
  pending : List (Func × BitVec 11)
  /-- Endpoints of the Ethernet ports that the service has assigned, by port, number and partition (R417). -/
  endpoints : List (BitVec 3 × BitVec 8 × PartId)
  log : List LogEntry
  launches : List Launch
  nextLaunch : Nat
  house : Int
  regions : List Region
  records : List Record
  /-- What the functions' record rings in host memory have received, in order (R387). -/
  rings : List (VfId × Record)
  /-- T1 of the last record of each partition and path (R386). -/
  lasts : List (PartId × List Addr × Word)
  seq : Word
  epoch : Word
  /-- The checkpoints on flash, the newest first (R389). -/
  flash : List Checkpoint
  /-- First records have GAP = 1 and start at this time (R388). -/
  gap : Option Word
  /-- Partitions and paths that have had a record since that restart. -/
  gapDone : List (PartId × List Addr)
  images : List Image
  /-- Tasks that the service has saved, with the gang of each (R352). -/
  saved : List Image
  /-- Gangs chosen at a tick that wait for the outgoing saves (R352). -/
  incoming : List Nat
  links : Vector Link 12
  subs : Vector SubLink 96
  pairs : Vector Pair 6
  fabricTime : Word
  locked : Bool
  offs : BitVec 32
  timePorts : BitVec 8
  /-- Ticks taken without lock (R416). -/
  freeTicks : Nat
  services : List Service
  arrivals : Nat
  answers : List Answer
  /-- Inbound requests that wait for pages, in arrival order (R408). -/
  delayed : List Delayed
  /-- Bytes that the last BAR2 read returned (R419). -/
  bar2 : List Byte
  /-- The firmware trap entry (R111). -/
  trapEntry : Addr
  deriving DecidableEq, Repr

end Sys2Proof.Machine
end

