-- ==== Sys2Proof/Machine/State.lean ====
section
/-! DEFINITION. The state of the whole package and its reset value; the faults and refusals of the model. -/
namespace Sys2Proof.Machine

/-- How the word at the issuing slot ended. -/
inductive SlotRes where
  /-- It issued and had its effect. -/
  | done
  /-- It raised an issue fault: the bundle traps (R111). -/
  | trapped
  /-- It cannot issue yet: the strand stalls (R102). -/
  | waits
  deriving DecidableEq, Repr

/-- The issuing slot: the machine's focus. MODEL'S OWN, log 6: which core, context and strand issues, with the bundle that
holds the word. -/
structure Slot where
  core : CoreId
  ctx : Ctx
  strand : Strand
  /-- Address of the bundle's header. -/
  hdr : Addr
  /-- Parcels of the bundle. -/
  len : Nat
  /-- Joint bundle. -/
  joint : Bool
  sqd : Bool
  /-- Address of the word's first parcel. -/
  at_ : Addr
  /-- The matrix-width word in the X slot of the bundle (R48). -/
  xword : Option WideWord
  /-- That word issues, and a cp.mm of the bundle carries it (R37, R188). -/
  carried : Bool
  /-- A join word of the bundle has acted (R99). -/
  joined : Bool
  /-- The ticket counter before the enqueues of the bundle's cycle, which its local accesses take (R150). -/
  ticket : BitVec 32
  /-- The serial number of the context's last command before the bundle. -/
  serial : Nat
  res : SlotRes
  deriving DecidableEq, Repr

/-- Reasons for which a step has no next state. There is none: every step of this machine has a next state. -/
inductive Fault where
  deriving DecidableEq, Repr

inductive Refusal where
  /-- An instruction without a meaning yet. Raised by Dispatch only. Safe. -/
  | notModelled (mnemonic : String)
  deriving DecidableEq, Repr

structure State where
  cores : Vector CoreSt 192
  /-- Device memory by physical address (R279), with F and poison bits (R280). -/
  mem : Store
  hbm : HbmSt
  parts : Vector Partition 64
  dies : Vector Die 4
  clusters : Vector Cluster 48
  pkg : Pkg
  cur : Slot
  agenda : List Instr
  /-- Place in the schedule of the focus core's own events from which the next one is sought. MODEL'S OWN, log 6. -/
  turn : Nat
  /-- Free values drawn so far. MODEL'S OWN, log 8. -/
  draws : Nat
  deriving DecidableEq, Repr

/-! ## Reset -/

def Dim.reset : Dim := ⟨0, 0⟩
def StreamReg.reset : StreamReg :=
  ⟨false, 0, 0, 0, 0, 0, Vector.replicate 16 Dim.reset, 0, 0, 0, 0, 0, []⟩
def StrandSt.reset (life : Life) : StrandSt :=
  { g := Vector.replicate 32 0, pc := 0, sat := false, joined := true, ending := false, code := 0, slot := 0, late := false,
    len := 0, epc := 0, eval := 0, gselReg := 0, gselBit := 0, feb := 0x100, land := [], pend := [], lateq := [], due := [],
    life := life, blocked := 0, threshold := none, exitMark := none, redirect := none, forced := none, bubble := 0, woken := none, resend := none, popped := 0, delayed := false,
    exitq := none, pages := [], mark := none }
def Level.reset : Level := ⟨false, 0, 0, 0, 0, 0, Vector.replicate 32 0, 0, false⟩
def JoinBit.reset : JoinBit := ⟨false, 0, 0, ⟨none, none, none, none⟩⟩
def Accum.reset : Accum := ⟨Vector.replicate 4096 ⟨0, 0⟩, 0, 0, 0, false, false, false⟩
def Residency.reset : Residency := ⟨496, 248, 128, 64, 0, 0⟩

/-- A context in which no task has been created: every strand ended (task contexts) or running (firmware, R133), everything
else as R91, R137 and the field maps say; where they say "from the launch", 0 (DESIGN CHOICE, log 3). -/
def Context.reset (life : Life) : Context :=
  { strands := ⟨StrandSt.reset life, StrandSt.reset life, StrandSt.reset life, StrandSt.reset life⟩
    cycle := 0, febDue := false, yielding := false, dbg := false, streams := Vector.replicate 32 StreamReg.reset, v := Vector.replicate 16 ⟨0, 0⟩
    qkl := [], qlx := [], qxs := [], qbad := [], tokens := ⟨0, 0, 0, 0, 0, 0⟩, cc := Vector.replicate 16 0
    jb := Vector.replicate 8 JoinBit.reset, lv := Vector.replicate 6 Level.reset, sg := Vector.replicate 64 0xFFFF
    task := ⟨0, 0, 0, 0, 0⟩, vf := 0, part := 0, rel := Vector.replicate 8 0, srVec := 1, srDrain := 1, ticket := 0
    res := Residency.reset, vl := 128, root := 0, region := 0, serial := 0, meL := [], meS := [], copyL := [], copyS := []
    mx := [], fabL := [], fabS := [], stageL := [], stageS := [], stageM := [], stageFL := [], stageFS := [], stageEL := [], stageES := []
    acc := ⟨Accum.reset, Accum.reset, Accum.reset, Accum.reset⟩, aepoch := 0, held := false, unrestored := 0, adrift := [], segs := []
    touch := [], pinWait := none, askHost := false, replay := [], bars := [], clamp := none, busy := false, fdom := 0, launch := 0, gang := 0, gangId := 0
    terms := ⟨64, false, 0, 0x100, 0⟩, refilled := false, copying := false, swaps := 0, triage := false, debugger := false }

def CoreSt.reset : CoreSt :=
  { ctxs := ⟨Context.reset .ended, Context.reset .ended, Context.reset .running⟩, active := .t0, lstore := Store.empty
    astore := Store.empty, waitList := [], arrivals := 0, fwCredit := 4, fwD := 64, freeze := 0, freezeCount := 0
    tar := ⟨6000, 0, false, false⟩, temp := 0, droops := [], energy := 0, throttled := false, hot := false, serving := ⟨none, none, none, none⟩
    trapQueue := [], fwHalted := false, fwDir := [], boundary := .t0, now := 0, tokens := 0, drew := false, save := none, later := none, moving := false, named := .t0, restored := none, outgoing := none, tlb := [] }

def HbmSt.reset : HbmSt := ⟨[], [], [], [], [], Vector.replicate 8 0, [], [], Store.empty, []⟩
def Peer.reset : Peer :=
  { kind := 0, path1 := 0, path0 := 0, p1v := false, sel := 0, v := false, rpart := 0, rpkg := 0, remep := 0, next := 0, sent := []
    high := none, done := [] }
def Partition.reset : Partition :=
  { split := 0, thr := 128, blk := 5, window := Vector.replicate 4 ⟨0, 0, false, 0⟩, parkBase := 0, parkSize := 0, bindings := []
    made := false, root := 0, capBase := 0, capSize := 0, capMode := 0, cap := ⟨[], [], [], []⟩, capLeft := ⟨[], [], [], []⟩, capFill := 0, inroot := 0, inen := false, peers := Vector.replicate 64 Peer.reset
    slots := [], counters := Vector.replicate 12 0, marks := [], misses := 0, ran := [], tick := 0 }

def Quarter.reset : Quarter := ⟨0, false, 0, 0, Store.empty, []⟩
def Position.reset : Position :=
  ⟨Quarter.reset, Quarter.reset, 0, 0, none, Vector.replicate 64 ⟨0, 0, 0, 0⟩, 0⟩
/-- The default table of R256: weight read, base die, weight read, copy fill, for positions 0 to 3 each. -/
def tableReset : Vector (BitVec 5) 16 := #v[0, 1, 2, 3, 4, 5, 6, 7, 0, 1, 2, 3, 8, 9, 10, 11]
def Cluster.reset : Cluster := ⟨0, tableReset, tableReset, Vector.replicate 4 Position.reset, 0, false, none, 0, none⟩

def Die.reset : Die :=
  { waiters := [], parked := [], arrivals := 0, window := Store.empty, qwaits := [], ring := Vector.replicate 64 (false, 0)
    time := 0, queues := [], lastMapped := 0, mappings := 0, pointer := 0, inTlb := [] }

/-- Every link starts as one sub-link of 16 lanes, owned by nobody (R400). -/
def Link.reset : Link := ⟨4, 0, 0, 0, 0, 0, 0, 0, 0⟩
/-- The package after a cold boot: every resource is the house's (R363), the service runs (R390). -/
def Pkg.reset : Pkg :=
  { number := 0, firmware := [], running := true, coreOwner := Vector.replicate 192 none, frames := [], runOwner := [], vfs := [], winbase := [], mail := []
    msix := [], vectors := [], pending := [], endpoints := [], log := [], launches := [], nextLaunch := 0, house := 0, regions := [], records := [], rings := [], lasts := [], seq := 0, epoch := 0
    flash := [], gap := none, gapDone := [], images := [], saved := [], incoming := [], links := Vector.replicate 12 Link.reset
    subs := Vector.replicate 96 ⟨0, 0, 0, 0, 0, false, [], [], []⟩, pairs := Vector.replicate 6 ⟨false, 0, 0, 0⟩, fabricTime := 0
    locked := false, offs := 0, timePorts := 0, freeTicks := 0, services := [], arrivals := 0, answers := [], delayed := [], bar2 := [], trapEntry := 0 }

def Slot.reset : Slot := ⟨0, .t0, .K, 0, 0, false, false, 0, none, false, false, 0, 0, .done⟩

def State.reset : State :=
  { cores := Vector.replicate 192 CoreSt.reset, mem := Store.empty, hbm := HbmSt.reset,
    parts := Vector.replicate 64 Partition.reset, dies := Vector.replicate 4 Die.reset, clusters := Vector.replicate 48 Cluster.reset, pkg := Pkg.reset
    cur := Slot.reset, agenda := [], turn := 0, draws := 0 }

end Sys2Proof.Machine
end

