-- ==== Sys2Proof/Machine/Ops.lean ====
section
/-! DEFINITION. The named operations that every meaning is written over: reaching a core, context or strand; registers and
the landing buffer (R90, R103-R105); byte stores (R11, R68); taking a trap and returning from one (R110-R114). -/
namespace Sys2Proof

def Four.get {α : Type} (f : Four α) : Strand → α
  | .K => f.K | .L => f.L | .X => f.X | .S => f.S
def Four.set {α : Type} (f : Four α) (p : Strand) (v : α) : Four α :=
  match p with
  | .K => { f with K := v } | .L => { f with L := v } | .X => { f with X := v } | .S => { f with S := v }
def Three.get {α : Type} (f : Three α) : Ctx → α
  | .t0 => f.t0 | .t1 => f.t1 | .fw => f.fw
def Three.set {α : Type} (f : Three α) (x : Ctx) (v : α) : Three α :=
  match x with
  | .t0 => { f with t0 := v } | .t1 => { f with t1 := v } | .fw => { f with fw := v }
def Four.map {α β : Type} (f : Four α) (g : Strand → α → β) : Four β :=
  ⟨g .K f.K, g .L f.L, g .X f.X, g .S f.S⟩

/-- The other task context of a core; the firmware context has none and is its own. -/
def Ctx.sibling : Ctx → Ctx
  | .t0 => .t1 | .t1 => .t0 | .fw => .fw

namespace Machine

/-- The junction sensor throttles a core above 95 °C (R377). -/
def warm (t : BitVec 16) : Bool := t.toInt > 95 * 64

/-- What a meaning answers. Every meaning of this model has a next state; the two other outcomes are `Fault` and `Refusal`. -/
abbrev Out := Host.Outcome State Fault Refusal

/-! ## Reaching the parts of the state -/

def allCores : List CoreId := List.finRange 192
def allDies : List DieId := List.finRange 4

def State.core (s : State) (c : CoreId) : CoreSt := s.cores[c.val]
def State.setCore (s : State) (c : CoreId) (k : CoreSt) : State := { s with cores := s.cores.set c.val k c.isLt }
def State.modCore (s : State) (c : CoreId) (f : CoreSt → CoreSt) : State := s.setCore c (f (s.core c))
def CoreSt.ctx (k : CoreSt) (x : Ctx) : Context := k.ctxs.get x
def CoreSt.modCtx (k : CoreSt) (x : Ctx) (f : Context → Context) : CoreSt :=
  { k with ctxs := k.ctxs.set x (f (k.ctxs.get x)) }
def Context.strand (k : Context) (p : Strand) : StrandSt := k.strands.get p
def Context.modStrand (k : Context) (p : Strand) (f : StrandSt → StrandSt) : Context :=
  { k with strands := k.strands.set p (f (k.strands.get p)) }
def State.ctx (s : State) (c : CoreId) (x : Ctx) : Context := (s.core c).ctx x
def State.modCtx (s : State) (c : CoreId) (x : Ctx) (f : Context → Context) : State :=
  s.modCore c (·.modCtx x f)
def State.strand (s : State) (c : CoreId) (x : Ctx) (p : Strand) : StrandSt := (s.ctx c x).strand p
def State.modStrand (s : State) (c : CoreId) (x : Ctx) (p : Strand) (f : StrandSt → StrandSt) : State :=
  s.modCtx c x (·.modStrand p f)
/-- Core, context and strand of the issuing slot. -/
def State.myCore (s : State) : CoreSt := s.core s.cur.core
def State.here (s : State) : Context := s.ctx s.cur.core s.cur.ctx
def State.modHere (s : State) (f : Context → Context) : State := s.modCtx s.cur.core s.cur.ctx f
def State.me (s : State) : StrandSt := s.here.strand s.cur.strand
def State.modMe (s : State) (f : StrandSt → StrandSt) : State := s.modHere (·.modStrand s.cur.strand f)
/-- What an event of a core leaves: while the core is frozen by a correctable error, nothing of it moves (R157). -/
def State.unlessFrozen (s : State) (c : CoreId) (t : State) : State := if (s.core c).freeze != 0 then s else t
def State.setRes (s : State) (r : SlotRes) : State := { s with cur := { s.cur with res := r } }

/-! ## Registers (R90, R104) -/

/-- A general register as R104 reads it; g0 reads 0. -/
def StrandSt.read (t : StrandSt) (r : GReg) : Word := if r = 0 then 0 else t.g[r.toNat]
/-- Writes a general register at once; writes to g0 are discarded. -/
def StrandSt.write (t : StrandSt) (r : GReg) (v : Word) : StrandSt :=
  if r = 0 then t else { t with g := t.g.set r.toNat v }
/-- Writes one bit of a general register. -/
def StrandSt.writeBit (t : StrandSt) (r : GReg) (b : BitVec 6) (v : Bool) : StrandSt :=
  let m : Word := 1#64 <<< b.toNat
  t.write r (if v then t.read r ||| m else t.read r &&& ~~~m)
/-- Register of the issuing strand. -/
def State.rd (s : State) (r : GReg) : Word := s.me.read r
/-- One bit of a register value. -/
def bitAt (v : Word) (b : BitVec 6) : Bool := v.getLsbD b.toNat

/-- Puts a result into the landing buffer: written at the end of the `n`-th pipeline cycle from now (R103). -/
def State.landWith (s : State) (n : Nat) (sat : Bool) (push : BitVec 4) (w : LandWhat) : State :=
  s.modMe fun t => { t with land := t.land ++ [⟨n, s.cur.sqd, sat, push, w⟩] }
/-- `Write(d, v)` of the scalar pseudocode at latency `n`. -/
def State.landReg (s : State) (d : GReg) (n : Nat) (v : Word) : State :=
  if d = 0 then s else s.landWith n false 0 (.reg d v)
/-- Writes one bit of g[d] at latency 1 (R123, R124). -/
def State.landBit (s : State) (d : GReg) (b : BitVec 6) (v : Bool) : State :=
  if d = 0 then s else s.landWith 1 false 0 (.bit d b v)
/-- An interlocked result that is ready: the register stays reserved until it is written (R105). -/
def State.answer (s : State) (d : GReg) (v : Word) (load : Bool) : State :=
  if d = 0 then s else s.modMe fun t => { t with pend := t.pend ++ [⟨d, some v, load, s.cur.sqd, 0⟩] }

/-- The registers of `rs` that await an interlocked result. -/
def StrandSt.pending (t : StrandSt) (rs : List GReg) : Bool :=
  rs.any fun r => r != 0 && t.pend.any (·.d == r)
/-- The registers of `rs` that await a result of a command enqueued no later than this serial number. -/
def StrandSt.pendingBefore (t : StrandSt) (n : Nat) (rs : List GReg) : Bool :=
  rs.any fun r => r != 0 && t.pend.any fun q => q.d == r && q.serial ≤ n
/-- A register of `rs` with an exposed write in flight (R108). -/
def StrandSt.stale (t : StrandSt) (rs : List GReg) : Option GReg :=
  rs.find? fun r => r != 0 && t.land.any fun e => match e.what with
    | .reg d _ | .bit d _ _ | .fault _ _ (.g d) => d == r
    | _ => false
def StrandSt.staleV (t : StrandSt) (vs : List (BitVec 4)) : Option (BitVec 4) :=
  vs.find? fun v => t.land.any fun e => match e.what with
    | .vec d _ _ _ | .fault _ _ (.v d) => d == v
    | _ => false

/-! ## Byte stores (R11, R68, R139, R280) -/

/-- Value at an address of a list in rising order; 0 where it is not listed. -/
def cellGet : List Host.Cell → Nat → Byte
  | [], _ => 0
  | (b, v) :: r, a => if a = b then v else if a < b then 0 else cellGet r a
/-- Writes one byte and keeps the list rising, with no entry for 0. -/
def cellPut : List Host.Cell → Nat → Byte → List Host.Cell
  | [], a, v => if v = 0 then [] else [(a, v)]
  | (b, w) :: r, a, v =>
    if a = b then (if v = 0 then r else (a, v) :: r)
    else if a < b then (if v = 0 then (b, w) :: r else (a, v) :: (b, w) :: r)
    else (b, w) :: cellPut r a v
def markGet : List Nat → Nat → Bool
  | [], _ => false
  | b :: r, a => if a = b then true else if a < b then false else markGet r a
/-- Sets or clears one mark of a rising list. -/
def markPut : List Nat → Nat → Bool → List Nat
  | [], a, v => if v then [a] else []
  | b :: r, a, v =>
    if a = b then (if v then b :: r else r)
    else if a < b then (if v then a :: b :: r else b :: r)
    else b :: markPut r a v

def Store.byte (m : Store) (a : Nat) : Byte := cellGet m.bytes a
def Store.setByte (m : Store) (a : Nat) (v : Byte) : Store := { m with bytes := cellPut m.bytes a v }
/-- F bit of the 4-byte word that holds address `a`. -/
def Store.fbit (m : Store) (a : Nat) : Bool := markGet m.full (a / 4)
def Store.setF (m : Store) (a : Nat) (v : Bool) : Store := { m with full := markPut m.full (a / 4) v }
/-- Poison bit of the 64-byte line that holds address `a`. -/
def Store.poisoned (m : Store) (a : Nat) : Bool := markGet m.poison (a / 64)
def Store.setPoison (m : Store) (a : Nat) (v : Bool) : Store := { m with poison := markPut m.poison (a / 64) v }

/-- The `n` bytes from `a`, little-endian (R11). -/
def Store.read (m : Store) (a : Nat) : Nat → Nat
  | 0 => 0
  | n + 1 => (m.byte a).toNat + 256 * m.read (a + 1) n
/-- Writes the low `n` bytes of a value from `a` on. -/
def Store.write (m : Store) (a : Nat) : Nat → Nat → Store
  | 0, _ => m
  | n + 1, v => (m.setByte a (BitVec.ofNat 8 v)).write (a + 1) n (v / 256)
/-- Bytes as a list. -/
def Store.readList (m : Store) (a : Nat) : Nat → List Byte
  | 0 => []
  | n + 1 => m.byte a :: m.readList (a + 1) n
def Store.writeList (m : Store) (a : Nat) : List Byte → Store
  | [] => m
  | b :: r => (m.setByte a b).writeList (a + 1) r
/-- The aligned 4-byte words that hold bytes a .. a+n-1, by their addresses. -/
def wordsOf (a n : Nat) : List Nat :=
  (List.range ((a + n - 1) / 4 + 1 - a / 4)).map fun i => 4 * (a / 4 + i)
/-- The 64-byte lines that hold bytes a .. a+n-1, by their addresses. -/
def linesOf (a n : Nat) : List Nat :=
  (List.range ((a + n - 1) / 64 + 1 - a / 64)).map fun i => 64 * (a / 64 + i)
def Store.allF (m : Store) (a n : Nat) (v : Bool) : Bool := (wordsOf a n).all fun w => m.fbit w == v
def Store.setFs (m : Store) (a n : Nat) (v : Bool) : Store := (wordsOf a n).foldl (fun m w => m.setF w v) m
def Store.anyPoison (m : Store) (a n : Nat) : Bool := (linesOf a n).any m.poisoned
/-- A plain write of clean bytes: a line written whole is clean, any other keeps its poison bit (R68). -/
def Store.writeClean (m : Store) (a : Nat) (bs : List Byte) : Store :=
  ((linesOf a bs.length).filter fun l => a ≤ l && l + 64 ≤ a + bs.length).foldl (fun m l => m.setPoison l false) (m.writeList a bs)
/-- Zero bytes, F bits 0 and clean poison over a range (R288: a fresh frame). -/
def Store.clear (m : Store) (a n : Nat) : Store :=
  { bytes := m.bytes.filter fun c => c.1 < a || a + n ≤ c.1
    full := m.full.filter fun w => 4 * w < a || a + n ≤ 4 * w
    poison := m.poison.filter fun l => 64 * l < a || a + n ≤ 64 * l }

/-- `n` bytes from `a` on, with their F and poison bits, moved to 0; both multiples of 64. -/
def Store.slice (m : Store) (a n : Nat) : Store :=
  { bytes := (m.bytes.filter fun c => a ≤ c.1 && c.1 < a + n).map fun c => (c.1 - a, c.2)
    full := (m.full.filter fun w => a ≤ 4 * w && 4 * w < a + n).map fun w => w - a / 4
    poison := (m.poison.filter fun l => a ≤ 64 * l && 64 * l < a + n).map fun l => l - a / 64 }
/-- Replaces `n` bytes from `a` on, with their F and poison bits, by those of an image (R145). -/
def Store.paste (m : Store) (a n : Nat) (src : Store) : Store :=
  let m1 := src.bytes.foldl (fun m c => m.setByte (a + c.1) c.2) (m.clear a n)
  let m2 := src.full.foldl (fun m w => m.setF (a + 4 * w) true) m1
  src.poison.foldl (fun m l => m.setPoison (a + 64 * l) true) m2

/-- The list is rising and lists no zero byte. -/
def risingCells : List Host.Cell → Bool
  | [] => true
  | [(_, v)] => v != 0
  | (a, v) :: (b, w) :: r => v != 0 && a < b && risingCells ((b, w) :: r)
def risingMarks : List Nat → Bool
  | [] | [_] => true
  | a :: b :: r => a < b && risingMarks (b :: r)
/-- The canonical form of a store. -/
def Store.wf (m : Store) : Bool := risingCells m.bytes && risingMarks m.full && risingMarks m.poison

/-! ## Stalling and completing -/

/-- The word cannot issue: its strand stalls for this reason (R102). -/
def State.stall (s : State) (w : Wait) : State :=
  (s.modMe fun t => { t with life := .waiting w }).setRes .waits

/-! ## Class K accesses in the memory-extended queues (R101, R173) -/

def Context.meQueue (k : Context) (p : Strand) : List MeCmd :=
  match p with
  | .L => k.meL
  | .S => k.meS
  | _ => []
/-- A memory-extended word of access class K: plain, .ovf and .sete forms, and prefetch (R173). -/
def isClassK : WideWord → Bool
  | .ldm _ | .stm _ | .stmOvf _ | .stmSete _ | .prefetch _ => true
  | _ => false
/-- A class K store. -/
def isStoreK : WideWord → Bool
  | .stm _ | .stmOvf _ | .stmSete _ => true
  | _ => false
/-- A strand's own class K accesses are still to be performed. -/
def Context.ownKBusy (k : Context) (p : Strand) : Bool := (k.meQueue p).any fun c => isClassK c.word
/-- A strand's own class K stores are still to be performed. -/
def Context.ownStoreBusy (k : Context) (p : Strand) : Bool := (k.meQueue p).any fun c => isStoreK c.word

/-! ## Join bits and ended strands (R99, R116) -/

/-- Bit of a strand in a mask, K lowest (R22). -/
def maskBit (m : BitVec 4) (p : Strand) : Bool := m.getLsbD p.num
/-- The joined strands of a context that have not ended: its group (R97). -/
def Context.group (k : Context) : List Strand :=
  Strand.all.filter fun q => (k.strand q).joined && (k.strand q).life != .ended
def Context.jbit (k : Context) (n : BitVec 3) : JoinBit := k.jb[n.toNat]
def Context.setJbit (k : Context) (n : BitVec 3) (j : JoinBit) : Context := { k with jb := k.jb.set n.toNat j }
/-- Every strand of the mask has ended, or has arrived and has performed its class K accesses, and the replay queue holds nothing of
the context (R99, R101, R289). -/
def Context.joinDone (k : Context) (n : BitVec 3) : Bool :=
  let j := k.jbit n
  j.arrived != 0 && k.replay.isEmpty &&
    Strand.all.all fun q => !maskBit j.mask q || (k.strand q).life == .ended || (maskBit j.arrived q && !k.ownKBusy q)
/-- Where a completed rendezvous continues: after the join bundle of the lowest-numbered member of the mask that executed a
join. -/
def JoinBit.target (j : JoinBit) : Option Addr :=
  match Strand.all.findSome? fun q => if maskBit j.mask q then j.next.get q else none with
  | some a => some a
  | none => Strand.all.findSome? j.next.get
/-- JOIN_RENDEZVOUS: the arrived strands rejoin, the group continues at the target three cycles later, and the bit is idle
again (R99). Nothing happens while it is not complete. -/
def Context.rendezvous (k : Context) (n : BitVec 3) : Context :=
  let j := k.jbit n
  match k.joinDone n, j.target with
  | true, some a =>
    let grp := Strand.all.filter fun q => (k.strand q).life != .ended &&
      ((k.strand q).joined || (maskBit j.mask q && maskBit j.arrived q))
    let k := grp.foldl (fun k q => k.modStrand q fun t => { t with
      joined := true, pc := a, forced := some a, bubble := 2
      life := if t.life == .waiting (.join n) then .running else t.life }) k
    k.setJbit n { j with mask := 0, arrived := 0, next := ⟨none, none, none, none⟩ }
  | _, _ => k
def Context.rendezvousAll (k : Context) : Context := [0, 1, 2, 3, 4, 5, 6, 7].foldl (fun k n => k.rendezvous n) k
/-- The strand ends: it leaves the group, and counts as arrived at every join (R99, R116). -/
def Context.endStrand (k : Context) (p : Strand) : Context :=
  (k.modStrand p fun t => { t with
    life := .ended, joined := false, ending := false, exitq := none, due := [], lateq := [] }).rendezvousAll

/-! ## Traps (R110-R114) -/

/-- The strands that stop together with strand `p` when its bundle faults: its joined group, or itself alone (R111). -/
def Context.stopGroup (k : Context) (p : Strand) : List Strand :=
  if (k.strand p).joined then k.group else [p]

/-- Faults of loads still in the landing buffer join the late-fault queue in issue order (R111 step 3, R112). -/
def StrandSt.drainFaults (t : StrandSt) : StrandSt :=
  let fs := t.land.filterMap fun e => match e.what with
    | .fault f _ _ => some f
    | _ => none
  { t with lateq := t.lateq ++ t.due ++ fs, due := []
           land := t.land.filter fun e => match e.what with
             | .fault _ _ _ => false
             | _ => true }

/-- The registers that taking a trap writes (R111 step 2, R112). -/
def StrandSt.saveTrap (t : StrandSt) (c : Cause) (slot : Strand) (late : Bool) (len : Nat) (epc : Addr) (eval : Word) :
    StrandSt :=
  { t with code := c.code, slot := BitVec.ofNat 2 slot.num, late := late, len := BitVec.ofNat 5 len
           epc := epc.extractLsb' 2 55, eval := eval }

/-- TAKING A TRAP: strand `p` of a context records the cause; its group stops; the firmware strand of the same letter is to
serve it (R111). A trap in the firmware context halts that context instead (R114). -/
def CoreSt.takeTrap (k : CoreSt) (x : Ctx) (p : Strand) (c : Cause) (slot : Strand) (late : Bool) (len : Nat) (epc : Addr)
    (eval : Word) : CoreSt :=
  let stop := (k.ctx x).stopGroup p
  let k1 := k.modCtx x fun m => (stop.foldl (fun m q => m.modStrand q fun t =>
    { t.drainFaults with life := .trapped, redirect := none, forced := none, blocked := 0, woken := none }) m).modStrand p
      (·.saveTrap c slot late len epc eval)
  match x with
  | .fw => { k1 with fwHalted := true }
  | _ => { k1 with trapQueue := k1.trapQueue ++ [(x, p)] }

/-- What the issuing word waited for in vain is forgotten with its fault: a segment that could not come in, a refused page. -/
def State.forget (s : State) (c : Cause) : State :=
  s.modHere fun k => { (k.modStrand s.cur.strand fun t => { t with
      pages := if c == .page then t.pages.filter (fun q => !(q.serial.isNone && q.refused)) else t.pages }) with
    touch := k.touch.filter fun u => !(u.failed && u.strand == s.cur.strand && u.serial.isNone) }
/-- An issue fault of the word at the issuing slot (R111). -/
def State.trap (s : State) (c : Cause) (eval : Word) : State :=
  ((s.forget c).modCore s.cur.core fun k =>
    k.takeTrap s.cur.ctx s.cur.strand c s.cur.strand false s.cur.len s.cur.hdr eval).setRes .trapped

/-- Which strands a trap of strand `p` stopped: those that stand trapped and joined with it, or itself alone. -/
def Context.trappedWith (k : Context) (p : Strand) : List Strand :=
  if (k.strand p).joined then Strand.all.filter fun q => (k.strand q).joined && (k.strand q).life == .trapped else [p]

/-- A strand whose FEBUDGET is still to be taken (R316). -/
def StrandSt.owesBudget (t : StrandSt) : Bool := (t.lateq ++ t.due).any (·.cause == .febudget)
/-- Abandoned accesses at the heads of the queues of these strands are sent again (R316). -/
def Context.resumeMe (k : Context) (l : List Strand) : Context :=
  let f (q : MeCmd) : MeCmd := if q.phase == .abandoned then { q with phase := .queued } else q
  { k with meL := if l.contains .L then k.meL.map f else k.meL, meS := if l.contains .S then k.meS.map f else k.meS }
/-- The join at which a strand has arrived and whose rendezvous is not complete. -/
def Context.joinOf (k : Context) (r : Strand) : Option (BitVec 3) := [0, 1, 2, 3, 4, 5, 6, 7].find? fun n => maskBit (k.jbit n).arrived r
/-- A stopped strand goes on: it runs, or waits on in the join at which it has arrived. -/
def Context.goesOn (k : Context) (r : Strand) : Context :=
  k.modStrand r fun t => { t with life := match k.joinOf r with
    | some n => .waiting (.join n)
    | none => .running }
/-- Gives back the pop-before tokens of a word that does not go on, as far as there is room, log 70. -/
def Context.unpop (k : Context) (r : Strand) : Context :=
  let put (n : Nat) (b : Bool) : Nat := if b then min 8 (n + 1) else n
  let l := (k.strand r).popped.getLsbD 0
  let h := (k.strand r).popped.getLsbD 1
  let t := k.tokens
  { k with tokens := match r with
    | .K => { t with lk := put t.lk h }
    | .L => { t with kl := put t.kl l, xl := put t.xl h }
    | .X => { t with lx := put t.lx l, sx := put t.sx h }
    | .S => { t with xs := put t.xs l } }
/-- A strand that leaves the bundle at which it stands for another: the DLY of the new bundle is to be spent, and what its stalled word
had begun is forgotten: a threshold (R165), popped tokens (R169), a pin set (R152), an exit or fence. -/
def Context.leaveFor (k : Context) (r : Strand) (a : Addr) : Context :=
  let k1 := k.unpop r
  { (k1.modStrand r fun t => { t with
      pc := a, delayed := false, threshold := none, popped := 0, exitMark := none, mark := none, resend := none }) with
    pinWait := if r == .L then none else k1.pinWait }
/-- A stopped strand goes on at an address. -/
def Context.resumeAt (k : Context) (r : Strand) (a : Addr) : Context :=
  if (k.strand r).pc == a then k.goesOn r else (k.leaveFor r a).goesOn r
/-- The oldest queued late fault of the strands: whose, the fault, and what is left of its queue. -/
def Context.nextLate (k : Context) (grp : List Strand) : Option (Strand × FaultRec × List FaultRec) :=
  grp.findSome? fun r => match (k.strand r).lateq with
    | [] => none
    | f :: rest => some (r, f, rest)
/-- Delivers the next late fault of the strands, before any of their bundles issues (R112, R113); `len` gives the parcels of the bundle
at an address. -/
def CoreSt.deliverLate (k : CoreSt) (x : Ctx) (grp : List Strand) (len : Addr → Nat) : CoreSt :=
  match (k.ctx x).nextLate grp with
  | none => k
  | some (r, f, rest) =>
    let a := ((k.ctx x).strand r).pc
    (k.modCtx x (·.modStrand r fun u => { u with lateq := rest })).takeTrap x r f.cause f.slot true (len a) a f.eval
/-- RETURNING FROM A TRAP (R113): the strand that firmware strand `p` served resumes with its group at the firmware strand's
%epc, but a queued late fault is delivered first; with ENDING set the strand ends and the rest of its group resumes after the
exit.ab bundle. Nothing happens when no trap is in service. -/
def CoreSt.returnTrap (k : CoreSt) (p : Strand) (len : Addr → Nat) : CoreSt :=
  match k.serving.get p with
  | none => k
  | some (x, q) =>
    let resume : Addr := ((k.ctx .fw).strand p).epc.setWidth 57 <<< 2
    let ends := ((k.ctx x).strand q).ending
    let grp := (k.ctx x).trappedWith q
    let k := { k with serving := k.serving.set p none }
    let k := k.modCtx x fun m =>
      let m := m.resumeMe (grp.filter fun r => !(m.strand r).owesBudget)
      if ends then (grp.foldl (fun m r => m.goesOn r) m).endStrand q else grp.foldl (fun m r => m.resumeAt r resume) m
    k.deliverLate x grp len

end Machine
end Sys2Proof
end

