-- ==== Sys2Proof/Machine/Capture.lean ====
section
/-! DEFINITION. Capture and replay of what crosses into a partition (R392-R394, log 25): the records, and what seeds, Sage and the
dispatcher do in a partition that records or replays. -/
namespace Sys2Proof.Machine

/-- Capture mode of a partition: 0 off, 1 record, 2 replay (R392). -/
def State.capMode (s : State) (p : PartId) : Nat := (s.parts[p.toNat]).capMode.toNat
/-- Some partition records or replays. -/
def State.captures (s : State) : Bool := s.parts.any (·.capMode != 0)
def State.modCap (s : State) (p : PartId) (f : Partition → Partition) : State :=
  { s with parts := s.parts.set p.toNat (f s.parts[p.toNat]) }
/-- An entry of a function's MSI-X table; one that nothing has written holds the mask bit alone (R418, log 84). -/
def Pkg.vector (k : Pkg) (f : Func) (v : BitVec 11) : BitVec 128 :=
  ((k.vectors.find? fun e => e.1 == f && e.2.1 == v).map (·.2.2)).getD (1 <<< 96)
/-- Sends a vector of a function (R368); where its table entry is masked its pending bit is set (R418, log 84). -/
def Pkg.send (k : Pkg) (f : Func) (v : BitVec 11) : Pkg :=
  { k with msix := k.msix ++ [(f, v)]
           pending := if (k.vector f v).getLsbD 96 && !k.pending.contains (f, v) then k.pending ++ [(f, v)] else k.pending }
/-- The functions bound to a partition (R365). -/
def Pkg.fnsOf (k : Pkg) (p : PartId) : List VfId := (k.vfs.filter (·.2 == p)).map (·.1)
/-- Vector 0 of every function bound to a partition (R368). -/
def Pkg.serviceEvent (k : Pkg) (p : PartId) : Pkg := (k.fnsOf p).foldl (fun k v => k.send (.vf v) 0) k
/-- Size of a capture area (R392). -/
def Partition.capBytes (t : Partition) : Nat := 2 ^ 26 * (t.capSize.toNat + 1)
/-- A record is written behind those that the area holds, its bytes a free value; a record that finds no room stops the recording,
with vector 0 of the partition's functions (R394). -/
def State.recordIn (s : State) (p : PartId) (f : Capture → Capture) : State :=
  let t := s.parts[p.toNat]
  let bs := Config.freeRecord s.draws
  let s := { s with draws := s.draws + 1 }
  if t.capBytes < t.capFill + bs.length then
    { (s.modCap p fun t => { t with capMode := 0 }) with
      pkg := s.pkg.serviceEvent p }
  else
    { (s.modCap p fun t => { t with cap := f t.cap, capFill := t.capFill + bs.length }) with
      mem := s.mem.writeClean (4096 * t.capBase.toNat + t.capFill) bs }
/-- In record mode, writes a record. -/
def State.noteIn (s : State) (p : PartId) (f : Capture → Capture) : State := if s.capMode p = 1 then s.recordIn p f else s
/-- In replay mode, takes something off what is left to replay. -/
def State.consume (s : State) (p : PartId) (f : Capture → Capture) : State :=
  if s.capMode p = 2 then s.modCap p fun t => { t with capLeft := f t.capLeft } else s
/-- The first entry of a list with a property goes. -/
def dropFirst {α : Type} (q : α → Bool) : List α → List α
  | [] => []
  | a :: r => if q a then r else a :: dropFirst q r

/-! ## Seeds -/

/-- The value that a vsr.seed of a context takes: in replay mode the recorded one. -/
def State.seedIn (s : State) (c : CoreId) (x : Ctx) (v : BitVec 32) : BitVec 32 :=
  let p := (s.ctx c x).part
  if s.capMode p = 2 then match (s.parts[p.toNat]).capLeft.seeds.find? fun e => e.1 == c && e.2.1 == x with
    | some e => e.2.2
    | none => v
  else v
def State.noteSeed (s : State) (c : CoreId) (x : Ctx) (v : BitVec 32) : State :=
  let p := (s.ctx c x).part
  (s.noteIn p fun k => { k with seeds := k.seeds ++ [(c, x, v)] }).consume p fun k =>
    { k with seeds := dropFirst (fun e => e.1 == c && e.2.1 == x) k.seeds }

/-! ## Sage -/

/-- The words that an operation at Sage covers; a barrier object counts as one. -/
def Place.sageWords (p : Place) (n : Nat) : List Place :=
  match p with
  | .dev pa => (wordsOf pa n).map .dev
  | .win _ _ => [p]
  | .seg _ _ _ _ => []
/-- In replay mode, an operation on one of its words comes before its turn (R309). -/
def State.outOfTurn (s : State) (c : CoreId) (x : Ctx) (p : Strand) (l : List Place) : Bool :=
  let r := (s.ctx c x).part
  s.capMode r = 2 && l.any fun a => match (s.parts[r.toNat]).capLeft.orders.find? fun e => e.word == a with
    | some e => !(e.core == c && e.ctx == x && e.strand == p)
    | none => false
/-- The operation arrives at Sage, and takes its place in the order of each of its words. -/
def State.noteArrival (s : State) (c : CoreId) (x : Ctx) (p : Strand) (l : List Place) : State :=
  let r := (s.ctx c x).part
  if l.isEmpty then s
  else (s.noteIn r fun k => { k with orders := k.orders ++ l.map fun a => ⟨a, c, x, p⟩ }).consume r fun k =>
    { k with orders := l.foldl (fun o a => dropFirst (fun e => e.word == a) o) k.orders }

/-! ## The dispatcher -/

/-- In replay mode, the core of the next placement that was recorded on a die. -/
def State.nextPlace (s : State) (p : PartId) (d : Nat) : Option CoreId :=
  if s.capMode p = 2 then (s.parts[p.toNat]).capLeft.places.find? fun c => c.val / 48 == d else none
def State.notePlace (s : State) (p : PartId) (c : CoreId) : State :=
  (s.noteIn p fun k => { k with places := k.places ++ [c] }).consume p fun k =>
    { k with places := dropFirst (fun e => e.val / 48 == c.val / 48) k.places }

/-! ## With capture off -/

theorem State.noteIn_off {s : State} {p : PartId} (h : s.capMode p = 0) (f : Capture → Capture) : s.noteIn p f = s := by
  simp [State.noteIn, h]
theorem State.consume_off {s : State} {p : PartId} (h : s.capMode p = 0) (f : Capture → Capture) : s.consume p f = s := by
  simp [State.consume, h]
theorem State.seedIn_off {s : State} {c : CoreId} {x : Ctx} (h : s.capMode (s.ctx c x).part = 0) (v : BitVec 32) : s.seedIn c x v = v := by
  simp [State.seedIn, h]
theorem State.noteSeed_off {s : State} {c : CoreId} {x : Ctx} (h : s.capMode (s.ctx c x).part = 0) (v : BitVec 32) :
    s.noteSeed c x v = s := by
  simp [State.noteSeed, State.noteIn_off h, State.consume_off h]
theorem State.outOfTurn_off {s : State} {c : CoreId} {x : Ctx} (h : s.capMode (s.ctx c x).part = 0) (p : Strand) (l : List Place) :
    s.outOfTurn c x p l = false := by
  simp [State.outOfTurn, h]
theorem State.noteArrival_off {s : State} {c : CoreId} {x : Ctx} (h : s.capMode (s.ctx c x).part = 0) (p : Strand) (l : List Place) :
    s.noteArrival c x p l = s := by
  simp [State.noteArrival, State.noteIn_off h, State.consume_off h]
theorem State.notePlace_off {s : State} {p : PartId} (h : s.capMode p = 0) (c : CoreId) : s.notePlace p c = s := by
  simp [State.notePlace, State.noteIn_off h, State.consume_off h]
theorem State.nextPlace_off {s : State} {p : PartId} (h : s.capMode p = 0) (d : Nat) : s.nextPlace p d = none := by
  simp [State.nextPlace, h]

end Sys2Proof.Machine
end

