-- ==== Sys2Proof/Machine/Num.lean ====
section
/-! DEFINITION. Numbers: what the codes of each format stand for (R61-R66), rounding (R70-R72), conversion (R73-R76), exact
sums and products (R78), reciprocals and transcendental functions (R89). -/
namespace Sys2Proof

/-- An exact value: a dyadic rational with the sign of its zero, an infinity, or a NaN. -/
inductive Val where
  | fin (neg : Bool) (m : Nat) (e : Int)
  | inf (neg : Bool)
  | nan
  deriving DecidableEq, Repr

/-! ## Layouts -/

/-- A binary floating format: significand bits, exponent of its smallest unit, exponent field width, largest finite value
`maxM × 2^maxE`, and whether it has infinities and NaNs. -/
structure Fp where
  p : Nat
  qmin : Int
  ebits : Nat
  maxM : Nat
  maxE : Int
  ieee : Bool
  deriving DecidableEq, Repr

/-- The floating layouts (R63, R64, R66). -/
def Fmt.fp? : Fmt → Option Fp
  | .f32 => some ⟨24, -149, 8, 16777215, 104, true⟩
  | .bf16 => some ⟨8, -133, 8, 255, 120, true⟩
  | .f16 => some ⟨11, -24, 5, 2047, 5, true⟩
  | .f8a => some ⟨4, -9, 4, 15, 5, false⟩
  | .f8b => some ⟨3, -16, 5, 7, 14, false⟩
  | .f4 => some ⟨2, -1, 2, 3, 1, false⟩
  | _ => none

def Fp.signBit (f : Fp) : Nat := 2 ^ (f.p - 1 + f.ebits)
def Fp.infCode (f : Fp) : Nat := (2 ^ f.ebits - 1) * 2 ^ (f.p - 1)
/-- The canonical quiet NaN (R66). -/
def Fp.nanCode (f : Fp) : Nat := f.infCode + 2 ^ (f.p - 2)
def Fp.maxCode (f : Fp) : Nat := if f.ieee then f.infCode - 1 else f.signBit - 1
def Fp.decode (f : Fp) (c : Nat) : Val :=
  let neg := c / f.signBit % 2 == 1
  let ex := c / 2 ^ (f.p - 1) % 2 ^ f.ebits
  let m := c % 2 ^ (f.p - 1)
  if f.ieee && ex == 2 ^ f.ebits - 1 then (if m = 0 then .inf neg else .nan)
  else if ex = 0 then .fin neg m f.qmin
  else .fin neg (2 ^ (f.p - 1) + m) (f.qmin + (ex : Int) - 1)
def signOf (f : Fp) (neg : Bool) : Nat := if neg then f.signBit else 0
/-- Code of `k × 2^q`, where `k` has at most `p` bits or is `2^p`, and fewer than `p` only at the smallest unit. -/
def Fp.encode (f : Fp) (neg : Bool) (k : Nat) (q : Int) : Nat :=
  let (k, q) := if k = 2 ^ f.p then (k / 2, q + 1) else (k, q)
  signOf f neg + (if k < 2 ^ (f.p - 1) then k else (q - f.qmin + 1).toNat * 2 ^ (f.p - 1) + (k - 2 ^ (f.p - 1)))

/-- The value that a code of a format stands for. -/
def Fmt.val (f : Fmt) (c : Nat) : Val :=
  match f.fp? with
  | some l => l.decode (c % 2 ^ f.width)
  | none => match f with
    | .t2 => (match c % 4 with | 1 => .fin false 1 0 | 3 => .fin true 1 0 | _ => .fin false 0 0)
    | .x8 => .fin false 1 ((c % 256 : Nat) - 127)
    | _ =>
      if f.isSigned then
        let i := signedOf f.width c
        .fin (i < 0) i.natAbs 0
      else .fin false (c % 2 ^ f.width) 0

/-! ## Rounding (R70, R71) -/

/-- Number of bits of a natural number. -/
def bitLen (n : Nat) : Nat := if n = 0 then 0 else n.log2 + 1

/-- Rounds `m / 2^s` to an integer in a mode: `u` is the draw of SR. -/
def roundShift (rnd : Rnd) (neg : Bool) (u m s : Nat) : Nat :=
  let n := m / 2 ^ s
  let r := m % 2 ^ s
  if r = 0 then n
  else match rnd with
    | .rne => if 2 * r > 2 ^ s || (2 * r == 2 ^ s && n % 2 == 1) then n + 1 else n
    | .rtz => n
    | .rdn => if neg then n + 1 else n
    | .rup => if neg then n else n + 1
    | .sr =>
      if neg then (if u < (2 ^ s - r) * 65536 / 2 ^ s then n else n + 1)
      else if u < r * 65536 / 2 ^ s then n + 1 else n
/-- Rounds `m × 2^e` to a multiple of `2^q`. -/
def roundAt (rnd : Rnd) (neg : Bool) (u m : Nat) (e q : Int) : Nat :=
  if q ≤ e then m * 2 ^ (e - q).toNat else roundShift rnd neg u m (q - e).toNat
/-- Exponent of the unit to which `p` significand bits round `m × 2^e`, not below `qmin`. -/
def unitOf (p : Nat) (qmin : Int) (m : Nat) (e : Int) : Int := max qmin ((bitLen m : Int) + e - p)

/-- One draw of xorshift32 (R71): the new state. -/
def xorshift (x : BitVec 32) : BitVec 32 :=
  let x := x ^^^ (x <<< 13)
  let x := x ^^^ (x >>> 17)
  x ^^^ (x <<< 5)
/-- The draw's value u. -/
def drawOf (x : BitVec 32) : Nat := x.toNat / 65536
/-- A generator state that would be 0 is 1. -/
def seedState (x : BitVec 32) : BitVec 32 := if x = 0 then 1 else x

/-- What a conversion gives: the code, whether it saturated, whether it makes its line or lane group poisoned. -/
structure Cvt where
  code : Nat
  sat : Bool
  poison : Bool
  deriving DecidableEq, Repr

/-- `a × 2^e > b × 2^f`. -/
def exceeds (a : Nat) (e : Int) (b : Nat) (f : Int) : Bool :=
  if f ≤ e then a * 2 ^ (e - f).toNat > b else a > b * 2 ^ (f - e).toNat

/-- Rounding a finite value to a floating format, with R74's overflow. -/
def Fp.round (f : Fp) (rnd : Rnd) (sat : Bool) (u : Nat) (neg : Bool) (m : Nat) (e : Int) : Cvt :=
  let q := unitOf f.p f.qmin m e
  let k := roundAt rnd neg u m e q
  if exceeds k q f.maxM f.maxE then
    let big := signOf f neg + f.maxCode
    if !f.ieee || sat then ⟨big, true, false⟩
    else
      let toInf := match rnd with
        | .rne | .sr => true
        | .rtz => false
        | .rdn => neg
        | .rup => !neg
      ⟨if toInf then signOf f neg + f.infCode else big, false, false⟩
  else ⟨f.encode neg k q, false, false⟩

/-- Least and greatest value of an integer format. -/
def Fmt.least (f : Fmt) : Int := if f.isSigned then -(2 ^ (f.width - 1) : Nat) else 0
def Fmt.greatest (f : Fmt) : Int := if f.isSigned then (2 ^ (f.width - 1) : Nat) - 1 else (2 ^ f.width : Nat) - 1
def Fmt.pattern (f : Fmt) (i : Int) : Nat := (i % (2 ^ f.width : Nat)).toNat
/-- An integer result in an integer format: wrapped, or clamped with SAT (R61). -/
def Fmt.fit (f : Fmt) (sat : Bool) (i : Int) : Cvt :=
  if f.least ≤ i && i ≤ f.greatest || !sat then ⟨f.pattern i, false, false⟩
  else ⟨f.pattern (if i < f.least then f.least else f.greatest), true, false⟩
/-- `±m`. -/
def signed (neg : Bool) (m : Nat) : Int := if neg then -(m : Int) else m

/-- Conversion to X8 (R76). -/
def toX8 (rnd : Rnd) (u : Nat) (v : Val) : Cvt :=
  match v with
  | .nan => ⟨0, false, true⟩
  | .inf neg => ⟨if neg then 0 else 255, true, false⟩
  | .fin neg m e =>
    if m = 0 || neg then ⟨0, true, false⟩
    else
      let b := bitLen m - 1
      let r := m - 2 ^ b
      let n : Int := (b : Int) + e
      let up : Bool := r != 0 && (match rnd with
        | .rne => m * m > 2 ^ (2 * b + 1)
        | .rtz | .rdn => false
        | .rup => true
        | .sr => decide (u < r * 65536 / 2 ^ b))
      let c := n + 127 + (if up then 1 else 0)
      if c > 255 then ⟨255, true, false⟩ else if c < 0 then ⟨0, true, false⟩ else ⟨c.toNat, false, false⟩

/-- Conversion of an exact value to a format (R73-R76); `fromInt` says that the source is an integer format, whose
conversion to integers wraps unless sat is 1. -/
def Fmt.convert (f : Fmt) (rnd : Rnd) (sat : Bool) (u : Nat) (fromInt : Bool) (v : Val) : Cvt :=
  match f.fp? with
  | some l => (match v with
    | .nan => if l.ieee then ⟨l.nanCode, false, false⟩ else ⟨0, false, true⟩
    | .inf neg => if l.ieee then ⟨signOf l neg + l.infCode, false, false⟩ else ⟨signOf l neg + l.maxCode, true, false⟩
    | .fin neg m e => l.round rnd sat u neg m e)
  | none => match f with
    | .x8 => toX8 rnd u v
    | .t2 => (match v with
      | .nan => ⟨0, false, true⟩
      | .inf neg => ⟨if neg then 3 else 1, true, false⟩
      | .fin neg m e =>
        let k := roundAt rnd neg u m e 0
        ⟨if k = 0 then 0 else if neg then 3 else 1, k > 1, false⟩)
    | _ => match v with
      | .nan => ⟨0, false, true⟩
      | .inf neg => ⟨f.pattern (if neg then f.least else f.greatest), true, false⟩
      | .fin neg m e => f.fit (sat || !fromInt) (signed neg (roundAt rnd neg u m e 0))

/-! ## Exact arithmetic (R70, R78) -/

/-- A value as an integer at unit `2^q`, for q not above its own exponent. -/
def atUnit (neg : Bool) (m : Nat) (e q : Int) : Int := signed neg (m * 2 ^ (e - q).toNat)
def negVal : Val → Val
  | .fin n m e => .fin (!n) m e
  | .inf n => .inf (!n)
  | .nan => .nan
/-- Exact sum; the sign of a zero sum follows the mode. -/
def addVal (rnd : Rnd) (a b : Val) : Val :=
  match a, b with
  | .nan, _ | _, .nan => .nan
  | .inf x, .inf y => if x == y then .inf x else .nan
  | .inf x, _ => .inf x
  | _, .inf y => .inf y
  | .fin x m e, .fin y n f =>
    let q := min e f
    let i := atUnit x m e q + atUnit y n f q
    if i = 0 then .fin (if m = 0 && n = 0 && x == y then x else rnd == .rdn) 0 q
    else .fin (i < 0) i.natAbs q
/-- Exact product. -/
def mulVal (a b : Val) : Val :=
  match a, b with
  | .nan, _ | _, .nan => .nan
  | .inf x, .inf y => .inf (x != y)
  | .inf x, .fin y n _ => if n = 0 then .nan else .inf (x != y)
  | .fin x m _, .inf y => if m = 0 then .nan else .inf (x != y)
  | .fin x m e, .fin y n f => .fin (x != y) (m * n) (e + f)
/-- a < b by value; false with a NaN. −0 and +0 are equal. -/
def ltVal (a b : Val) : Bool :=
  match a, b with
  | .nan, _ | _, .nan => false
  | .inf x, .inf y => x && !y
  | .inf x, _ => x
  | _, .inf y => !y
  | .fin x m e, .fin y n f => atUnit x m e (min e f) < atUnit y n f (min e f)
def eqVal (a b : Val) : Bool :=
  match a, b with
  | .nan, _ | _, .nan => false
  | a, b => !ltVal a b && !ltVal b a
def isNan : Val → Bool
  | .nan => true
  | _ => false
def isZero : Val → Bool
  | .fin _ m _ => m == 0
  | _ => false
def signBit : Val → Bool
  | .fin n _ _ | .inf n => n
  | .nan => false
/-- a is below b in the order of vmin and vmax, where −0 lies below +0 (R78). -/
def belowVal (a b : Val) : Bool := ltVal a b || (isZero a && isZero b && signBit a && !signBit b)
def scaleVal (v : Val) (k : Int) : Val :=
  match v with
  | .fin n m e => .fin n m (e + k)
  | v => v

/-! ## Reciprocals and transcendental functions (R89) -/

/-- Integer square root, digit by digit from bit `k` down: the largest root whose bits below are added to `r`. -/
def isqrtFrom (v : Nat) : Nat → Nat → Nat
  | 0, r => r
  | k + 1, r => let c := r + 2 ^ k; isqrtFrom v k (if c * c ≤ v then c else r)
def isqrt (v : Nat) : Nat := isqrtFrom v (bitLen v / 2 + 1) 0
/-- A value between `n × 2^e` and `(n + 1) × 2^e`, strictly unless `exact`: one sticky bit below `n`. -/
def sticky (neg : Bool) (n : Nat) (e : Int) (exact : Bool) : Val := .fin neg (2 * n + (if exact then 0 else 1)) (e - 1)

def rcpVal : Val → Val
  | .nan => .nan
  | .inf n => .fin n 0 0
  | .fin n m e =>
    if m = 0 then .inf n
    else
      let k := bitLen m + 64
      sticky n (2 ^ k / m) (-(k : Int) - e) (2 ^ k % m == 0)
def rsqrtVal : Val → Val
  | .nan => .nan
  | .inf n => if n then .nan else .fin false 0 0
  | .fin n m e =>
    if m = 0 then .inf n
    else if n then .nan
    else
      let (m, e) := if e % 2 = 0 then (m, e) else (2 * m, e - 1)
      let k := bitLen m + 64
      let r := isqrt (2 ^ (2 * k) / m)
      sticky false r (-(k : Int) - e / 2) (r * r * m == 2 ^ (2 * k))

/-- Fraction bits kept while 2^f is computed. -/
def expBits : Nat := 320
/-- Product of the roots 2^(1/2), 2^(1/4), … for the set bits of a fraction `f / 2^s`, from its highest bit down: lower bounds
at `expBits` bits, each step losing less than one unit. -/
def expProd (f : Nat) : Nat → Nat → Nat → Nat
  | 0, _, acc => acc
  | s + 1, root, acc =>
    let root := isqrt (root * 2 ^ expBits)
    expProd f s root (if f / 2 ^ s % 2 = 1 then acc * root / 2 ^ expBits else acc)
/-- 2^x for x = i + f / 2^s. With 256 bits kept of 320, fewer than 2^10 units of error cannot reach the kept bits unless 54 of
them in a row are ones; 2^f is irrational and no operand of R89's formats comes that close. -/
def exp2Frac (i : Int) (f s : Nat) : Val :=
  if f = 0 then .fin false 1 i
  else
    let p := expProd f s (2 * 2 ^ expBits) (2 ^ expBits)
    sticky false (p / 2 ^ 64) (i - 256) false
def exp2Val : Val → Val
  | .nan => .nan
  | .inf n => if n then .fin false 0 0 else .inf false
  | .fin n m e =>
    if m = 0 then .fin false 1 0
    else if (bitLen m : Int) + e > 14 then
      (if n then sticky false 0 (-20000) false else .fin false 1 20000)
    else if 0 ≤ e then .fin false 1 (signed n (m * 2 ^ e.toNat))
    else
      let s := (-e).toNat
      let x := signed n m
      exp2Frac (x.fdiv (2 ^ s : Nat)) (x.fmod (2 ^ s : Nat)).toNat s

/-- Fraction bits of y while log2 y is computed. -/
def logBits : Nat := 640
/-- Bits of log2 y for y in [1, 2) at `logBits` bits: y is squared, and halved when it reaches 2. -/
def logLoop : Nat → Nat → Nat → Nat
  | 0, _, acc => acc
  | n + 1, y, acc =>
    let y := y * y / 2 ^ logBits
    if y ≥ 2 * 2 ^ logBits then logLoop n (y / 2) (2 * acc + 1) else logLoop n y (2 * acc)
def log2Val : Val → Val
  | .nan => .nan
  | .inf n => if n then .nan else .inf false
  | .fin n m e =>
    if m = 0 then .inf true
    else if n then .nan
    else
      let b := bitLen m - 1
      let k : Int := (b : Int) + e
      if m = 2 ^ b then .fin (k < 0) k.natAbs 0
      else
        let t : Int := k * (2 ^ 256 : Nat) + (logLoop 256 (m * 2 ^ logBits / 2 ^ b) 0 : Nat)
        if t < 0 then sticky true (-t - 1).toNat (-256) false else sticky false t.toNat (-256) false

end Sys2Proof
end

