-- ==== Sys2Proof/Machine/Spots.lean ====
section
/-! DEFINITION. Where the elements of an address stream lie (R67, R177, R202). -/
namespace Sys2Proof.Machine

def Dim.ext (d : Dim) : Nat := d.ext1.toNat + 1
def StreamReg.dimList (r : StreamReg) : List Dim := r.dims.toList.take (r.ndim.toNat + 1)
/-- Product of the extents. -/
def StreamReg.total (r : StreamReg) : Nat := (r.dimList.map Dim.ext).foldl (· * ·) 1
/-- Element offset of a linear index, dimension 0 first. -/
def offsetOf : List (Nat × Int) → Nat → Int
  | [], _ => 0
  | (x, s) :: r, k => ((k % x : Nat) : Int) * s + offsetOf r (k / x)
/-- Extents and strides; an override other than 0 takes the place of the stride of dimension 0. -/
def StreamReg.steps (r : StreamReg) (ov : Int) : List (Nat × Int) :=
  match r.dimList.map fun d => (d.ext, d.stride.toInt) with
  | [] => []
  | (x, s) :: rest => (x, if ov = 0 then s else ov) :: rest
/-- An element of a stream: byte offset or virtual address, first bit in that byte, width in bits. -/
structure Spot where
  addr : Int
  bit : Nat
  width : Nat
  deriving DecidableEq, Repr
def Spot.bytes (p : Spot) : Nat := (p.width + 7) / 8
def Spot.eval (p : Spot) : Word := BitVec.ofInt 64 p.addr
def StreamReg.spot (r : StreamReg) (w : Nat) (ov : Int) (k : Nat) : Spot :=
  let bits := offsetOf (r.steps ov) k * (w : Int)
  ⟨(r.base.toNat : Int) + bits.fdiv 8, (bits.fmod 8).toNat, w⟩
/-- The linear indices of `n` elements from `p` on. -/
def StreamReg.indices (r : StreamReg) (p n : Nat) : List Nat := (List.range n).map fun i => (p + i) % r.total

end Sys2Proof.Machine
end

