-- ==== Sys2Proof/Machine/Operands.lean ====
section
/-! DEFINITION. Operand forms of the instruction words: immediates and branch offsets (R25, R39, R40, R125), guards (R38,
R44, R115), special registers (R92-R96, R341, R342, R365, R375). -/
namespace Sys2Proof.Machine

/-- I of R121: imm12 sign-extended. -/
def imm12 (i : BitVec 12) : Word := i.signExtend 64
/-- imm12 of shli, shri and sari: 0 to 63 (R40). -/
def immShift (i : BitVec 12) : Nat := i.toNat % 64
/-- A byte address `parcels` parcels from a header (R33); `parcels` is signed. -/
def parcelsFrom (hdr : Addr) (parcels : Int) : Addr := hdr + BitVec.ofInt 57 (4 * parcels)
/-- Address of the bundle after the issuing one. -/
def State.next (s : State) : Addr := s.cur.hdr + BitVec.ofNat 57 (4 * s.cur.len)
/-- Low 57 bits of a register as an address. -/
def addr57 (v : Word) : Addr := v.setWidth 57
def word57 (a : Addr) : Word := a.setWidth 64

/-! ## Guards (R38, R44, R115) -/

/-- A scalar word's guard: the bit that %gsel names. -/
def StrandSt.scalarGuard (t : StrandSt) (gm : BitVec 2) : Bool :=
  match gm.toNat with
  | 1 => bitAt (t.read t.gselReg) t.gselBit
  | 2 => !bitAt (t.read t.gselReg) t.gselBit
  | _ => true
/-- A vector-width or matrix-width word's guard: its GUARD field. -/
def StrandSt.wideGuard (t : StrandSt) (p : Pre) : Bool :=
  p.en == 0 || bitAt (t.read p.reg) p.bit != (p.inv == 1)

/-! ## Special registers -/

def Strand.code2 (p : Strand) : BitVec 2 := BitVec.ofNat 2 p.num
def Ctx.code2 : Ctx → BitVec 2
  | .t0 => 0 | .t1 => 1 | .fw => 2

/-- %status (R92). -/
def statusWord (x : Ctx) (p : Strand) (dbg : Bool) (t : StrandSt) : Word :=
  (Strand.code2 p).setWidth 64 <<< 18 ||| (Ctx.code2 x).setWidth 64 <<< 16 ||| (BitVec.ofBool dbg).setWidth 64 <<< 5 |||
    (BitVec.ofBool t.ending).setWidth 64 <<< 4 ||| (BitVec.ofBool (!t.lateq.isEmpty)).setWidth 64 <<< 3 |||
    (BitVec.ofBool t.joined).setWidth 64 <<< 2 ||| (BitVec.ofBool t.sat).setWidth 64
/-- %cause (R93). -/
def causeWord (t : StrandSt) : Word :=
  t.len.setWidth 64 <<< 16 ||| (BitVec.ofBool t.late).setWidth 64 <<< 11 ||| t.slot.setWidth 64 <<< 8 |||
    t.code.setWidth 64
/-- %task (R342). -/
def TaskId.word (k : TaskId) : Word :=
  k.die.setWidth 64 <<< 62 ||| k.queue.setWidth 64 <<< 48 ||| k.lser.setWidth 64 <<< 32 ||| k.index.setWidth 64 <<< 16 |||
    k.slot.setWidth 64 <<< 8
/-- %part (R365). -/
def partWord (vf : VfId) (p : PartId) : Word := vf.setWidth 64 <<< 8 ||| p.setWidth 64
/-- %tar (R375). -/
def Tar.word (t : Tar) : Word :=
  (BitVec.ofBool t.heater).setWidth 64 <<< 33 ||| (BitVec.ofBool t.spent).setWidth 64 <<< 32 ||| t.used.setWidth 64 <<< 16 |||
    t.allow.setWidth 64

/-- Value of a special register of the issuing strand (R42). -/
def State.special (s : State) (n : BitVec 12) : Word :=
  let t := s.me
  let k := s.here
  match n.toNat with
  | 0x000 => statusWord s.cur.ctx s.cur.strand k.dbg t
  | 0x001 => causeWord t
  | 0x002 => t.epc.setWidth 64 <<< 2
  | 0x003 => t.eval
  | 0x004 => t.gselBit.setWidth 64 <<< 5 ||| t.gselReg.setWidth 64
  | 0x005 => t.feb.setWidth 64
  | 0x006 => k.cycle
  | 0x010 => k.task.word
  | 0x011 => partWord k.vf k.part
  | 0x012 => s.myCore.tar.word
  | n => if 0x018 ≤ n ∧ n ≤ 0x01F then k.rel[(n - 0x018) % 8]'(Nat.mod_lt _ (by decide)) else 0

/-- Writes the writable fields of a special register of the issuing strand (R96): RW fields in a task context; %cause,
%epc, %eval and ALLOW of %tar as well in the firmware context. -/
def State.setSpecial (s : State) (n : BitVec 12) (v : Word) : State :=
  let fw := s.cur.ctx == .fw
  match n.toNat with
  | 0x000 => s.modMe fun t => { t with sat := v.getLsbD 0 }
  | 0x001 => if fw then s.modMe fun t => { t with
      code := v.extractLsb' 0 8, slot := v.extractLsb' 8 2, late := v.getLsbD 11, len := v.extractLsb' 16 5 } else s
  | 0x002 => if fw then s.modMe fun t => { t with epc := v.extractLsb' 2 55 } else s
  | 0x003 => if fw then s.modMe fun t => { t with eval := v } else s
  | 0x004 => s.modMe fun t => { t with gselReg := v.extractLsb' 0 5, gselBit := v.extractLsb' 5 6 }
  | 0x005 => s.modMe fun t => { t with feb := v.extractLsb' 0 16 }
  | 0x012 => if fw then s.modCore s.cur.core fun k => { k with tar := { k.tar with allow := v.extractLsb' 0 16 } } else s
  | _ => s

/-- A special register with a field of access FW (R57): %tar. -/
def srHasFw (n : BitVec 12) : Bool := n == 0x012

end Sys2Proof.Machine
end

