-- ==== Sys2Proof/Machine/Flags.lean ====
section
/-! DEFINITION. The scalar results and the conditions that compares compute (R119-R124), as functions of operand values. -/
namespace Sys2Proof.Machine

/-- High 64 bits of a 128-bit signed or unsigned product. -/
def mulHighS (a b : Word) : Word := ((a.signExtend 128 * b.signExtend 128).extractLsb' 64 64)
def mulHighU (a b : Word) : Word := ((a.setWidth 128 * b.setWidth 128).extractLsb' 64 64)
/-- Quotients toward zero and remainders with the dividend's sign; the divisor is not 0 (R119). -/
def divS (a b : Word) : Word := a.sdiv b
def remS (a b : Word) : Word := a.srem b
def minS (a b : Word) : Word := if b.slt a then b else a
def maxS (a b : Word) : Word := if a.slt b then b else a
def minU (a b : Word) : Word := if b.ult a then b else a
def maxU (a b : Word) : Word := if a.ult b then b else a
def sh6 (b : Word) : Nat := b.toNat % 64
def sh5 (b : Word) : Nat := b.toNat % 32
/-- Sx of the low 32 bits. -/
def sxw32 (v : Word) : Word := sx v 32
def shlw (a b : Word) : Word := sxw32 (a <<< sh5 b)
def shrw (a b : Word) : Word := sxw32 (zx a 32 >>> sh5 b)
def sarw (a b : Word) : Word := sxw32 ((sx a 32).sshiftRight (sh5 b))
def absS (a : Word) : Word := if a.msb then 0 - a else a
/-- Leading zero bits among the low `n` bits. -/
def clzFrom (a : Word) : Nat → Nat
  | 0 => 0
  | n + 1 => if a.getLsbD n then 0 else 1 + clzFrom a n
/-- Zero bits from bit `i` up, at most `n`. -/
def ctzFrom (a : Word) (i : Nat) : Nat → Nat
  | 0 => 0
  | n + 1 => if a.getLsbD i then 0 else 1 + ctzFrom a (i + 1) n
def popFrom (a : Word) : Nat → Nat
  | 0 => 0
  | n + 1 => (a.getLsbD n).toNat + popFrom a n
def clz64 (a : Word) : Word := BitVec.ofNat 64 (clzFrom a 64)
def ctz64 (a : Word) : Word := BitVec.ofNat 64 (ctzFrom a 0 64)
def popc64 (a : Word) : Word := BitVec.ofNat 64 (popFrom a 64)
/-- Bits reversed. -/
def brevFrom (a : Word) : Nat → Nat
  | 0 => 0
  | n + 1 => (a.getLsbD n).toNat * 2 ^ (63 - n) + brevFrom a n
def brev64 (a : Word) : Word := BitVec.ofNat 64 (brevFrom a 64)
/-- Bytes reversed. -/
def bswapFrom (a : Word) : Nat → Nat
  | 0 => 0
  | n + 1 => (a.extractLsb' (8 * n) 8).toNat * 2 ^ (8 * (7 - n)) + bswapFrom a n
def bswap64 (a : Word) : Word := BitVec.ofNat 64 (bswapFrom a 8)
/-- Bits hi:pos of a register, sign- or zero-extended; hi = pos + len − 1 (R122). -/
def bfxS (a : Word) (pos len : Nat) : Word := sx (a >>> pos) len
def bfxU (a : Word) (pos len : Nat) : Word := zx (a >>> pos) len
/-- Gd with bits hi:pos replaced by the low `len` bits of Ga. -/
def bfins (d a : Word) (pos len : Nat) : Word :=
  let m : Word := (zx (BitVec.allOnes 64) len) <<< pos
  (d &&& ~~~m) ||| ((zx a len) <<< pos)
/-- lih: Gd × 2^17 + imm17. -/
def lihVal (d : Word) (imm : BitVec 17) : Word := (d <<< 17) ||| imm.setWidth 64
/-- imm6 of a compare, sign-extended (R40). -/
def imm6s (i : BitVec 6) : Word := i.signExtend 64
/-- The bit that a compare writes: the condition, ANDed with the old bit when combine is 1 (R123). -/
def combined (comb : BitVec 1) (old cond : Bool) : Bool := if comb = 1 then cond && old else cond

end Sys2Proof.Machine
end

