-- ==== Sys2Proof/Machine/Issue.lean ====
section
/-! DEFINITION. What every word goes through when it issues: the checks of its encoding in its slot (R56-R59), guard and
interlocks (R105, R108, R115), tokens (R169); then its own effect. -/
namespace Sys2Proof.Machine

/-! ## Eligibility and privilege (R56, R57) -/

/-- The strands whose slot may hold the word (R56). -/
def slotOk (v : View) (p : Strand) : Bool :=
  match v with
  | .ss major _ _ => major != 0x27 || p == .K
  | .va _ _ | .mx _ _ => p == .X
  | .me _ _ | .cp _ _ => p == .L || p == .S
  | .cf _ _ => p == .L
  | .sy op _ => if op.toNat < 0xC0 then p != .X else if op.toNat < 0xD0 then p == .L || p == .S else p == .K
  | _ => true

/-- Words that execute only in the firmware context (R57). -/
def fwOnly : AnyWord → Bool
  | .scalar (.lpClamp _) | .scalar (.eret _) | .wide (.vbWr _) | .wide (.clkRatio _) | .wide (.ctxSv _)
  | .wide (.ctxSvEpi _) | .wide (.ctxLd _) | .wide (.ctxLdHold _) | .wide (.ctxLdGo _) => true
  | .scalar (.wrsr w) => srHasFw w.srn
  | _ => false

/-- What a word needs of its bundle: fork a joint one (R56), cp.mm a matrix-width word in X (R48). -/
def bundleOk (w : AnyWord) (joint : Bool) (xword : Option WideWord) : Option Cause :=
  match w with
  | .scalar (.fork _) => if joint then none else some .slot
  | .wide (.cpMm _) => if joint && xword.isSome then none else some .illegal
  | _ => none

/-- The encoding failure of a word at a slot, in the order ILLEGAL, SLOT, PRIV (R59). -/
def wordCheck (w : AnyWord) (p : Strand) (x : Ctx) (joint : Bool) (xword : Option WideWord) : Option Cause :=
  if !(w.legal && w.legalIn p x) || bundleOk w joint xword == some .illegal then some .illegal
  else if !slotOk w.view p || bundleOk w joint xword == some .slot then some .slot
  else if x != .fw && fwOnly w then some .priv
  else none
def State.check (s : State) (w : AnyWord) : Option Cause :=
  wordCheck w s.cur.strand s.cur.ctx s.cur.joint s.cur.xword

/-! ## Issuing -/

def scalarGm : AnyWord → BitVec 2
  | .scalar w => match w.view with
    | .sr _ _ w => w.gm
    | .si _ w => w.gm
    | .sf _ w => w.gm
    | .sc _ w => w.gm
    | .sci _ w => w.gm
    | .sb _ w => w.gm
    | .sj _ w => w.gm
    | .su _ w => w.gm
    | .sl _ w => w.gm
    | .sg _ w => w.gm
    | .ss _ _ w => w.gm
    | _ => 0
  | .wide _ => 0
/-- Registers that the word's guard reads. -/
def guardRegs (w : AnyWord) (t : StrandSt) : List GReg :=
  match w with
  | .scalar _ => if scalarGm w = 0 then [] else [t.gselReg]
  | .wide v => if v.pre.en = 0 then [] else [v.pre.reg]
def guardHolds (w : AnyWord) (t : StrandSt) : Bool :=
  match w with
  | .scalar _ => t.scalarGuard (scalarGm w)
  | .wide v => t.wideGuard v.pre

/-- Traps STALE on the first register of `rs` with an exposed write in flight, in debug mode only (R108). -/
def State.staleCheck (s : State) (rs : List GReg) (k : State → State) : State :=
  if s.here.dbg then
    match s.me.stale rs with
    | some r => s.trap .stale (r.setWidth 64)
    | none => k s
  else k s

/-- A fabric command is an acquire (R408). -/
def FabCmd.isAcquire (q : FabCmd) : Bool :=
  match q.word with
  | .xld w | .xat w => w.imm.extractLsb' 4 2 == 1
  | _ => false
/-- The strand has an acquire that is not performed: no later access of the strand is performed before it (R299, R301, R408). -/
def Context.acquiring (k : Context) (p : Strand) : Bool :=
  let me (q : MeCmd) : Bool := q.tag.strand == p && (q.w.ord == 1 || (match q.word with
    | .acq _ => true
    | _ => false))
  let fab (q : FabCmd) : Bool := q.tag.strand == p && q.isAcquire
  k.meL.any me || k.meS.any me || k.fabL.any fab || k.fabS.any fab
/-- A memory-extended access stands behind such an acquire of its strand in a fabric queue. -/
def Context.behindAcquire (k : Context) (t : Tag) : Bool :=
  (k.fabL ++ k.fabS).any fun q => q.tag.strand == t.strand && q.isAcquire && q.tag.serial < t.serial
/-- Words that access memory or barriers and do not pass through the memory-extended queue; as.cfg, which reads its descriptor, among
them. -/
def isAccess (v : View) : Bool :=
  match v with
  | .sl _ _ | .sg _ _ | .cp _ _ | .sy _ _ => true
  | .cf op _ => op == 0xa0
  | _ => false

/-- Issuing a word that makes the debug-mode check of its operands itself: encoding checks (R59), the interlock on the registers its
guard reads, the guard (R115: a false guard performs nothing), the interlock on the registers `rd` it reads and `wr` it writes
(R105), and then `body`. In debug mode the read of a guard register is a read like any other, and traps STALE (R108) also where the
guard would be false: the model's choice, log 82. -/
def State.issueInOrder (s : State) (w : AnyWord) (rd wr : List GReg) (body : State → State) : State :=
  match s.check w with
  | some c => s.trap c (word57 s.cur.at_)
  | none =>
    let s := s.setRes .done
    let g := guardRegs w s.me
    if s.me.pending g then s.stall .interlock
    else s.staleCheck g fun s =>
      if !guardHolds w s.me then s
      else if s.me.pending (rd ++ wr) || (isAccess w.view && s.here.acquiring s.cur.strand) then s.stall .interlock
      else body s
/-- ISSUING A WORD: the same, with the debug-mode check (R108) before its own effect `body`. -/
def State.issue (s : State) (w : AnyWord) (rd wr : List GReg) (body : State → State) : State :=
  s.issueInOrder w rd wr fun s => s.staleCheck rd body

/-! ## Tokens (R167-R169) -/

/-- The strand on the left (dir false) or right of the line K-L-X-S. -/
def neighbour (p : Strand) (right : Bool) : Strand :=
  match p, right with
  | .K, _ => .L
  | .L, false => .K | .L, true => .X
  | .X, false => .L | .X, true => .S
  | .S, _ => .X
def Tokens.get (t : Tokens) (src dst : Strand) : Nat :=
  match src, dst with
  | .K, .L => t.kl | .L, .K => t.lk | .L, .X => t.lx | .X, .L => t.xl | .X, .S => t.xs | .S, .X => t.sx
  | _, _ => 0
def Tokens.set (t : Tokens) (src dst : Strand) (n : Nat) : Tokens :=
  match src, dst with
  | .K, .L => { t with kl := n } | .L, .K => { t with lk := n } | .L, .X => { t with lx := n }
  | .X, .L => { t with xl := n } | .X, .S => { t with xs := n } | .S, .X => { t with sx := n }
  | _, _ => t
/-- Depth of a token FIFO (R137). -/
def tokenDepth : Nat := 8
/-- Pops a token that `p` takes from its neighbour; none when the FIFO is empty. -/
def Tokens.pop (t : Tokens) (p : Strand) (right : Bool) : Option Tokens :=
  let n := t.get (neighbour p right) p
  if n = 0 then none else some (t.set (neighbour p right) p (n - 1))
/-- Pushes a token from `p` toward its neighbour; none when the FIFO is full. -/
def Tokens.push (t : Tokens) (p : Strand) (right : Bool) : Option Tokens :=
  let n := t.get p (neighbour p right)
  if n ≥ tokenDepth then none else some (t.set p (neighbour p right) (n + 1))

/-- Pops one pop-before token unless the stalled word has popped it already. -/
def State.popOne (s : State) (right : Bool) : Option State :=
  let b : BitVec 2 := if right then 2 else 1
  if s.me.popped &&& b != 0 then some s
  else match s.here.tokens.pop s.cur.strand right with
    | none => none
    | some t => some ((s.modHere fun k => { k with tokens := t }).modMe fun u => { u with popped := u.popped ||| b })
/-- Pops the pop-before tokens of a TOK field, left before right, and goes on; the strand stalls on an empty FIFO and keeps
what it has popped (R169). -/
def State.popTokens (s : State) (tok : BitVec 4) (k : State → State) : State :=
  match (if tok.getLsbD 0 then s.popOne false else some s) with
  | none => s.stall .token
  | some s1 => match (if tok.getLsbD 1 then s1.popOne true else some s1) with
    | none => s1.stall .token
    | some s2 => k (s2.modMe fun u => { u with popped := 0 })
/-- Push-after bits of a TOK field: bit 2 left, bit 3 right. -/
def Tokens.pushAll (t : Tokens) (p : Strand) (tok : BitVec 4) : Option Tokens :=
  match (if tok.getLsbD 2 then t.push p false else some t) with
  | none => none
  | some t1 => if tok.getLsbD 3 then t1.push p true else some t1
/-- The push-after bits that still fit, and those that do not. A left token that finds its FIFO full holds back the right one behind it:
the model's choice, log 82. -/
def Tokens.pushSome (t : Tokens) (p : Strand) (tok : BitVec 4) : Tokens × BitVec 4 :=
  let (t1, l1) : Tokens × BitVec 4 :=
    if tok.getLsbD 2 then (match t.push p false with | some u => (u, 0) | none => (t, 4)) else (t, 0)
  if l1 != 0 then (t1, l1 ||| (tok &&& 8))
  else if tok.getLsbD 3 then (match t1.push p true with | some u => (u, 0) | none => (t1, 8)) else (t1, 0)

end Sys2Proof.Machine
end

