-- ==== Sys2Proof/Machine/Mem.lean ====
section
/-! DEFINITION. Device memory: page-table walk, permissions and faults (R283-R288), frames (R279-R282), and reading and
writing at a place, local or device, in one shape. -/
namespace Sys2Proof.Machine

/-! ## Page tables (R284-R286) -/

/-- What an access needs of a page (R286). -/
structure Need where
  rd : Bool
  wr : Bool
  ex : Bool
  /-- It writes data, F bits or poison as soon as it has its page: the walker sets D (R285). -/
  dirty : Bool
  /-- It reads or writes data, which goes with the poison bit of their lines (R280). -/
  data : Bool
def needRd : Need := ⟨true, false, false, false, true⟩
def needWr : Need := ⟨false, true, false, true, true⟩
def needRW : Need := ⟨true, true, false, true, true⟩
def needEx : Need := ⟨false, false, true, false, true⟩
/-- Of an access that writes only if and when it is performed. -/
def needFill : Need := ⟨false, true, false, false, true⟩
def needRmw : Need := ⟨true, true, false, false, true⟩
/-- Of one that writes F bits alone. -/
def needFe : Need := ⟨false, true, false, true, false⟩

/-- A physical address inside the data area of a stack (R279). -/
def dataArea (pa : Nat) : Bool := pa < 2 ^ 39 && pa % 2 ^ 36 < 61999939584
def frameBytes : Nat := 65536
def bigBytes : Nat := 2097152

/-- A page-table entry that the walk meets is malformed (R285); `leaf` says that it maps a page of `size` bytes. -/
def pteBad (pte level : Nat) (leaf : Bool) (size : Nat) : Bool :=
  pte / 2 ^ 57 != 0 || bitOf pte 11 || bitOf pte 8 || bitOf pte 3 || (bitOf pte 7 && level != 3) ||
    (bitOf pte 6 && (bitOf pte 5 || bitOf pte 4)) || (bitOf pte 1 && bitOf pte 2) ||
    (leaf && bitOf pte 0 &&
      (pte / 4096 * 4096 % 2 ^ 57 % size != 0 || !dataArea (pte / 4096 * 4096 % 2 ^ 57) ||
        !dataArea (pte / 4096 * 4096 % 2 ^ 57 + size - 1)))

/-- Where a walk ends. -/
inductive Walk where
  /-- A valid leaf: its entry's address and value, page size, physical address of the byte. -/
  | page (entry pte size pa : Nat)
  /-- An entry with V = 0: its address and value, and the size of the page it stands for. -/
  | absent (entry pte size : Nat)
  | malformed
  deriving DecidableEq, Repr

/-- The levels of the walk: number, shift of the index, entries (R284). -/
def walkLevels : List (Nat × Nat × Nat) := [(0, 48, 512), (1, 39, 512), (2, 30, 512), (3, 21, 512), (4, 16, 32)]

def walkFrom (m : Store) (va : Nat) : List (Nat × Nat × Nat) → Nat → Walk
  | [], _ => .malformed
  | (level, shift, n) :: rest, table =>
    let entry := table + 8 * (va / 2 ^ shift % n)
    let pte := m.read entry 8
    let leaf := level == 4 || (level == 3 && bitOf pte 7)
    let size := if level == 4 then frameBytes else bigBytes
    if pteBad pte level leaf size then .malformed
    else if !bitOf pte 0 then .absent entry pte (if leaf && level == 3 then bigBytes else frameBytes)
    else
      let addr := pte / 4096 * 4096 % 2 ^ 57
      if leaf then .page entry pte size (addr + va % size) else walkFrom m va rest addr
/-- The walk of a virtual address from a root. -/
def walk (m : Store) (root : Addr) (va : Nat) : Walk := walkFrom m va walkLevels root.toNat

def permitted (pte : Nat) (n : Need) : Bool :=
  (!n.rd || bitOf pte 4) && (!n.wr || bitOf pte 5) && (!n.ex || bitOf pte 6)
/-- The walker sets A, and D on a write (R285). -/
def markAD (m : Store) (entry pte : Nat) (write : Bool) : Store :=
  let v := pte ||| 0x200 ||| (if write then 0x400 else 0)
  if v = pte then m else m.write entry 8 v

/-- What translating an address gives. -/
inductive Xlat where
  | ok (pa : Nat) (mem : Store)
  | prot
  /-- A page fault (R288); the entry's value says who serves it. -/
  | absent (pte : Nat)
  deriving DecidableEq, Repr

/-- The 4 KiB block of the queue port (R171). -/
def portBase : Nat := 0x1FFFFFFFFFFF000
def inPort (va : Nat) : Bool := portBase ≤ va && va < portBase + 4096

/-- Translates a 64-bit address for an access (R283-R286). The queue port is no memory: PROT for every access but its own
words. -/
def State.translate (s : State) (root : Addr) (addr : Word) (n : Need) : Xlat :=
  let va := addr.toNat
  if va ≥ 2 ^ 57 || inPort va then .prot
  else match walk s.mem root va with
    | .malformed => .prot
    | .absent _ pte _ => .absent pte
    | .page entry pte _ pa => if permitted pte n then .ok pa (markAD s.mem entry pte n.dirty) else .prot

/-- An address in each page of a range of bytes; the last byte's too. -/
def pagesOf (a : Word) (len : Nat) : List Word :=
  if len = 0 then []
  else (List.range ((a.toNat % frameBytes + len - 1) / frameBytes + 1)).map fun i =>
    if i = 0 then a else BitVec.ofNat 64 (a.toNat / frameBytes * frameBytes + i * frameBytes)
/-- The memory after the first write through the leaf of an address (R285). -/
def dirtied (m : Store) (root : Addr) (va : Nat) : Store :=
  match walk m root va with
  | .page entry pte _ _ => markAD m entry pte true
  | _ => m

/-! ## TLBs (R156, R287) -/

/-- ADDR of an entry. -/
def entryAddr (pte : Nat) : Nat := pte / 4096 % 2 ^ 45 * 4096
/-- An entry without its A and D bits. -/
def plainPte (pte : Nat) : Nat := pte / 2048 * 2048 + pte % 512
def TlbUnit.entries : TlbUnit → Nat
  | .scalar => 64
  | .inbound => 4096
  | _ => 16
def TlbEntry.maps (e : TlbEntry) (root : Addr) (va : Nat) : Bool := e.root == root && e.va ≤ va && va < e.va + e.size
def tlbFind (l : List TlbEntry) (u : TlbUnit) (root : Addr) (va : Nat) : Option TlbEntry := l.find? fun e => e.unit == u && e.maps root va
def CoreSt.tlbAt (k : CoreSt) (u : TlbUnit) (root : Addr) (va : Nat) : Option TlbEntry := tlbFind k.tlb u root va
/-- A TLB takes a translation; with all its entries in use the oldest goes, log 50. -/
def tlbPut (l : List TlbEntry) (e : TlbEntry) : List TlbEntry :=
  let oldest := if (l.filter (·.unit == e.unit)).length < e.unit.entries then none else l.find? (·.unit == e.unit)
  (match oldest with
    | some o => l.erase o
    | none => l) ++ [e]
def CoreSt.fillTlb (k : CoreSt) (e : TlbEntry) : CoreSt := { k with tlb := tlbPut k.tlb e }
/-- The translation of an address that a TLB keeps though the tables give another by now, where the access uses it: which of the two an
access uses is open until the entry has been invalidated (R287), log 50. -/
def oldEntry (m : Store) (kept : Option TlbEntry) (holder time : Nat) (root : Addr) (va : Nat) : Option TlbEntry :=
  match kept with
  | none => none
  | some e =>
    let now : Bool := match walk m root va with
      | .page _ pte size _ => plainPte pte == e.pte && size == e.size
      | _ => false
    if !now && Config.freeTlb holder time va then some e else none
def State.oldPage (s : State) (c : CoreId) (u : TlbUnit) (root : Addr) (va : Nat) : Option TlbEntry :=
  oldEntry s.mem ((s.core c).tlbAt u root va) c.val (s.core c).now root va
/-- Translates an address by an old translation, if one is used, else by the tables; the queue port is never translated (R283). -/
def State.xlatBy (s : State) (old : Option TlbEntry) (root : Addr) (addr : Word) (n : Need) : Xlat :=
  match old with
  | some e => if 2 ^ 57 ≤ addr.toNat || inPort addr.toNat then .prot
    else if permitted e.pte n then .ok (entryAddr e.pte + (addr.toNat - e.va)) s.mem else .prot
  | none => s.translate root addr n
/-- The memory after the first write through the leaf that an access with this old translation, or without one, goes through. -/
def State.dirtyBy (s : State) (old : Option TlbEntry) (root : Addr) (va : Nat) : Store := if old.isSome then s.mem else dirtied s.mem root va
/-- The walker marks the leaves of pages that are about to be written (R285). -/
def State.dirtyPages (s : State) (root : Addr) (vas : List Nat) : State := { s with mem := vas.foldl (fun m a => dirtied m root a) s.mem }
/-- Translates an address through a TLB of a core. -/
def State.xlat (s : State) (c : CoreId) (u : TlbUnit) (root : Addr) (addr : Word) (n : Need) : Xlat :=
  s.xlatBy (s.oldPage c u root addr.toNat) root addr n
/-- The translation of an address enters a TLB that does not hold it. A walk that would fault leaves no entry (R156). -/
def State.keepTlb (s : State) (c : CoreId) (u : TlbUnit) (root : Addr) (va : Nat) : State :=
  match (s.core c).tlbAt u root va, walk s.mem root va with
  | none, .page _ pte size _ => s.modCore c (·.fillTlb ⟨u, root, va / size * size, size, plainPte pte⟩)
  | _, _ => s
/-- A walk for an access with these needs would find its page. -/
def State.mayWalk (s : State) (root : Addr) (va : Nat) (n : Need) : Bool :=
  match s.translate root (BitVec.ofNat 64 va) n with
  | .ok _ _ => true
  | _ => false
/-- A stream that has entered the last quarter of a page: the TLB walks its next page, and a walk that would fault the stream leaves
no entry (R156). -/
def State.walkAhead (s : State) (c : CoreId) (u : TlbUnit) (root : Addr) (va : Nat) (n : Need) : State :=
  match (s.core c).tlbAt u root va with
  | some e => if 4 * (va - e.va) ≥ 3 * e.size && s.mayWalk root (e.va + e.size) n then s.keepTlb c u root (e.va + e.size) else s
  | none => s
def State.inOld (s : State) (d : DieId) (root : Addr) (va : Nat) : Option TlbEntry :=
  let k := s.dies[d.val]
  oldEntry s.mem (tlbFind k.inTlb .inbound root va) (192 + d.val) k.time.toNat root va
/-- Translates an address of an inbound request through the inbound TLB of the base die where it comes in (R403), log 50. -/
def State.inXlat (s : State) (d : DieId) (root : Addr) (addr : Word) (n : Need) : Xlat := s.xlatBy (s.inOld d root addr.toNat) root addr n
/-- The translation of an address enters the inbound TLB of a die that does not hold it. -/
def State.keepIn (s : State) (d : DieId) (root : Addr) (va : Nat) : State :=
  let k := s.dies[d.val]
  match tlbFind k.inTlb .inbound root va, walk s.mem root va with
  | none, .page _ pte size _ =>
    { s with dies := s.dies.set d.val { k with inTlb := tlbPut k.inTlb ⟨.inbound, root, va / size * size, size, plainPte pte⟩ } }
  | _, _ => s
/-- Translations are dropped (R287). -/
def CoreSt.dropTlb (k : CoreSt) (p : TlbEntry → Bool) : CoreSt := { k with tlb := k.tlb.filter fun e => !p e }

/-! ## Frames (R282) and errors of device memory (R280) -/

def maps : Nat := 64
/-- The clear of a frame is over: its unscrubbed bit is cleared and its map released (R282). -/
def HbmSt.cleared (h : HbmSt) (f : Nat) : HbmSt :=
  { h with scrubbed := markPut h.scrubbed f true, clearing := h.clearing.filter (·.1 != f) }
/-- A frame takes a map of its stack. With all 64 in use it waits until one is released: the model ends the oldest clear, log 72. -/
def HbmSt.takeMap (h : HbmSt) (f : Nat) (ls : List Nat) : HbmSt :=
  let mine := h.clearing.filter fun c => c.1 / 2 ^ 20 == f / 2 ^ 20
  let h1 := match mine with
    | c :: _ => if mine.length < maps then h else h.cleared c.1
    | [] => h
  { h1 with clearing := h1.clearing ++ [(f, ls)] }
/-- The first access to an unscrubbed frame starts its clear; a write marks its lines cleared (R282). -/
def HbmSt.touch (h : HbmSt) (pa n : Nat) (write : Bool) : HbmSt :=
  let f := pa / frameBytes
  if markGet h.scrubbed f then h
  else
    let ls := if write then (linesOf pa n).map (· / 64) else []
    match h.clearing.find? (·.1 == f) with
    | none => h.takeMap f ls.eraseDups
    | some (_, old) =>
      { h with clearing := h.clearing.map fun c => if c.1 == f then (f, (old ++ ls).eraseDups) else c }
/-- F bits of the lines of a range hold an uncorrectable error. -/
def HbmSt.badF (h : HbmSt) (pa n : Nat) : Bool := (linesOf pa n).any fun l => h.ueF.contains (l / 64)
/-- The poison bit of a line of a range does. -/
def HbmSt.badPoison (h : HbmSt) (pa n : Nat) : Bool := (linesOf pa n).any fun l => h.ueP.contains (l / 64)
/-- One of the two does, for an access that needs both. -/
def HbmSt.badMeta (h : HbmSt) (pa n : Nat) : Bool := h.badF pa n || h.badPoison pa n
/-- The data of a line of a range were struck, and no clean line has been written whole since. -/
def State.badData (s : State) (pa n : Nat) : Bool := (linesOf pa n).any fun l => s.hbm.ueD.contains (l / 64) && s.mem.poisoned l
/-- The line holds what has been written; an uncleared line of an unscrubbed frame reads as clean zeros (R282). -/
def HbmSt.live (h : HbmSt) (pa : Nat) : Bool :=
  markGet h.scrubbed (pa / frameBytes) || h.clearing.any fun c => c.1 == pa / frameBytes && c.2.contains (pa / 64)
/-- Translations of the inbound TLBs are dropped (R403). -/
def State.dropIn (s : State) (p : TlbEntry → Bool) : State :=
  { s with dies := s.dies.map fun k => { k with inTlb := k.inTlb.filter fun e => !p e } }
/-- Translations are dropped at every core, and from the inbound TLBs. -/
def State.dropTlb (s : State) (p : TlbEntry → Bool) : State :=
  (if s.cores.any fun k => k.tlb.any p then { s with cores := s.cores.map (·.dropTlb p) } else s).dropIn p
/-- Frames leave their owner: their contents read as clean zeros, their unscrubbed bits are set (R281), and no TLB maps them any more. -/
def State.unscrubRange (s0 : State) (first count : Nat) : State :=
  let s := s0.dropTlb fun e => entryAddr e.pte / frameBytes < first + count && first < (entryAddr e.pte + e.size) / frameBytes
  let out (f : Nat) : Bool := f < first || first + count ≤ f
  let lines (l : List Nat) : List Nat := l.filter fun n => out (n / 1024)
  { s with mem := s.mem.clear (first * frameBytes) (count * frameBytes)
           hbm := { s.hbm with scrubbed := s.hbm.scrubbed.filter out, clearing := s.hbm.clearing.filter fun q => out q.1
                               ueF := lines s.hbm.ueF, ueP := lines s.hbm.ueP, ueD := lines s.hbm.ueD } }
def State.unscrub (s : State) (frame : Nat) : State := s.unscrubRange frame 1

/-! ## Segments that are present (R139, R144) -/

def granule : Nat := 4096
def Seg.bytes (g : Seg) : Nat := granule * (g.len.toNat + 1)
def Context.seg? (k : Context) (name : BitVec 16) : Option Seg := k.segs.find? (·.name == name)
def Context.modSeg (k : Context) (name : BitVec 16) (f : Seg → Seg) : Context :=
  { k with segs := k.segs.map fun g => if g.name == name then f g else g }
/-- A present segment of a context; the firmware context's are those of its directory (R133). -/
def CoreSt.seg? (k : CoreSt) (x : Ctx) (name : BitVec 16) : Option Seg :=
  match x with
  | .fw => k.fwDir.find? (·.name == name)
  | _ => (k.ctx x).seg? name
def CoreSt.modSeg (k : CoreSt) (x : Ctx) (name : BitVec 16) (f : Seg → Seg) : CoreSt :=
  match x with
  | .fw => { k with fwDir := k.fwDir.map fun g => if g.name == name then f g else g }
  | _ => k.modCtx x (·.modSeg name f)
def Seg.isAcc (g : Seg) : Bool := g.cls == 2
/-- Physical byte of an offset of a present segment in its store. -/
def Seg.phys (g : Seg) (off : Nat) : Nat := granule * g.base.toNat + off

/-! ## Places -/

/-- The store and the byte index that a place means; none for a segment that is not present. -/
def State.storeOf (s : State) : Place → Option (Store × Nat)
  | .dev pa => some (s.mem, pa)
  | .seg c x name off =>
    let k := s.core c
    (k.seg? x name).map fun g => (if g.isAcc then k.astore else k.lstore, g.phys off)
  | .win d a => some (s.dies[d.val].window, a)
/-- Puts back the store of a place after a write of `n` bytes, marking written granules dirty (R145). -/
def State.putStore (s : State) (p : Place) (n : Nat) (m : Store) : State :=
  match p with
  | .dev pa => { s with mem := m, hbm := s.hbm.touch pa n true }
  | .win d _ => { s with dies := s.dies.set d.val { s.dies[d.val] with window := m } }
  | .seg c x name off => s.modCore c fun k =>
    match k.seg? x name with
    | none => k
    | some g =>
      let first := off / granule
      let last := (off + n - 1) / granule
      let k := if g.isAcc then { k with astore := m } else { k with lstore := m }
      k.modSeg x name fun g => { g with
        dirty := (List.range (last + 1 - first)).foldl (fun d i => markPut d (first + i) true) g.dirty }
/-- Applies a change of `n` bytes, F or poison bits to the store of a place. -/
def State.modPlace (s : State) (p : Place) (n : Nat) (f : Store → Nat → Store) : State :=
  match s.storeOf p with
  | some (m, a) => s.putStore p n (f m a)
  | none => s
def State.readPlace (s : State) (p : Place) (n : Nat) : Nat :=
  match s.storeOf p with
  | some (m, a) => m.read a n
  | none => 0
def State.poisonPlace (s : State) (p : Place) (n : Nat) : Bool :=
  match s.storeOf p with
  | some (m, a) => m.anyPoison a n
  | none => false
def State.writePlace (s : State) (p : Place) (n v : Nat) : State := s.modPlace p n fun m a => m.write a n v
/-- Plain write of whole or part lines by R68: a line written whole by clean data is cleared, a line that takes poison is
poisoned. -/
def State.fPlace (s : State) (p : Place) (n : Nat) (v : Bool) : Bool :=
  match s.storeOf p with
  | some (m, a) => m.allF a n v
  | none => true
def State.setFPlace (s : State) (p : Place) (n : Nat) (v : Bool) : State := s.modPlace p n fun m a => m.setFs a n v
/-- F bits of the words of a place, the lowest word in bit 0 (R323). -/
def State.probePlace (s : State) (p : Place) (n : Nat) : Nat :=
  match s.storeOf p with
  | some (m, a) => pack ((wordsOf a n).map fun w => (1, (m.fbit w).toNat))
  | none => 0
/-- The F bits of bytes of device memory hold an uncorrectable error. -/
def State.badFPlace (s : State) (p : Place) (n : Nat) : Bool :=
  match p with
  | .dev pa => s.hbm.badF pa n
  | _ => false
/-- An access through a TLB has found its page: the translation is kept, the walker's marks are made, the frame is touched. -/
def State.tookPage (s : State) (c : CoreId) (u : TlbUnit) (root : Addr) (va : Nat) (m : Store) (pa n : Nat) (write : Bool) : State :=
  { s.keepTlb c u root va with mem := m, hbm := s.hbm.touch pa n write }

/-- A core's port spends a token on an access to device memory (R366); that an access is one request is the model's choice, log 11. -/
def State.spendToken (s : State) (c : CoreId) : State := s.modCore c fun k => { k with tokens := k.tokens - 1, drew := true }

/-! ## Barrier objects reached by stores (R269) -/

def Context.bar? (k : Context) (name : BitVec 16) (off : Nat) : Option BarObj :=
  k.bars.find? fun b => b.name == name && b.off == off
/-- A scalar or memory-extended store reaches bytes of a segment: objects there are undefined until their bar.init (R269). -/
def State.taint (s : State) (p : Place) (n : Nat) : State :=
  match p with
  | .seg c x name off => s.modCtx c x fun k => { k with bars := k.bars.map fun b =>
      if b.name == name && b.off < off + n && off < b.off + 16 then { b with tainted := true } else b }
  | _ => s

end Sys2Proof.Machine
end

