-- ==== Sys2Proof/Machine/Segments.lean ====
section
/-! DEFINITION. Named segments (R140-R155): resolving handles, the directory, touching, Chervil's room making, wounds. -/
namespace Sys2Proof.Machine

/-! ## Page faults (R288) -/

def pageOf (va : Addr) : Nat := va.toNat / frameBytes
/-- A page fault is recorded, once for a page, to be served by the resident service or the host; none where hardware mode
gives PROT (R288). -/
def State.pageAbsent (s : State) (root va : Addr) (part : PartId) (pte : Nat) : Option State :=
  let host := (s.parts[part.toNat]).split.getLsbD 1
  let unit : Addr := BitVec.ofNat 57 (pageOf va * frameBytes)
  if !host && !bitOf pte 1 && !bitOf pte 2 then none
  else if s.hbm.faults.any fun f => f.root == root && f.va == unit then some s
  else some { s with hbm := { s.hbm with faults := s.hbm.faults ++ [⟨root, unit, part, host⟩] } }

/-- A wait of the strand for a page, by its own word or by a command: is it noted, and has the host refused it. -/
def PageWait.isOf (q : PageWait) (serial : Option Nat) (va : Nat) : Bool := q.serial == serial && pageOf q.va == va / frameBytes
def StrandSt.awaitPage (t : StrandSt) (serial : Option Nat) (va : Addr) : StrandSt :=
  if t.pages.any (·.isOf serial va.toNat) then t else { t with pages := t.pages ++ [⟨serial, va, false⟩] }
def StrandSt.pageRefused (t : StrandSt) (serial : Option Nat) (va : Nat) : Bool := t.pages.any fun q => q.isOf serial va && q.refused
/-- The waits of the strand's own word, or of a command, are over. -/
def StrandSt.dropPages (t : StrandSt) (serial : Option Nat) : StrandSt := { t with pages := t.pages.filter (·.serial != serial) }
/-- The host has refused the page that an access of strand `p` waited for (R288). -/
def State.refusedAt (s : State) (c : CoreId) (x : Ctx) (p : Strand) (serial : Option Nat) (va : Nat) : Bool :=
  (s.strand c x p).pageRefused serial va
/-- The same of the issuing word. -/
def State.pageRefused (s : State) (va : Addr) : Bool := s.me.pageRefused none va.toNat
def State.clearRefused (s : State) : State := s.modMe (·.dropPages none)
/-- An access of strand `p` finds an absent page: it waits for it. -/
def State.awaitPage (s : State) (c : CoreId) (x : Ctx) (p : Strand) (serial : Option Nat) (va : Addr) (pte : Nat) : Option State :=
  (s.pageAbsent (s.ctx c x).root va (s.ctx c x).part pte).map fun s => s.modStrand c x p (·.awaitPage serial va)
/-- The same for the issuing word. -/
def State.awaitMine (s : State) (va : Addr) (pte : Nat) : Option State := s.awaitPage s.cur.core s.cur.ctx s.cur.strand none va pte

/-! ## Handles and the directory (R142, R143) -/

/-- The name that a handle resolves to; none where it is unbound or its name is at or above DIRCNT, which faults SEGFAIL. -/
def resolveHandle (k : Context) (x : Ctx) (h : BitVec 6) : Option (BitVec 16) :=
  let n := k.sg[h.toNat]
  if n == 0xFFFF then none
  else if x != .fw && n.toNat ≥ k.res.dircnt.toNat then none
  else some n
/-- %eval of SEGFAIL: name in bits 15:0, handle in bits 21:16 (R60). -/
def segEval (name : BitVec 16) (h : BitVec 6) : Word := name.setWidth 64 ||| h.setWidth 64 <<< 16

/-- Virtual address of a directory entry (R142). -/
def dirAddr (k : Context) (name : BitVec 16) : Word := k.res.dirbase.setWidth 64 <<< 4 + name.setWidth 64 <<< 4
/-- A directory entry as an absent segment. -/
def segOfEntry (name : BitVec 16) (e : Nat) : Seg :=
  { name := name, cls := BitVec.ofNat 2 (e / 2 ^ 54), len := BitVec.ofNat 10 (e / 2 ^ 56), tile := BitVec.ofNat 16 (e / 2 ^ 66)
    home := BitVec.ofNat 57 (e % 2 ^ 45 * granule), base := 0, pins := 0, head := BitVec.ofNat 23 (e / 2 ^ 82)
    tail := BitVec.ofNat 23 (e / 2 ^ 105), dirty := [], touched := 0, moving := none, stuck := false }

/-- What describes a segment. -/
inductive Desc where
  | found (g : Seg)
  /-- The directory entry cannot be reached: PROT, an error, or a page the host refused. -/
  | fails
  /-- Its page is being served. -/
  | page (va : Addr) (pte : Nat)
  deriving DecidableEq, Repr

/-- The segment of a name: as the core holds it while it is present, else as its directory entry says. A firmware name that
the firmware directory does not list, or of class ACC, fails (R133). -/
def State.segDesc (s : State) (c : CoreId) (x : Ctx) (name : BitVec 16) : Desc :=
  let k := s.core c
  match k.seg? x name with
  | some g => if x == .fw && g.isAcc then .fails else .found g
  | none =>
    if x == .fw then .fails
    else
      let m := k.ctx x
      let a := dirAddr m name
      match s.translate m.root a needRd with
      | .prot => .fails
      | .absent pte => .page (addr57 a) pte
      | .ok pa _ => if s.hbm.badMeta pa 16 || s.badData pa 16 then .fails else .found (segOfEntry name (s.mem.read pa 16))

/-! ## Quotas and frames (R140, R151) -/

def Seg.granules (g : Seg) : Nat := g.len.toNat + 1
/-- Granules of a store that a context's segments occupy. -/
def Context.usedGranules (k : Context) (acc : Bool) : Nat :=
  ((k.segs.filter (·.isAcc == acc)).map Seg.granules).sum
def Context.pinnedGranules (k : Context) (acc : Bool) : Nat :=
  ((k.segs.filter fun g => g.isAcc == acc && g.pins > 0).map Seg.granules).sum
def Context.quota (k : Context) (acc : Bool) : Nat := if acc then k.res.aq.toNat else k.res.lq.toNat
def Context.reserve (k : Context) (acc : Bool) : Nat := if acc then k.res.ar.toNat else k.res.lr.toNat
/-- `Room` of R129. -/
def Context.room (k : Context) (acc : Bool) : Nat := k.quota acc - k.pinnedGranules acc
/-- Granules of a store that task segments may occupy: all of accumulator memory, and local store below the firmware reserve
of 32 granules (R133; that it lies at the top is a DESIGN CHOICE, log 20). -/
def frameLimit (acc : Bool) : Nat := if acc then 256 else 992
/-- Where a context's segments are placed, first granule and end: its quota from the bottom of the store for task context 0, from the
top for task context 1. The two never overlap (R140), so neither takes what is kept for the other, log 20. -/
def CoreSt.frameWindow (k : CoreSt) (x : Ctx) (acc : Bool) : Nat × Nat :=
  match x with
  | .t1 => (frameLimit acc - (k.ctx .t1).quota acc, frameLimit acc)
  | _ => (0, min (frameLimit acc) ((k.ctx x).quota acc))
/-- The frames that a segment takes: its own, and those that a relocation is to bring it to (R145). -/
def Seg.takes (g : Seg) : List (Nat × Nat) :=
  (g.base.toNat, g.granules) :: match g.moving with
    | some (.relocate b) => [(b.toNat, g.granules)]
    | _ => []
/-- Frames of a store in use by both task contexts. -/
def CoreSt.frames (k : CoreSt) (acc : Bool) : List (Nat × Nat) :=
  ((k.ctxs.t0.segs ++ k.ctxs.t1.segs).filter (·.isAcc == acc)).flatMap Seg.takes
/-- Saved tasks whose segments are still in frames of a core (R148). -/
def State.savedAt (s : State) (c : CoreId) : List Image := (s.pkg.saved ++ s.pkg.images).filter fun i => i.core == c && !i.k.segs.isEmpty
/-- Frames of a store in use: by both task contexts, and by the segments of saved tasks that stay (R148). -/
def State.frames (s : State) (c : CoreId) (acc : Bool) : List (Nat × Nat) :=
  (s.core c).frames acc ++
    (((s.savedAt c).flatMap fun i => i.k.segs).filter (·.isAcc == acc)).flatMap Seg.takes
/-- `need` granules from a base on are free and within a window. -/
def frameFree (occ : List (Nat × Nat)) (win : Nat × Nat) (base need : Nat) : Bool :=
  win.1 ≤ base && base + need ≤ win.2 && occ.all fun f => base + need ≤ f.1 || f.1 + f.2 ≤ base
/-- The lowest base of a window at which `need` granules are free together. -/
def firstFit (occ : List (Nat × Nat)) (win : Nat × Nat) (need : Nat) : Option Nat :=
  let cands := (win.1 :: occ.map fun f => f.1 + f.2).filter fun b => frameFree occ win b need
  cands.foldl (fun r b => match r with
    | none => some b
    | some a => some (Nat.min a b)) none

/-! ## Tickets, holding and wounding (R149-R153) -/

/-- Ticket `a` is older than ticket `b` (R150). -/
def older (a b : BitVec 32) : Bool := 1 ≤ (b - a).toNat && (b - a).toNat ≤ 2 ^ 31 - 1

/-- Names that a memory-extended command holds: its segment while it waits on an F bit (R149). -/
def MeCmd.hold? (c : MeCmd) : List (BitVec 16) :=
  match c.phase with
  | .queued => []
  | _ => if c.touched then [c.name] else []
/-- A vector word's stream write on its way to the segment (R204); until it lands the segment stays where it is, log 21. -/
def Context.landing? (k : Context) (name : BitVec 16) : Bool :=
  (k.strand .X).land.any fun e => match e.what with
    | .elems ws => ws.any fun w => w.seg == some name
    | _ => false
/-- A command of the context holds the segment. -/
def Context.held? (k : Context) (name : BitVec 16) : Bool :=
  k.mx.any (·.holds.contains name) || k.copyL.any (·.holds.contains name) || k.copyS.any (·.holds.contains name) ||
    k.fabL.any (·.holds.contains name) || k.fabS.any (·.holds.contains name) || k.landing? name ||
    k.meL.any (·.hold?.contains name) || k.meS.any (·.hold?.contains name)

/-- A command of this tag is younger than a toucher with this ticket; a local access is older than the command that takes its
ticket (R150). -/
def Tag.youngerThan (t : Tag) (ticket : BitVec 32) (isAccess : Bool) : Bool :=
  match t.ticket with
  | none => false
  | some u => !t.fw && (older ticket u || (isAccess && u == ticket))
/-- The same of a local access, against a toucher `u`: of two accesses of one ticket the one issued later is younger (R150). -/
def MeCmd.youngerThan (q : MeCmd) (u : Toucher) (isAccess : Bool) : Bool :=
  match q.tag.ticket with
  | none => false
  | some t => !q.tag.fw && (older u.ticket t || (isAccess && t == u.ticket && u.order < 2 * q.tag.serial))
/-- Wound(y): the command drops its holds and goes back to its place in its queue (R151). -/
def woundMx (p : MxCmd → Bool) (c : MxCmd) : MxCmd :=
  if p c && c.phase != .committed then { c with holds := [], phase := .queued } else c
def woundCopy (p : CopyCmd → Bool) (c : CopyCmd) : CopyCmd :=
  if p c && c.phase != .committed then { c with holds := [], phase := .queued } else c
def woundMe (p : MeCmd → Bool) (c : MeCmd) : MeCmd :=
  if p c && c.touched then { c with phase := .queued, touched := false } else c
/-- Wounds every command younger than the toucher that holds a segment of the context (R151). -/
def Context.woundYounger (k : Context) (u : Toucher) (isAccess : Bool) : Context :=
  { k with mx := k.mx.map (woundMx fun c => !c.holds.isEmpty && c.tag.youngerThan u.ticket isAccess)
           copyL := k.copyL.map (woundCopy fun c => !c.holds.isEmpty && c.tag.youngerThan u.ticket isAccess)
           copyS := k.copyS.map (woundCopy fun c => !c.holds.isEmpty && c.tag.youngerThan u.ticket isAccess)
           meL := k.meL.map (woundMe fun c => !c.hold?.isEmpty && c.youngerThan u isAccess)
           meS := k.meS.map (woundMe fun c => !c.hold?.isEmpty && c.youngerThan u isAccess) }
/-- Commands that a toucher could wound. R153 lists no fabric command: that one which holds its local segment is never wounded is the
model's choice, log 82. -/
def Context.anyWoundable (k : Context) (u : Toucher) (isAccess : Bool) : Bool :=
  k.mx.any (fun c => !c.holds.isEmpty && c.phase != .committed && c.tag.youngerThan u.ticket isAccess) ||
    k.copyL.any (fun c => !c.holds.isEmpty && c.phase != .committed && c.tag.youngerThan u.ticket isAccess) ||
    k.copyS.any (fun c => !c.holds.isEmpty && c.phase != .committed && c.tag.youngerThan u.ticket isAccess) ||
    k.meL.any (fun c => !c.hold?.isEmpty && c.youngerThan u isAccess) ||
    k.meS.any (fun c => !c.hold?.isEmpty && c.youngerThan u isAccess)
/-- The waiter is a bar.wait, not a queued command. -/
def Waiter.isBarrier (w : Waiter) : Bool :=
  match w.cond with
  | .phase _ => true
  | _ => false
/-- A wounded waiting access leaves the core's wait list (R317). -/
def CoreSt.dropWounded (k : CoreSt) (x : Ctx) : CoreSt :=
  { k with waitList := k.waitList.filter fun w => w.ctx != x || w.isBarrier ||
      ((k.ctx x).meL ++ (k.ctx x).meS).any fun c => c.tag.serial == w.serial && c.phase != .queued }

/-! ## Touching (R145, R149) -/

/-- What an access or command finds when it needs a segment. -/
inductive Touch where
  | ready (s : State) (g : Seg)
  | waits (s : State)
  | fails (s : State)

/-- Registers a toucher of an absent segment, once. -/
def Context.addTouch (k : Context) (t : Toucher) : Context :=
  if k.touch.any fun u => u.name == t.name && u.strand == t.strand && u.serial == t.serial then k
  else { k with touch := k.touch ++ [t] }
/-- Place of a toucher in the order of issue (R150). -/
def Context.touchOrder (k : Context) : Option Nat → Nat
  | some n => 2 * n
  | none => 2 * k.serial + 1
def Context.dropTouch (k : Context) (name : BitVec 16) (p : Strand) (serial : Option Nat) : Context :=
  { k with touch := k.touch.filter fun u => !(u.name == name && u.strand == p && u.serial == serial) }
/-- WaitResident: the segment is ready when it is resident; a push-out of it stops; an absent one is touched (R145). -/
def State.touchSeg (s : State) (c : CoreId) (x : Ctx) (p : Strand) (serial : Option Nat) (ticket : BitVec 32)
    (name : BitVec 16) : Touch :=
  let k := s.core c
  if (k.ctx x).touch.any fun u => u.name == name && u.strand == p && u.serial == serial && u.failed then
    .fails (s.modCtx c x (·.dropTouch name p serial))
  else match k.seg? x name with
    | some g =>
      if g.moving == some .recall then .waits (s.modCtx c x (·.addTouch ⟨name, p, serial, ticket, (k.ctx x).touchOrder serial, false⟩))
      else
        let s1 := (s.modCore c (·.modSeg x name fun g => { g with
          moving := if g.moving == some .pushOut then none else g.moving, touched := k.now })).modCtx c x
            (·.dropTouch name p serial)
        .ready s1 g
    | none =>
      if x == .fw then .fails s
      else .waits (s.modCtx c x (·.addTouch ⟨name, p, serial, ticket, (k.ctx x).touchOrder serial, false⟩))

/-- An access or command needs a segment whose directory entry lies in an absent page: it waits for the page like for the segment,
and ends when the host has refused the page (R146). -/
def State.touchPage (s : State) (c : CoreId) (x : Ctx) (p : Strand) (serial : Option Nat) (ticket : BitVec 32) (name : BitVec 16)
    (va : Addr) (pte : Nat) : Touch :=
  match s.touchSeg c x p serial ticket name with
  | .waits s1 => (match s1.pageAbsent (s.ctx c x).root va (s.ctx c x).part pte with
    | some s2 => .waits s2
    | none => .fails s)
  | t => t

/-! ## Chervil (R151) -/

/-- The least recently touched resident segment of a store that may be pushed out; ties to the lower base. -/
def Context.victim (k : Context) (acc : Bool) (name : BitVec 16) : Option Seg :=
  let vs := k.segs.filter fun g => g.isAcc == acc && g.pins == 0 && !k.held? g.name && g.moving == none && g.name != name &&
    !g.stuck
  vs.foldl (fun r g => match r with
    | none => some g
    | some b => if g.touched < b.touched || (g.touched == b.touched && g.base.toNat < b.base.toNat) then some g else some b)
    none
/-- The segment to relocate when free granules are not contiguous: the first movable one that fits lower in its context's window
(R145). -/
def State.compact? (s : State) (c : CoreId) (x : Ctx) (acc : Bool) : Option (BitVec 16 × Nat) :=
  let m := s.ctx c x
  (m.segs.filter fun g => g.isAcc == acc && g.pins == 0 && g.moving == none).findSome? fun g =>
    let occ := (s.frames c acc).filter (·.1 != g.base.toNat)
    match firstFit occ ((s.core c).frameWindow x acc) g.granules with
    | some b => if b < g.base.toNat then some (g.name, b) else none
    | none => none
/-- Changes a saved task's image. -/
def Image.same (i j : Image) : Bool :=
  i.pa == j.pa && i.core == j.core && i.sctx == j.sctx && i.k.task == j.k.task && i.k.launch == j.k.launch
def State.modImage (s : State) (i : Image) (f : Image → Image) : State :=
  let g (j : Image) : Image := if i.same j then f j else j
  { s with pkg := { s.pkg with saved := s.pkg.saved.map g, images := s.pkg.images.map g } }
/-- The segments of saved tasks that occupy frames of a store, with their images. -/
def State.stays (s : State) (c : CoreId) (acc : Bool) : List (Image × Seg) :=
  (s.savedAt c).flatMap fun i => (i.k.segs.filter (·.isAcc == acc)).map fun g => (i, g)
/-- The segment of a saved task that is pushed out for room in a window: the least recently touched; one at a time (R148). A pinned one
may leave as well, and its pin count with it, log 71. -/
def State.leaver (s : State) (c : CoreId) (acc : Bool) (win : Nat × Nat) : Option (Image × Seg) :=
  let l := (s.stays c acc).filter fun q => !q.2.stuck && q.2.base.toNat < win.2 && win.1 < q.2.base.toNat + q.2.granules
  match l.find? fun q => q.2.moving == some .pushOut with
  | some q => some q
  | none => l.foldl (fun r q => match r with
    | none => some q
    | some b => if q.2.touched < b.2.touched then some q else some b) none
/-- Ends every wait for a segment with SEGFAIL (R146). -/
def Context.failTouch (k : Context) (name : BitVec 16) : Context :=
  { k with touch := k.touch.map fun u => if u.name == name then { u with failed := true } else u }
/-- The toucher is a local access, a strand's own or a memory-extended one (R150). -/
def Context.isAccess (k : Context) : Option Nat → Bool
  | none => true
  | some n => (k.meL ++ k.meS).any (·.tag.serial == n)
/-- The oldest toucher that waits for a segment (R150). -/
def Context.oldestTouch (k : Context) (name : BitVec 16) : Option Toucher :=
  (k.touch.filter fun u => u.name == name && !u.failed).foldl (fun r u => match r with
    | none => some u
    | some b => if older u.ticket b.ticket || (u.ticket == b.ticket && k.isAccess u.serial &&
        (!k.isAccess b.serial || u.order < b.order)) then some u else some b) none

/-- The push-outs of a partition's segments are the host's to choose (R371). -/
def State.hostPicks (s : State) (p : PartId) : Bool := (s.parts[p.toNat]).split.getLsbD 0
def Context.adriftSeg? (k : Context) (name : BitVec 16) : Option (Seg × Store) := k.adrift.find? (·.1.name == name)
/-- A segment and its contents come into free granules of a core, and the touches of it end. -/
def State.settle (s : State) (c : CoreId) (x : Ctx) (g : Seg) (src : Store) (b : Nat) : State :=
  let g := { g with base := BitVec.ofNat 10 b, touched := (s.core c).now }
  (s.modCore c fun k => if g.isAcc then { k with astore := k.astore.paste (g.phys 0) g.bytes src }
    else { k with lstore := k.lstore.paste (g.phys 0) g.bytes src }).modCtx c x fun k =>
      { k with segs := k.segs ++ [g], adrift := k.adrift.filter (·.1.name != g.name), touch := k.touch.filter (·.name != g.name) }
/-- One round of MakeRoom for a segment that someone waits for (R151): starts the recall when there is room, else starts a
push-out or a relocation, wounds, asks the host in host-assisted mode (R371), or waits, also for a push-out on its way. -/
def State.makeRoom (s : State) (c : CoreId) (x : Ctx) (name : BitVec 16) : State :=
  let k := s.core c
  let m := k.ctx x
  match m.oldestTouch name with
  | none => s
  | some t => match m.seg? name with
    | some g => match g.moving with
      | some .recall => s
      | some .pushOut => s.modCtx c x fun m => { m.modSeg name (fun g => { g with moving := none }) with
          touch := m.touch.filter (·.name != name) }
      | _ => s.modCtx c x fun m => { m with touch := m.touch.filter (·.name != name) }
    | none => match (match m.adriftSeg? name with
        | some q => Desc.found q.1
        | none => s.segDesc c x name) with
      | .fails => s.modCtx c x (·.failTouch name)
      | .page va pte => (s.pageAbsent m.root va m.part pte).getD (s.modCtx c x (·.failTouch name))
      | .found g =>
        let acc := g.isAcc
        let need := g.granules
        let win := k.frameWindow x acc
        let ask (s : State) : State := s.modCtx c x fun m => { m with askHost := true }
        if need > m.room acc then s.modCtx c x (·.failTouch name)
        else if m.usedGranules acc + need ≤ m.quota acc then
          match firstFit (s.frames c acc) win need with
          | some b => match m.adriftSeg? name with
            | some q => s.settle c x q.1 q.2 b
            | none => s.modCtx c x fun m =>
              { m with segs := m.segs ++ [{ g with base := BitVec.ofNat 10 b, moving := some .recall, touched := k.now }] }
          | none => match s.leaver c acc win with
            | some (i, g) =>
              if g.moving == some .pushOut then s
              else if s.hostPicks i.k.part then ask s
              else s.modImage i fun j => { j with k := j.k.modSeg g.name fun g => { g with moving := some .pushOut } }
            | none => match s.compact? c x acc with
              | some (n2, b) => s.modCtx c x (·.modSeg n2 fun g => { g with moving := some (.relocate (BitVec.ofNat 10 b)) })
              | none => s
        else if m.segs.any fun g => g.isAcc == acc && g.moving == some .pushOut then s
        else match m.victim acc name with
          | some v =>
            if s.hostPicks m.part then ask s
            else s.modCtx c x (·.modSeg v.name fun g => { g with moving := some .pushOut })
          | none =>
            if m.anyWoundable t (m.isAccess t.serial) then
              (s.modCtx c x (·.woundYounger t (m.isAccess t.serial))).modCore c (·.dropWounded x)
            else s

end Sys2Proof.Machine
end

