-- ==== Sys2Proof/Machine/MeWords.lean ====
section
/-! DEFINITION. What a memory-extended word is (R47, R172-R176, R319-R327): its kind, width, address, permissions and condition, and
which bytes a queued one is to access. -/
namespace Sys2Proof.Machine

/-! ## What a memory-extended word does -/

inductive AtOp where
  | add | sub | and_ | or_ | xor_ | min_ | max_ | minn | maxn | xchg | cas | fadd | inc
  deriving DecidableEq, Repr
inductive MeKind where
  /-- Loads: waiting for F = 1, consuming. -/
  | load (wait cons : Bool)
  /-- Stores, by F/E mode code (R47). -/
  | store (fe : BitVec 3)
  | probe | setF
  | atomic (op : AtOp)
  | acq | rel
  | bind | unbind
  | prefetch
  deriving DecidableEq, Repr

/-- What a memory-extended word does; every other word is read as a prefetch, and never asked. -/
def meKind : WideWord → MeKind
  | .ldm _ => .load false false
  | .ldmWait _ => .load true false
  | .ldmCons _ => .load true true
  | .stm _ => .store 0
  | .stmFill _ => .store 3
  | .stmOvf _ => .store 4
  | .stmSete _ => .store 5
  | .feProbe _ => .probe
  | .feSet _ => .setF
  | .atAdd _ => .atomic .add
  | .atSub _ => .atomic .sub
  | .atAnd _ => .atomic .and_
  | .atOr _ => .atomic .or_
  | .atXor _ => .atomic .xor_
  | .atMin _ => .atomic .min_
  | .atMax _ => .atomic .max_
  | .atMinn _ => .atomic .minn
  | .atMaxn _ => .atomic .maxn
  | .atXchg _ => .atomic .xchg
  | .atCas _ => .atomic .cas
  | .atFadd _ => .atomic .fadd
  | .atInc _ => .atomic .inc
  | .acq _ => .acq
  | .rel _ => .rel
  | .syncBind _ => .bind
  | .syncUnbind _ => .unbind
  | _ => .prefetch
def MeCmd.kind (q : MeCmd) : MeKind := meKind q.word
def MeCmd.isLocal (q : MeCmd) : Bool := q.w.space == 1
/-- Bytes of the access. -/
def MeCmd.bytes (q : MeCmd) : Nat :=
  match q.kind with
  | .acq | .rel => 8
  | _ => 2 ^ q.w.width.toNat
/-- loc of R174: a segment offset for local forms, else an address. -/
def MeCmd.loc (q : MeCmd) : Word :=
  if q.isLocal then q.a + q.w.imm.setWidth 64 * BitVec.ofNat 64 q.bytes else q.a + imm12 q.w.imm
/-- Permissions (R286); D is set when the access is performed and writes (R285). -/
def MeCmd.need (q : MeCmd) : Need :=
  match q.kind with
  | .load _ cons => if cons then needRmw else needRd
  | .store _ | .setF => needFill
  | .atomic _ | .rel => needRmw
  | _ => needRd
def MeCmd.isRelease (q : MeCmd) : Bool := q.w.ord == 2 || q.kind == .rel
/-- Condition that the access waits for (R312, R314). -/
def MeCmd.cond (q : MeCmd) : Option Cond :=
  match q.kind with
  | .load true cons => some (if cons then .consume else .full)
  | .store 3 => some .empty
  | .acq => some (.version q.b)
  | _ => none

/-! ## The order of a strand's accesses to the same bytes (R131, R173) -/

/-- The command accesses memory. -/
def MeCmd.accesses (q : MeCmd) : Bool :=
  match q.kind with
  | .bind | .unbind | .prefetch => false
  | _ => true
def meets (a n b m : Nat) : Bool := a < b + m && b < a + n
/-- A queued access of strand `p` to bytes of a segment is to come before one that the strand makes now. -/
def Context.queuedLocal (k : Context) (p : Strand) (name : BitVec 16) (off n : Nat) : Bool :=
  (k.meQueue p).any fun q => q.accesses && q.isLocal && q.name == name && meets q.loc.toNat q.bytes off n
/-- The same of a device address; two addresses of one physical byte are the same byte. -/
def State.queuedDevice (s : State) (p : Strand) (va n : Nat) : Bool :=
  let same (q : MeCmd) : Bool := match walk s.mem s.here.root q.loc.toNat, walk s.mem s.here.root va with
    | .page _ _ _ a, .page _ _ _ b => meets a q.bytes b n
    | _, _ => false
  (s.here.meQueue p).any fun q => q.accesses && !q.isLocal && (meets q.loc.toNat q.bytes va n || same q)
/-- Loads of the strand that are outstanding (R105, R173): those that await a register, and memory-extended ones into g0. -/
def Context.loads (k : Context) (p : Strand) : Nat :=
  ((k.strand p).pend.filter (·.load)).length +
    ((k.meQueue p).filter fun q => (match q.kind with
      | .load _ _ => q.w.d == 0 && q.w.width != 4
      | _ => false)).length
/-- 16 loads are outstanding (R105). -/
def State.loadsFull (s : State) : Bool := s.here.loads s.cur.strand ≥ 16

end Sys2Proof.Machine
end

