-- ==== Sys2Proof/Machine/ScalarMem.lean ====
section
/-! DEFINITION. Scalar loads (R129-R131), what scalar loads and stores share, the queue port (R170, R171), the replay queue at issue
(R289). -/
namespace Sys2Proof.Machine

/-- A completion fault of the issuing word, due at the end of `n` pipeline cycles (R110, R112), with the register that stays
unwritten. -/
def State.landFaultOf (s : State) (d : GReg) (n : Nat) (interlocked store : Bool) (c : Cause) (eval : Word) : State :=
  (s.forget c).modMe fun t => { t with land := t.land ++
    [⟨n, !store && s.cur.sqd, false, 0, .fault ⟨c, s.cur.strand, eval⟩ interlocked (.g d)⟩] }
def State.landFault (s : State) (n : Nat) (interlocked store : Bool) (c : Cause) (eval : Word) : State :=
  s.landFaultOf 0 n interlocked store c eval

/-! ## Local accesses (R129) -/

inductive LocalRes where
  | fault (c : Cause) (eval : Word)
  | stalls (s : State)
  | ok (s : State) (p : Place)

/-- The checks of R129 on an access of `n` bytes at offset `off` of the segment bound to a handle; `serial` is the command
that makes it, none for a strand's own access. -/
def State.localAt (s : State) (c : CoreId) (x : Ctx) (p : Strand) (serial : Option Nat) (ticket : BitVec 32)
    (name? : Option (BitVec 16)) (h : BitVec 6) (off : Word) (n : Nat) : LocalRes :=
  match name? with
  | none => .fault .segfail (segEval 0xFFFF h)
  | some name =>
    if off.toNat % n != 0 then .fault .align off
    else match s.segDesc c x name with
      | .fails => .fault .segfail (segEval name h)
      | .page va pte => match s.touchPage c x p serial ticket name va pte with
        | .waits s1 => .stalls s1
        | _ => .fault .segfail (segEval name h)
      | .found g =>
        if off.toNat + n > g.bytes then .fault .segbound off
        else if ((s.core c).seg? x name).isNone && g.granules > (s.ctx c x).room g.isAcc then
          .fault .segfail (segEval name h)
        else match s.touchSeg c x p serial ticket name with
          | .fails _ => .fault .segfail (segEval name h)
          | .waits s1 => .stalls s1
          | .ready s1 _ => .ok s1 (.seg c x name off.toNat)

/-- Offset of a local access of the issuing strand. -/
def localOff (s : State) (w : SL) (n : Nat) : Word := s.rd w.a + w.imm.setWidth 64 * BitVec.ofNat 64 n
def State.myLocal (s : State) (w : SL) (n : Nat) : LocalRes :=
  s.localAt s.cur.core s.cur.ctx s.cur.strand none s.cur.ticket (resolveHandle s.here s.cur.ctx w.handle) w.handle (localOff s w n) n
/-- An earlier memory-extended access of the strand to the same bytes is still queued: the access waits (R131, R173). -/
def State.myLocalHeld (s : State) (w : SL) (n : Nat) : Bool :=
  match resolveHandle s.here s.cur.ctx w.handle with
  | some name => s.here.queuedLocal s.cur.strand name (localOff s w n).toNat n
  | none => false

/-- ldl (R129): every fault is a completion fault; the value lands at latency 4. The halves of 8 bytes are read in one step, log 69. -/
def loadLocal (i : ScalarWord) (w : SL) (n : Nat) (s : State) : State :=
  s.issue (.scalar i) [w.a] [w.d] fun s =>
    if s.myLocalHeld w n then s.stall .interlock
    else match s.myLocal w n with
    | .fault c e => s.landFaultOf w.d 4 false false c e
    | .stalls s1 => s1.stall .segment
    | .ok s1 p =>
      if s1.poisonPlace p n then s1.landFaultOf w.d 4 false false .poison (localOff s w n)
      else s1.landReg w.d 4 (sx (BitVec.ofNat 64 (s1.readPlace p n)) (8 * n))
def execLdlB (w : SL) (s : State) : Out := .next (loadLocal (.ldlB w) w 1 s)
def execLdlH (w : SL) (s : State) : Out := .next (loadLocal (.ldlH w) w 2 s)
def execLdlW (w : SL) (s : State) : Out := .next (loadLocal (.ldlW w) w 4 s)
def execLdlD (w : SL) (s : State) : Out := .next (loadLocal (.ldlD w) w 8 s)

/-! ## Queue registers (R170) -/

def queueDepth : Nat := 16
/-- Queue 0 qkl, 1 qlx, 2 qxs (R45). -/
def Context.queue (k : Context) (q : Nat) : List Word :=
  match q with
  | 0 => k.qkl | 1 => k.qlx | _ => k.qxs
def Context.setQueue (k : Context) (q : Nat) (l : List Word) : Context :=
  match q with
  | 0 => { k with qkl := l } | 1 => { k with qlx := l } | _ => { k with qxs := l }
/-- The head of a queue holds an uncorrectable error. -/
def Context.headBad (k : Context) (q : Nat) : Bool := k.qbad.contains (q, 0)
/-- Takes the head of a queue away. -/
def Context.popQueue (k : Context) (q : Nat) (rest : List Word) : Context :=
  { (k.setQueue q rest) with
    qbad := (k.qbad.filter (· != (q, 0))).map fun m => if m.1 == q then (q, m.2 - 1) else m }
/-- Pushes into qxs that the landing buffer of X still holds count against its depth (R205). -/
def Context.queuePending (k : Context) (q : Nat) : Nat :=
  if q == 2 then ((k.strand .X).land.filter fun e => match e.what with
    | .push _ => true
    | _ => false).length else 0
def queueFull (k : Context) (q : Nat) : Bool := (k.queue q).length + k.queuePending q ≥ queueDepth
/-- The strand that pops, and the strand that pushes, through the queue port (R171). -/
def queuePopper (q : Nat) : Strand := match q with | 0 => .L | 1 => .X | _ => .S
def queuePusher (q : Nat) : Strand := match q with | 0 => .K | 1 => .L | _ => .X

/-- Queue index of a port offset; none for an offset that is no queue's (R171). -/
def portQueue (va : Nat) : Option Nat :=
  if va = portBase then some 0 else if va = portBase + 8 then some 1 else if va = portBase + 16 then some 2 else none

/-! ## Global accesses (R130) -/

def globalAddr (s : State) (w : SG) : Word := s.rd w.a + imm12 w.imm
/-- An earlier store of the strand to the same page waits in the replay queue (R289). -/
def Context.replayHolds (k : Context) (p : Strand) (va : Nat) : Bool :=
  k.replay.any fun r => r.strand == p && r.writes.any fun e => e.addr / frameBytes == va / frameBytes

/-- ldg through the queue port: pops at issue; the value lands as an interlocked result that SQD does not kill (R171). -/
def portPop (w : SG) (n : Nat) (addr : Word) (s : State) : State :=
  match portQueue addr.toNat with
  | none => s.trap .prot addr
  | some q =>
    if n != 8 || s.cur.strand != queuePopper q then s.trap .queue (BitVec.ofNat 64 q)
    else if s.loadsFull then s.stall .interlock
    else match s.here.queue q with
      | [] => s.stall .queueReg
      | v :: rest =>
        let s1 := s.modHere (·.popQueue q rest)
        if s.here.headBad q then s1.landFault 1 true false .eccue (BitVec.allOnes 64)
        else if w.d = 0 then s1 else s1.modMe fun t => { t with pend := t.pend ++ [⟨w.d, some v, true, false, 0⟩] }
/-- stg through the queue port: pushes at issue (R171). -/
def portPush (w : SG) (n : Nat) (addr : Word) (s : State) : State :=
  match portQueue addr.toNat with
  | none => s.trap .prot addr
  | some q =>
    if n != 8 || s.cur.strand != queuePusher q then s.trap .queue (BitVec.ofNat 64 q)
    else if queueFull s.here q then s.stall .queueReg
    else s.modHere fun k => k.setQueue q (k.queue q ++ [s.rd w.d])

/-- ldg (R130); the halves of 8 bytes are read in one step, log 69. -/
def loadGlobal (i : ScalarWord) (w : SG) (n : Nat) (s : State) : State :=
  s.issue (.scalar i) [w.a] [w.d] fun s =>
    let addr := globalAddr s w
    if inPort addr.toNat then portPop w n addr s
    else if addr.toNat % n != 0 then s.trap .align addr
    else if s.loadsFull || s.queuedDevice s.cur.strand addr.toNat n then s.stall .interlock
    else if s.here.replayHolds s.cur.strand addr.toNat then s.stall .page
    else match s.xlat s.cur.core .scalar s.here.root addr needRd with
      | .prot => s.landFault 1 true false .prot addr
      | .absent pte =>
        if s.pageRefused (addr57 addr) then s.clearRefused.landFault 1 true false .page addr
        else match s.awaitMine (addr57 addr) pte with
          | none => s.landFault 1 true false .prot addr
          | some s1 => s1.stall .page
      | .ok pa m =>
        let s1 := (s.tookPage s.cur.core .scalar s.here.root addr.toNat m pa n false).spendToken s.cur.core
        if s.hbm.badPoison pa n then s1.landFault 1 true false .eccue addr
        else if m.anyPoison pa n then s1.landFault 1 true false .poison addr
        else s1.answer w.d (sx (BitVec.ofNat 64 (m.read pa n)) (8 * n)) true

/-- Puts a store whose page faults into the replay queue (R289). -/
def State.parkStore (s : State) (va : Addr) (n v : Nat) : State :=
  s.modHere fun k => { k with replay := k.replay ++ [⟨s.cur.strand, va, 0, false, [⟨none, va.toNat, n, v, 0, 0, false⟩], none⟩] }
def replayDepth : Nat := 16
def execLdgB (w : SG) (s : State) : Out := .next (loadGlobal (.ldgB w) w 1 s)
def execLdgH (w : SG) (s : State) : Out := .next (loadGlobal (.ldgH w) w 2 s)
def execLdgW (w : SG) (s : State) : Out := .next (loadGlobal (.ldgW w) w 4 s)
def execLdgD (w : SG) (s : State) : Out := .next (loadGlobal (.ldgD w) w 8 s)
end Sys2Proof.Machine
end

