-- ==== Sys2Proof/Machine/Commands.lean ====
section
/-! DEFINITION. What all queued work shares: raising completion faults (R112, R162), writing elements (R68, R204), landing
results (R103, R204, R205), tags and stamps of commands (R160, R194), discarding (R163), and when the accesses that a fence,
an exit or a join waits for are performed (R101, R116, R128). -/
namespace Sys2Proof.Machine

/-! ## Completion faults -/

/-- A completion fault found now: due at the strand's next bundle boundary; while the strand stands in a trap it joins the
late-fault queue (R112). -/
def StrandSt.raise (t : StrandSt) (f : FaultRec) : StrandSt :=
  match t.life with
  | .trapped => { t with lateq := t.lateq ++ [f] }
  | .ended => t
  | _ => { t with due := t.due ++ [f] }
def State.raise (s : State) (c : CoreId) (x : Ctx) (p : Strand) (cause : Cause) (slot : Strand) (eval : Word) : State :=
  s.modStrand c x p (·.raise ⟨cause, slot, eval⟩)

/-! ## Writing elements -/

/-- Bytes of a place after part of one byte is replaced (T2 and F4 elements, R67). -/
def replaceBits (old val bit width : Nat) : Nat :=
  old % 2 ^ bit + val % 2 ^ width * 2 ^ bit + old / 2 ^ (bit + width) * 2 ^ (bit + width)
def State.writeElem (s : State) (p : Place) (e : ElemWrite) : State :=
  if e.width = 0 then s.writePlace p e.bytes e.val
  else s.writePlace p 1 (replaceBits (s.readPlace p 1) e.val e.bit e.width)

/-- The line that holds a place. -/
def Place.line : Place → Place
  | .dev pa => .dev (pa / 64 * 64)
  | .seg c x name off => .seg c x name (off / 64 * 64)
  | .win d a => .win d (a / 64 * 64)
/-- Byte offset of a place in its line. -/
def Place.inLine : Place → Nat
  | .dev pa => pa % 64
  | .seg _ _ _ off => off % 64
  | .win _ a => a % 64
/-- Bits of a line that an element covers: first bit and number. -/
def ElemWrite.span (e : ElemWrite) (p : Place) : Nat × Nat :=
  if e.width = 0 then (8 * p.inLine, 8 * e.bytes) else (8 * p.inLine + e.bit, e.width)
/-- The elements cover all 512 bits of a line. -/
def coversLine (ws : List (Place × ElemWrite)) : Bool :=
  (ws.map fun w => (w.2.span w.1).2).sum ≥ 512 &&
    (List.range 512).all fun b => ws.any fun w => (w.2.span w.1).1 ≤ b && b < (w.2.span w.1).1 + (w.2.span w.1).2
/-- Poison of the written lines (R68): a line that takes a poisoned element is poisoned; one written whole by clean data is
cleared; any other keeps its bit. -/
def State.poisonLines (s : State) (ws : List (Place × ElemWrite)) : State :=
  (ws.map (·.1.line)).eraseDups.foldl (fun s l =>
    let mine := ws.filter (·.1.line == l)
    if mine.any (·.2.poison) then s.modPlace l 64 fun m a => m.setPoison a true
    else if coversLine mine then s.modPlace l 64 fun m a => m.setPoison a false
    else s) s
/-- Plain writes of elements at their places, with their poison; F bits unchanged. -/
def State.writeElems (s : State) (ws : List (Place × ElemWrite)) : State :=
  (ws.foldl (fun s w => s.writeElem w.1 w.2) s).poisonLines ws

/-- Where an element's write goes now. -/
inductive ElemAt where
  | at_ (p : Place)
  | absent (pte : Nat)
  | fails (c : Cause)
/-- Place of an element, reached through a TLB; the walker's marks go into the state. `needF` says that the write changes F bits. -/
def State.elemPlace (s : State) (c : CoreId) (x : Ctx) (u : TlbUnit) (needF : Bool) (e : ElemWrite) : State × ElemAt :=
  match e.seg with
  | some name => (s, .at_ (.seg c x name e.addr))
  | none =>
    let root := (s.ctx c x).root
    match s.xlat c u root (BitVec.ofNat 64 e.addr) needWr with
    | .ok pa m =>
      if s.hbm.badPoison pa e.bytes || (needF && s.hbm.badF pa e.bytes) then (s, .fails .eccue)
      else ({ (s.keepTlb c u root e.addr).spendToken c with mem := m }, .at_ (.dev pa))
    | .absent pte => (s, .absent pte)
    | .prot => (s, .fails .prot)

/-- Splits element writes into those whose place is there, those whose page is absent, and those that fail. -/
def State.splitElems (s : State) (c : CoreId) (x : Ctx) (p : Strand) (u : TlbUnit) (checkReplay needF : Bool) :
    List ElemWrite → State × List (Place × ElemWrite) × List (ElemWrite × Nat) × List (ElemWrite × Cause)
  | [] => (s, [], [], [])
  | e :: r =>
    let behind := checkReplay && e.seg == none && (s.ctx c x).replayHolds p e.addr
    let (s1, place) := if behind then (s, .absent 2) else s.elemPlace c x u needF e
    let (s2, ok, ab, bad) := s1.splitElems c x p u checkReplay needF r
    match place with
      | .at_ q => (s2, (q, e) :: ok, ab, bad)
      | .absent pte => (s2, ok, (e, pte) :: ab, bad)
      | .fails cause => (s2, ok, ab, (e, cause) :: bad)

/-- Stream writes of a vector word of X land (R204): those to absent pages wait in the replay queue (R207, R289). Nothing is
done, and the entry stays, while that queue is full. -/
def State.landElems (s : State) (c : CoreId) (x : Ctx) (ws : List ElemWrite) : Option State :=
  let (s1, ok, ab, bad) := s.splitElems c x .X .vector true false ws
  let done : State := match bad with
    | [] => s1.writeElems ok
    | (e, cause) :: _ => (s1.writeElems ok).raise c x .X cause .X (BitVec.ofNat 64 e.addr)
  match ab with
  | [] => some done
  | (e, pte) :: _ =>
    if (s.ctx c x).replay.length ≥ replayDepth then none
    else
      let s2 := done
      let k := s.ctx c x
      let s3 := match s2.pageAbsent k.root (BitVec.ofNat 57 e.addr) k.part pte with
        | some t => t
        | none => s2
      some (s3.modCtx c x fun k => { k with
        replay := k.replay ++ [⟨.X, BitVec.ofNat 57 e.addr, 0, true, ab.map (·.1), none⟩] })

/-! ## Landing -/

/-- Poison bits of a vector register after its low `n` bits are written (R204): a lane group that takes poison is poisoned,
one written whole by clean data is cleared. -/
def groupPoison (old new : BitVec 8) (n : Nat) : BitVec 8 :=
  BitVec.ofNat 8 (((List.range 8).map fun g =>
    if new.getLsbD g || (old.getLsbD g && !(512 * (g + 1) ≤ n)) then 2 ^ g else 0).sum)
/-- The low `n` bits of a vector register replaced. -/
def VReg.put (r : VReg) (n : Nat) (v : BitVec 4096) (poison : BitVec 8) : VReg :=
  let m : BitVec 4096 := BitVec.ofNat 4096 (2 ^ n - 1)
  ⟨(r.val &&& ~~~m) ||| (v &&& m), groupPoison r.poison poison n⟩
/-- The effect of a landing entry without its tokens; none while it cannot be taken. -/
def State.landWhat (s : State) (c : CoreId) (x : Ctx) (p : Strand) (e : Landing) : Option State :=
  let s0 := s.modStrand c x p fun t => { t with sat := t.sat || e.sat }
  match e.what with
  | .reg d v => some (s0.modStrand c x p (·.write d v))
  | .bit d b v => some (s0.modStrand c x p (·.writeBit d b v))
  | .vec d n v po => some (s0.modCtx c x fun k => { k with v := k.v.set d.toNat (k.v[d.toNat].put n v po) })
  | .elems ws => s0.landElems c x ws
  | .push v => some (s0.modCtx c x fun k => { k with qxs := k.qxs ++ [v] })
  | .tokens => some s0
  | .fault f _ _ => some (s.modStrand c x p (·.raise f))
/-- LANDING: the entry's result is written, then its push-after tokens are pushed; what still waits for room stays behind as
an entry of its own (R103, R167, R169). -/
def State.landOne (s : State) (c : CoreId) (x : Ctx) (p : Strand) (e : Landing) : State × List Landing :=
  match s.landWhat c x p e with
  | none => (s, [e])
  | some s1 =>
    let (tok, left) := (s1.ctx c x).tokens.pushSome p e.push
    (s1.modCtx c x fun k => { k with tokens := tok }, if left = 0 then [] else [⟨0, false, false, left, .tokens⟩])
/-- One pipeline cycle of a strand (R102): every entry is one cycle nearer; completion faults that reach their cycle are due
at the next boundary (R112). -/
def StrandSt.cycle (t : StrandSt) : StrandSt :=
  let l := t.land.map fun e => { e with left := e.left - 1 }
  let ready := l.filterMap fun e => match e.what with
    | .fault f _ _ => if e.left = 0 then some f else none
    | _ => none
  { t with due := t.due ++ ready
           land := l.filter fun e => match e.what with
             | .fault _ _ _ => e.left != 0
             | _ => true }
/-- The strand has an entry at its cycle. -/
def StrandSt.landDue (t : StrandSt) : Option Landing := t.land.find? (·.left == 0)
def eraseLanding : List Landing → List Landing
  | [] => []
  | e :: r => if e.left == 0 then r else e :: eraseLanding r
/-- Lands the oldest entry that is at its cycle. -/
def State.landNext (s : State) (c : CoreId) (x : Ctx) (p : Strand) : State :=
  match (s.strand c x p).landDue with
  | none => s
  | some e =>
    let (s1, back) := (s.modStrand c x p fun t => { t with land := eraseLanding t.land }).landOne c x p e
    s1.modStrand c x p fun t => { t with land := back ++ t.land }
/-- Everything that an ending strand still has in its landing buffer is written; its faults are dropped (R116, R209). -/
def State.flushLanding (s : State) (c : CoreId) (x : Ctx) (p : Strand) : State :=
  let es := (s.strand c x p).land.filter fun e => match e.what with
    | .fault _ _ _ => false
    | _ => true
  let s0 := s.modStrand c x p fun t => { t with land := [] }
  let (s1, back) := es.foldl (fun (r : State × List Landing) e =>
    let (s, b) := r.1.landOne c x p e
    (s, r.2 ++ b)) (s0, [])
  s1.modStrand c x p fun t => { t with land := back }

/-! ## Tags and stamps (R150, R160, R194) -/

/-- The stamp of a command: all six levels, whichever strand enqueues it, log 69. -/
def Context.stamp (k : Context) : Vector LevelStamp 6 := k.lv.map fun l => ⟨l.active, l.run, l.index⟩
/-- The tag of a command that the issuing strand enqueues now. -/
def State.tag (s : State) (ticket sq : Bool) (pre : Pre) (cc inc : BitVec 4) : Tag :=
  { serial := s.here.serial + 1, strand := s.cur.strand, fw := s.cur.ctx == .fw
    ticket := if ticket then some s.here.ticket else none, stamp := s.here.stamp, sq := sq, push := pre.tok, cc := cc
    inc := inc }
/-- The counters that an enqueue advances. -/
def Context.enqueued (k : Context) (ticket : Bool) : Context :=
  { k with serial := k.serial + 1, ticket := if ticket then k.ticket + 1 else k.ticket }

/-! ## Discarding (R117, R163, R196) -/

/-- A matrix step, which reads nothing before its commit point, and mstat, which is discarded until it is written (R163, R241, R251). -/
def startsLate : WideWord → Bool
  | .mm _ | .mmSp _ | .mmTn _ | .mstat _ => true
  | _ => false
/-- Serial numbers of the commands in engine queues that have not started and that `p` picks. A memory-extended access has
not started while it stands in its queue, nor a matrix step before it commits; another command has not while it is queued. -/
def Context.unstarted (k : Context) (p : Tag → Bool) : List Nat :=
  (k.meL ++ k.meS).filterMap (fun c => if p c.tag then some c.tag.serial else none) ++
  (k.copyL ++ k.copyS).filterMap (fun c => if c.phase == .queued && p c.tag then some c.tag.serial else none) ++
  k.mx.filterMap (fun c => if (c.phase == .queued || (c.phase == .started && startsLate c.word)) && c.seed.isNone && p c.tag then some c.tag.serial else none) ++
  (k.fabL ++ k.fabS).filterMap (fun c => if c.phase == .queued && p c.tag then some c.tag.serial else none)
/-- The context without the commands of these serial numbers; a discarded load clears its interlock. -/
def Context.without (k : Context) (l : List Nat) : Context :=
  { k with
    meL := k.meL.filter fun c => !l.contains c.tag.serial
    meS := k.meS.filter fun c => !l.contains c.tag.serial
    copyL := k.copyL.filter fun c => !l.contains c.tag.serial
    copyS := k.copyS.filter fun c => !l.contains c.tag.serial
    mx := k.mx.filter fun c => !l.contains c.tag.serial
    fabL := k.fabL.filter fun c => !l.contains c.tag.serial
    fabS := k.fabS.filter fun c => !l.contains c.tag.serial
    touch := k.touch.filter fun u => match u.serial with
      | some n => !l.contains n
      | none => true
    strands := k.strands.map fun _ t => { t with
      pend := t.pend.filter fun q => q.val.isSome || !l.contains q.serial
      pages := t.pages.filter fun q => !(q.serial.any l.contains) } }
/-- First byte of a place and the space it lies in, as a place at 0. -/
def Place.base : Place → Place × Nat
  | .dev pa => (.dev 0, pa)
  | .seg c x name off => (.seg c x name 0, off)
  | .win d a => (.win d 0, a)
/-- Two byte ranges share a 4-byte word. -/
def shareWord (p : Place) (n : Nat) (q : Place) (m : Nat) : Bool :=
  let (b, a) := p.base
  let (c, d) := q.base
  b == c && a / 4 ≤ (d + m - 1) / 4 && d / 4 ≤ (a + n - 1) / 4
/-- Address of a park record in the partition's park area (R314). -/
def parkAddr (p : Partition) (i : Nat) : Nat := p.parkBase.toNat * 4096 + 32 * i
/-- NEXT of each record is the address of the one behind it on its word's list, 0 for the last (R314). -/
def State.relink (s : State) : List Waiter → State
  | [] => s
  | w :: r =>
    let at_ (v : Waiter) : Option Nat := v.record.map (parkAddr s.parts[v.part.toNat])
    let next := (r.find? fun v => shareWord v.place v.bytes w.place w.bytes).bind at_
    (match at_ w with
      | some a => { s with mem := s.mem.write (a + 24) 8 (next.getD 0) }
      | none => s).relink r
/-- Waiters leave the wait list of a core, the wait tables and the park lists; the park lists close up. -/
def State.keepWaiters (s : State) (c : CoreId) (keep : Waiter → Bool) : State :=
  let s1 := { (s.modCore c fun k => { k with waitList := k.waitList.filter keep }) with
    dies := s.dies.map fun d => { d with waiters := d.waiters.filter keep, parked := d.parked.filter keep } }
  s.dies.toList.foldl (fun s d => if d.parked.all keep then s else s.relink (d.parked.filter keep)) s1
/-- The waiters of a context's commands leave. -/
def State.dropWaiters (s : State) (c : CoreId) (x : Ctx) (l : List Nat) : State :=
  s.keepWaiters c fun w => !(w.core == c && w.ctx == x && l.contains w.serial)
/-- The serial numbers of these commands with those of the matrix commands that copies among them would have enqueued (R188). -/
def Context.withFollows (k : Context) (l : List Nat) : List Nat :=
  l ++ (k.copyL ++ k.copyS).filterMap fun q => if l.contains q.tag.serial then q.follow.map (·.tag.serial) else none
/-- Discards the unstarted commands that `p` picks; a join that waited for one of them completes (R101). -/
def State.discard (s : State) (c : CoreId) (x : Ctx) (p : Tag → Bool) : State :=
  let l := (s.ctx c x).unstarted p
  (s.modCtx c x fun k => (k.without (k.withFollows l)).rendezvousAll).dropWaiters c x l

/-! ## What has been performed (R101, R116, R128, R168, R173) -/

/-- Class A accesses of the context up to a serial number (R328): queued ones, and bar.waits that are parked or wait
for a park record (R313). -/
def State.classABusy (s : State) (c : CoreId) (x : Ctx) (mark : Nat) : Bool :=
  let k := s.ctx c x
  let mine (w : Waiter) : Bool := w.core == c && w.ctx == x && w.isBarrier && w.serial ≤ mark
  (k.meL ++ k.meS).any (fun q => !isClassK q.word && q.tag.serial ≤ mark) || (s.core c).waitList.any mine ||
    s.dies.any (fun d => d.waiters.any mine || d.parked.any mine) || Strand.all.any fun p => (k.strand p).resend.any (·.1 ≤ mark)
def Context.copyBusy (k : Context) (mark : Nat) : Bool := (k.copyL ++ k.copyS).any (·.tag.serial ≤ mark)
def Context.matrixBusy (k : Context) (mark : Nat) : Bool :=
  k.mx.any (·.tag.serial ≤ mark) || (k.copyL ++ k.copyS).any fun c => c.follow.isSome && c.tag.serial ≤ mark
def Context.fabricBusy (k : Context) (mark : Nat) : Bool := (k.fabL ++ k.fabS).any (·.tag.serial ≤ mark)
/-- Vector stream writes that have issued and are not performed (R204, R206). -/
def Context.vectorBusy (k : Context) : Bool :=
  (k.strand .X).land.any (fun e => match e.what with
    | .elems _ => true
    | _ => false) || k.replay.any (·.vec)
def Context.stages (k : Context) : Engine → List Stage
  | .copyL => k.stageL | .copyS => k.stageS | .matrix => k.stageM | .fabL => k.stageFL | .fabS => k.stageFS
  | .meL => k.stageEL | .meS => k.stageES
def Context.setStages (k : Context) (e : Engine) (l : List Stage) : Context :=
  match e with
  | .copyL => { k with stageL := l } | .copyS => { k with stageS := l } | .matrix => { k with stageM := l }
  | .fabL => { k with stageFL := l } | .fabS => { k with stageFS := l }
  | .meL => { k with stageEL := l } | .meS => { k with stageES := l }
def engines : List Engine := [.copyL, .copyS, .matrix, .fabL, .fabS, .meL, .meS]
/-- Commands of the context up to a serial number have not all completed, their completion stages among them (R116). -/
def Context.commandsBusy (k : Context) (mark : Nat) : Bool :=
  (k.meL ++ k.meS).any (·.tag.serial ≤ mark) || k.copyBusy mark || k.matrixBusy mark || k.fabricBusy mark ||
    engines.any fun e => (k.stages e).any (·.tag.serial ≤ mark)

end Sys2Proof.Machine
end

