-- ==== Sys2Proof/Machine/Barriers.lean ====
section
/-! DEFINITION. Barrier objects (R269-R271, R329): where a handle points, reading and writing the object, the end of a phase. -/
namespace Sys2Proof.Machine

/-- The fields of a barrier object (R269); WAIT, POIS and the reserved bits apart. -/
structure Barrier where
  gen : BitVec 4
  expt : BitVec 16
  pend : BitVec 16
  inp : BitVec 16
  outp : BitVec 16
  armed : Bool
  ovr : Bool
  pois : Bool
  wait : BitVec 16
  deriving DecidableEq, Repr

def Barrier.ofNat (n : Nat) : Barrier :=
  let v := BitVec.ofNat 128 n
  { gen := v.extractLsb' 0 4, expt := v.extractLsb' 4 16, pend := v.extractLsb' 20 16, inp := v.extractLsb' 36 16
    outp := v.extractLsb' 52 16, armed := v.getLsbD 68, ovr := v.getLsbD 69, pois := v.getLsbD 70, wait := v.extractLsb' 72 16 }
def Barrier.toNat (b : Barrier) : Nat :=
  pack [(4, b.gen.toNat), (16, b.expt.toNat), (16, b.pend.toNat), (16, b.inp.toNat), (16, b.outp.toNat), (1, b.armed.toNat),
    (1, b.ovr.toNat), (1, b.pois.toNat), (1, 0), (16, b.wait.toNat)]
/-- Object bits 71:68 × 2^4 + GEN, as bar.wait returns them (R276). -/
def Barrier.flags (b : Barrier) : Word :=
  (BitVec.ofBool b.pois).setWidth 64 <<< 6 ||| (BitVec.ofBool b.ovr).setWidth 64 <<< 5 |||
    (BitVec.ofBool b.armed).setWidth 64 <<< 4 ||| b.gen.setWidth 64

/-! ## Where a handle points (R270) -/

def dieOf (c : CoreId) : DieId := ⟨c.val / 48, by omega⟩
/-- Position of a core in its cluster: its layer (R4). -/
def layerOf (c : CoreId) : Nat := c.val % 4
def clusterInDie (c : CoreId) : Nat := c.val / 4 % 12

inductive BarAt where
  | fault (c : Cause) (eval : Word)
  | stalls (s : State)
  | ok (s : State) (p : Place)
/-- SPACE, HANDLE and OFF of a handle. -/
def barSpace (h : Word) : Bool := h.getLsbD 63
def barHandle (h : Word) : BitVec 6 := h.extractLsb' 56 6
def barOff (h : Word) : Nat := (h.extractLsb' 0 24).toNat
/-- The checks of R270 on a handle, with its segment touched; a SPACE 1 handle with HANDLE other than 0 is PROT by the model's choice,
log 82; `name?` is what HANDLE resolved to. -/
def State.barPlace (s : State) (c : CoreId) (x : Ctx) (p : Strand) (serial : Option Nat) (ticket : BitVec 32)
    (name? : Option (BitVec 16)) (h : Word) : BarAt :=
  if h.getLsbD 62 || h.extractLsb' 24 32 != 0 || (barSpace h && barHandle h != 0) then .fault .prot h
  else if barSpace h then
    let d := dieOf c
    let w := (s.parts[(s.ctx c x).part.toNat]).window[d.val]
    if !w.valid || barOff h ≥ 4096 * (w.size.toNat + 1) then .fault .prot h
    else if barOff h % 16 != 0 then .fault .align (BitVec.ofNat 64 (barOff h))
    else .ok s (.win d (4096 * w.base.toNat + barOff h))
  else
    let notD := match name? with
      | none => false
      | some n => match s.segDesc c x n with
        | .found g => g.cls != 0
        | _ => false
    if notD then .fault .prot h
    else match s.localAt c x p serial ticket name? (barHandle h) (BitVec.ofNat 64 (barOff h)) 16 with
      | .fault c e => .fault c e
      | .stalls s1 => .stalls s1
      | .ok s1 q => .ok s1 q

/-! ## Reading and writing an object -/

def State.tainted (s : State) (p : Place) : Bool :=
  match p with
  | .seg c x name off => match (s.ctx c x).bar? name off with
    | some b => b.tainted
    | none => false
  | _ => false
/-- The object at a place. The state of one that a store has reached is a free value (R269), log 1. -/
def State.barrier (s : State) (p : Place) : State × Barrier :=
  let (s1, n) := if s.tainted p then ({ s with draws := s.draws + 1 }, (Config.freeObject s.draws).toNat) else (s, s.readPlace p 16)
  let b := Barrier.ofNat n
  (s1, { b with pois := b.pois || s.poisonPlace p 16 })
def State.setBarrier (s : State) (p : Place) (b : Barrier) : State := s.writePlace p 16 b.toNat
/-- bar.init records where the object lies. -/
def State.initBarrier (s : State) (p : Place) : State :=
  match p with
  | .seg c x name off => s.modCtx c x fun k => { k with
      bars := ⟨name, off, false⟩ :: k.bars.filter fun b => !(b.name == name && b.off == off) }
  | _ => s

/-! ## The end of a phase (R271) -/

/-- A bar.wait parked on the object at a place. -/
def Waiter.parkedOn (w : Waiter) (p : Place) : Bool := w.isBarrier && w.place == p
/-- Wakes a strand parked on an object with the word it returns. -/
def State.wakeStrand (s : State) (v : Word) (w : Waiter) : State :=
  s.modStrand w.core w.ctx w.strand fun t => { t with woken := some v }
/-- WAIT bit that a parked strand sets in an object (R269, R329). -/
def waiterBit (w : Waiter) : BitVec 16 :=
  match w.place with
  | .win _ _ => 1#16 <<< clusterInDie w.core
  | _ => 1#16 <<< (4 * layerOf w.core + w.strand.num)
/-- Every waiter, wherever it is. -/
def State.allWaiters (s : State) (c : CoreId) : List Waiter := (s.core c).waitList ++ (s.dies.toList.map fun d => d.waiters ++ d.parked).flatten
/-- A WAIT bit of an object is cleared: in its segment, or in the segment's home while that is pushed out; there it stays as it is while
the page is absent too, log 83. -/
def State.clearWait (s : State) (p : Place) (bit : BitVec 16) : State :=
  match s.storeOf p, p with
  | none, .seg c x name off => match s.segDesc c x name with
    | .found g => match s.translate (s.ctx c x).root (word57 (g.home + BitVec.ofNat 57 off)) needWr with
      | .ok pa m => { s with mem := m.write (pa + 9) 2 (m.read (pa + 9) 2 &&& (~~~bit).toNat) }
      | _ => s
    | _ => s
  | _, _ =>
    let (s1, b) := s.barrier p
    s1.setBarrier p { b with wait := b.wait &&& ~~~bit }
/-- Strands of core `c` parked on barriers leave without effect: those that `mine` picks. WAIT bits that no other waiter needs are
cleared (R276). -/
def State.unpark (s : State) (c : CoreId) (mine : Waiter → Bool) : State :=
  let all := s.allWaiters c
  let gone (w : Waiter) : Bool := w.isBarrier && mine w
  let s1 := (all.filter gone).foldl (fun s w =>
    if all.any fun v => !gone v && v.isBarrier && v.place == w.place && waiterBit v == waiterBit w then s
    else s.clearWait w.place (waiterBit w)) s
  s1.keepWaiters c fun w => !gone w
/-- A strand that a trap has stopped is no longer parked: its bar.wait issues again after the return (R111, R276). -/
def State.unparkTrapped (s : State) (c : CoreId) (x : Ctx) : State :=
  let mine (w : Waiter) : Bool := w.core == c && w.ctx == x && (s.strand c x w.strand).life == .trapped
  if (s.allWaiters c).any fun w => w.isBarrier && mine w then s.unpark c mine else s
/-- Every bar.wait parked on the object returns. -/
def State.wakeBarrier (s : State) (p : Place) (v : Word) : State :=
  let here : List Waiter := match p with
    | .seg c _ _ _ => (s.core c).waitList
    | .win d _ => s.dies[d.val].waiters ++ s.dies[d.val].parked
    | .dev _ => []
  let s1 := (here.filter (·.parkedOn p)).foldl (fun s w => s.wakeStrand v w) s
  match p with
  | .seg c _ _ _ => s1.modCore c fun k => { k with waitList := k.waitList.filter fun w => !w.parkedOn p }
  | .win d _ => { s1 with dies := s1.dies.set d.val { s1.dies[d.val] with
      waiters := s1.dies[d.val].waiters.filter (fun w => !w.parkedOn p)
      parked := s1.dies[d.val].parked.filter fun w => !w.parkedOn p } }
  | .dev _ => s1
/-- BARRIER_PHASE_COMPLETE: TestPhase after a change of PEND, INP or OUTP. -/
def State.testPhase (s : State) (p : Place) (b : Barrier) : State :=
  if b.armed && b.pend == 0 && b.inp == 0 && b.outp == 0 then
    let b := { b with gen := b.gen + 1, pend := b.expt, wait := 0 }
    (s.setBarrier p b).wakeBarrier p b.flags
  else s.setBarrier p b
/-- Subtracts from INP and OUTP; a count that would pass −32,768 stays there and sets OVER (R277). -/
def countDown (v : BitVec 16) (n : Nat) : BitVec 16 × Bool :=
  let r := v.toInt - n
  if r < -32768 then (BitVec.ofInt 16 (-32768), true) else (BitVec.ofInt 16 r, false)
/-- Step 2 of R161 at the object of a copy: OUTP less 1, INP less the number of receiving cores. -/
def State.countCopy (s : State) (p : Place) (receivers : Nat) : State :=
  let (s1, b) := s.barrier p
  let (o, oo) := countDown b.outp 1
  let (i, io) := countDown b.inp receivers
  s1.testPhase p { b with outp := o, inp := i, ovr := b.ovr || oo || io }

end Sys2Proof.Machine
end

