-- ==== Sys2Proof/Machine/Stages.lean ====
section
/-! DEFINITION. Completion of engine commands (R161, R188): count-down, counter, follow-on and tokens, in the start order of
each queue, with what waits for room. -/
namespace Sys2Proof.Machine

/-- Depth of a context's matrix queue (R240). -/
def mxDepth : Ctx → Nat
  | .fw => 4
  | _ => 16
def Context.mxFull (k : Context) (x : Ctx) : Bool := (k.mx.filter (·.seed.isNone)).length ≥ mxDepth x

/-- Takes the remaining steps of the completion at the head of a stage: none while it cannot move. The follow-on's room is
needed for steps 2 to 4 together (R188). -/
def State.stageHead (s : State) (c : CoreId) (x : Ctx) (e : Engine) : Option State :=
  let k := s.ctx c x
  match k.stages e with
  | [] => none
  | g :: rest =>
    let finish (s : State) : Option State :=
      let k := s.ctx c x
      let k := if g.ccDone then k else
        { (if g.tag.inc = 0 then k else { k with cc := k.cc.set g.tag.cc.toNat (k.cc[g.tag.cc.toNat] + g.tag.inc.setWidth 16) })
          with mx := match g.follow with
            | none => k.mx
            | some m => k.mx ++ [m] }
      let (tok, left) := k.tokens.pushSome g.tag.strand g.tag.push
      if left != 0 && g.ccDone && left == g.tag.push &&& 12 then none
      else
        let k := { k with tokens := tok }
        some (s.modCtx c x fun _ => if left = 0 then k.setStages e rest
          else k.setStages e ({ g with bar := none, ccDone := true, follow := none, tag := { g.tag with push := left } } :: rest))
    if !g.ccDone && g.follow.isSome && k.mxFull x then none
    else match g.bar with
      | none => finish s
      | some (h, name) =>
        match s.barPlace c x g.tag.strand (some g.tag.serial) (g.tag.ticket.getD k.ticket)
            (if name == 0xFFFF then none else some name) h with
        | .fault cause ev =>
          some ((s.raise c x g.tag.strand cause g.tag.strand ev).modCtx c x fun k => (k.setStages e rest).without (g.follow.map (·.tag.serial)).toList)
        | .stalls s1 => some s1
        | .ok s1 p =>
          let ws := p.sageWords 16
          if s1.outOfTurn c x g.tag.strand ws then none else finish ((s1.noteArrival c x g.tag.strand ws).countCopy p g.receivers)
def State.runStage (s : State) (c : CoreId) (x : Ctx) (e : Engine) : Nat → State
  | 0 => s
  | n + 1 => match s.stageHead c x e with
    | none => s
    | some s1 => if ((s1.ctx c x).stages e).length < ((s.ctx c x).stages e).length then s1.runStage c x e n else s1
/-- A command completes (R161): its completion joins its queue's stage, and the stage goes as far as it can. -/
def State.complete (s : State) (c : CoreId) (x : Ctx) (e : Engine) (g : Stage) : State :=
  let s1 := s.modCtx c x fun k => k.setStages e (k.stages e ++ [g])
  if ((s.ctx c x).stages e).isEmpty then s1.runStage c x e 1 else s1
/-- A completion without barrier and follow-on. -/
def plainStage (t : Tag) : Stage := ⟨t, none, 0, false, none⟩

end Sys2Proof.Machine
end

