-- ==== Sys2Proof/Machine/Sage.lean ====
section
/-! DEFINITION. Memory-extended accesses and what performs them: Sage, the core's local atomic unit, waiters, park lists,
budgets and the replay queue (R172-R176, R289, R293, R294, R303, R306-R327). -/
namespace Sys2Proof.Machine

/-! ## Places and waiters -/

def dieOfPa (pa : Nat) : DieId := ⟨pa / 2 ^ 37 % 4, Nat.mod_lt _ (by decide)⟩
/-- Waiters for which order matters: the same condition, its threshold among it (R312, R325). -/
def sameCond : Cond → Cond → Bool
  | .full, .full | .full, .consume | .consume, .full | .consume, .consume | .empty, .empty => true
  | .version a, .version b => a == b
  | .phase a, .phase b => a == b
  | _, _ => false
/-- An error of device memory makes an access fail that needs the F bits, the poison bit (R280). -/
def State.badAt (s : State) (needF needP : Bool) (p : Place) (n : Nat) : Bool :=
  match p with
  | .dev pa => (needF && s.hbm.badF pa n) || (needP && s.hbm.badPoison pa n)
  | _ => false
/-- The condition holds now. An acq whose line is poisoned is performed, and faults (R325); so is an access that an error makes fail. -/
def State.condHolds (s : State) (c : Cond) (p : Place) (n : Nat) : Bool :=
  match c with
  | .full | .consume => s.fPlace p n true || s.badAt true true p n
  | .empty => s.fPlace p n false || s.badAt true true p n
  | .version t => t.toNat ≤ s.readPlace p 8 || s.poisonPlace p 8 || s.badAt false true p 8
  | .phase _ => false
/-- The waiters that a word's home holds: in the table or list, and parked. -/
def State.waitersAt (s : State) (p : Place) : List Waiter × List Waiter :=
  match p with
  | .dev pa => (s.dies[(dieOfPa pa).val].waiters, s.dies[(dieOfPa pa).val].parked)
  | .win d _ => (s.dies[d.val].waiters, s.dies[d.val].parked)
  | .seg c _ _ _ => ((s.core c).waitList, [])
/-- An older waiter with the same condition waits on one of the words. -/
def State.olderWaits (s : State) (c : Cond) (p : Place) (n arrival : Nat) : Bool :=
  let (t, k) := s.waitersAt p
  (t ++ k).any fun w => w.arrival < arrival && sameCond w.cond c && shareWord w.place w.bytes p n

/-! ## Results and faults -/

/-- Fills the registers that await this command's results. -/
def fillPend (serial : Nat) (d : GReg) (v : Word) (l : List Pend) : List Pend :=
  l.map fun q => if q.serial == serial && q.d == d && q.val.isNone then { q with val := some v } else q
def State.fill (s : State) (c : CoreId) (x : Ctx) (q : MeCmd) (d : GReg) (v : Word) : State :=
  s.modStrand c x q.tag.strand fun t => { t with pend := fillPend q.tag.serial d v t.pend }
/-- The command leaves its queue, and every list that it waits in. -/
def Context.dropMe (k : Context) (serial : Nat) : Context :=
  { k with meL := k.meL.filter (·.tag.serial != serial), meS := k.meS.filter (·.tag.serial != serial)
           touch := k.touch.filter (·.serial != some serial) }
def meEngine : Strand → Engine
  | .L => .meL
  | _ => .meS
/-- The command has been performed: it completes (R161). -/
def State.meDone (s : State) (c : CoreId) (x : Ctx) (t : Tag) : State :=
  let s1 := (s.modCtx c x (·.dropMe t.serial)).dropWaiters c x [t.serial]
  if t.push &&& 12 = 0 then s1 else s1.complete c x (meEngine t.strand) (plainStage t)
/-- The command ends by a fault (R162): no register, no tokens. -/
def State.meFault (s : State) (c : CoreId) (x : Ctx) (t : Tag) (cause : Cause) (ev : Word) : State :=
  let s1 := (s.modCtx c x fun k => k.without (k.withFollows [t.serial])).dropWaiters c x [t.serial]
  s1.raise c x t.strand cause t.strand ev

/-! ## Atomics (R320, R321) -/

/-- One RNE addition in F32 or BF16, on codes (R321). -/
def fadd (f : Fmt) (a b : Nat) : Nat := (f.convert .rne false 0 false (addVal .rne (f.val a) (f.val b))).code
/-- `Op(old, B)` on n bytes; none when nothing is written. -/
def atomicNew (op : AtOp) (afmt : BitVec 4) (n old b c : Nat) : Option Nat :=
  let m := 2 ^ (8 * n)
  match op with
  | .add => some ((old + b) % m)
  | .sub => some ((old + m - b % m) % m)
  | .and_ => some (old &&& b)
  | .or_ => some (old ||| b)
  | .xor_ => some (old ^^^ b)
  | .min_ => some (if signedOf (8 * n) b < signedOf (8 * n) old then b else old)
  | .max_ => some (if signedOf (8 * n) old < signedOf (8 * n) b then b else old)
  | .minn => some (min old b)
  | .maxn => some (max old b)
  | .xchg => some b
  | .cas => if old = b then some c else none
  | .inc => some (if b ≤ old then 0 else old + 1)
  | .fadd =>
    if afmt == 0xF then some (fadd .f32 old b)
    else some (fadd .bf16 (old % 65536) (b % 65536) + 65536 * fadd .bf16 (old / 65536) (b / 65536 % 65536))
/-- A register pair or register as an operand of n bytes. -/
def operand (lo hi : Word) (n : Nat) : Nat := (lo.toNat + 2 ^ 64 * hi.toNat) % 2 ^ (8 * n)

/-! ## Performing (R174, R306, R320-R326) -/

/-- Writes a value of n bytes to g[d], or to a pair for 16 bytes. -/
def State.fillValue (s : State) (c : CoreId) (x : Ctx) (q : MeCmd) (v : Nat) (signedV : Bool) : State :=
  let n := q.bytes
  if n = 16 then
    (s.fill c x q q.w.d (BitVec.ofNat 64 v)).fill c x q (q.w.d + 1) (BitVec.ofNat 64 (v / 2 ^ 64))
  else s.fill c x q q.w.d (if signedV then sx (BitVec.ofNat 64 v) (8 * n) else BitVec.ofNat 64 (v % 2 ^ (8 * n)))
/-- The regions that are bound to the object of an access (R303). -/
def State.boundTo (s : State) (k : Context) (q : MeCmd) : List Binding :=
  if q.isLocal then [] else (s.parts[k.part.toNat]).bindings.filter fun b => b.root == k.root && b.obj == q.loc
/-- Bytes lie in a region. -/
def Binding.holds (b : Binding) (a n : Nat) : Bool := meets a n b.start.toNat b.len
/-- An acquire on an object: elements of its regions that device streams have fetched ahead are discarded, to be fetched again at their
positions; positions and counts are unchanged (R303). -/
def Context.dropAhead (k : Context) (bs : List Binding) : Context :=
  { k with streams := k.streams.map fun r => if r.space == 1 then
      { r with ahead := r.ahead.filter fun a => !bs.any fun b => b.holds (r.spot a.width 0 a.index).eval.toNat (r.spot a.width 0 a.index).bytes }
      else r }
/-- The access is an acquire (R300). -/
def MeCmd.isAcquire (q : MeCmd) : Bool := q.w.ord == 1 || q.kind == .acq
/-- What an acquire of an object does to the streams of its context; nothing for another access. -/
def State.acquired (s : State) (c : CoreId) (x : Ctx) (q : MeCmd) : State :=
  if q.isAcquire && !(s.boundTo (s.ctx c x) q).isEmpty then s.modCtx c x (·.dropAhead (s.boundTo (s.ctx c x) q)) else s
/-- The access needs the F bits of its words (R280, R293). -/
def MeCmd.needsF (q : MeCmd) : Bool :=
  match q.kind with
  | .load wait _ => wait
  | .store fe => fe != 0
  | .probe | .setF => true
  | _ => false
/-- The access needs the poison bits of its lines. -/
def MeCmd.needsPoison (q : MeCmd) : Bool :=
  match q.kind with
  | .probe | .setF => false
  | _ => true
/-- The access writes when it is performed, as far as that is known without its data. -/
def MeCmd.writes (q : MeCmd) : Bool :=
  match q.kind with
  | .load _ cons => cons
  | .store _ | .setF | .atomic _ | .rel => true
  | _ => false
/-- The walker's mark of the first write through a leaf (R285), made by a device access that is about to write. -/
def State.markDirty (s : State) (c : CoreId) (x : Ctx) (q : MeCmd) (p : Place) : State :=
  match p with
  | .dev _ =>
    let root := (s.ctx c x).root
    { s with mem := s.dirtyBy (s.oldPage c .scalar root q.loc.toNat) root q.loc.toNat }
  | _ => s

/-- The access is performed, whole, at its place. -/
def State.mePerform (s : State) (c : CoreId) (x : Ctx) (q : MeCmd) (p : Place) : State :=
  let n := q.bytes
  let poisoned := s.poisonPlace p n
  if s.badAt q.needsF q.needsPoison p n then s.meFault c x q.tag .eccue q.loc
  else match q.kind with
  | .load _ cons =>
    if poisoned then s.meFault c x q.tag .poison q.loc
    else
      let v := s.readPlace p n
      let s1 := if cons then (s.markDirty c x q p).setFPlace p n false else s
      ((s1.fillValue c x q v (q.w.zx == 0)).acquired c x q).meDone c x q.tag
  | .store fe =>
    let s1 := ((s.markDirty c x q p).taint p n).writePlace p n (operand q.data q.data1 n)
    let s2 := if fe == 3 || fe == 4 then s1.setFPlace p n true else if fe == 5 then s1.setFPlace p n false else s1
    s2.meDone c x q.tag
  | .probe => ((s.fill c x q q.w.d (BitVec.ofNat 64 (s.probePlace p n))).acquired c x q).meDone c x q.tag
  | .setF => ((s.markDirty c x q p).setFPlace p n (q.w.fval == 1)).meDone c x q.tag
  | .atomic op =>
    if poisoned then s.meFault c x q.tag .poison q.loc
    else
      let old := s.readPlace p n
      let s1 := match atomicNew op q.w.afmt n old (operand q.b q.b1 n) (operand q.c q.c1 n) with
        | some v => ((s.markDirty c x q p).taint p n).writePlace p n v
        | none => s
      ((s1.fillValue c x q old (n == 4 && q.w.zx == 0 && op != .fadd)).acquired c x q).meDone c x q.tag
  | .acq =>
    if poisoned then s.meFault c x q.tag .poison q.loc
    else ((s.fill c x q q.w.d (BitVec.ofNat 64 (s.readPlace p 8))).acquired c x q).meDone c x q.tag
  | .rel =>
    if poisoned then s.meFault c x q.tag .poison q.loc
    else
      let old := s.readPlace p 8
      (((s.markDirty c x q p).writePlace p 8 ((old + 1) % 2 ^ 64)).fill c x q q.w.d (BitVec.ofNat 64 old)).meDone c x q.tag
  | _ => s.meDone c x q.tag

/-! ## Scanning waiters (R312) -/

def State.meOf (s : State) (w : Waiter) : Option MeCmd :=
  ((s.ctx w.core w.ctx).meQueue w.strand).find? (·.tag.serial == w.serial)
/-- The oldest waiter of a home whose condition holds and that no older waiter of its condition precedes. -/
def State.ready (s : State) (home : Place) : Option Waiter :=
  (s.waitersAt home).1.find? fun w => s.condHolds w.cond w.place w.bytes && !s.olderWaits w.cond w.place w.bytes w.arrival
def State.performWaiter (s : State) (w : Waiter) : State :=
  match s.meOf w with
  | some q => s.mePerform w.core w.ctx q w.place
  | none => s.dropWaiters w.core w.ctx [w.serial]
/-- Scans until a pass performs none. -/
def State.rescanN (s : State) (home : Place) : Nat → State
  | 0 => s
  | n + 1 => match s.ready home with
    | none => s
    | some w => (s.performWaiter w).rescanN home n
/-- The scan after an operation that changed a word's F bit or data. -/
def State.rescan (s : State) (home : Place) : State := s.rescanN home (s.waitersAt home).1.length
/-- The scans of all four Sages after words of device memory have changed (R312). -/
def State.rescanDies (s : State) : State := allDies.foldl (fun s e => s.rescan (.dev (e.val * 2 ^ 37))) s
/-- The scans after a command that has written to device memory or to segments of a core. -/
def State.rescanAll (s : State) (c : CoreId) (x : Ctx) : State := s.rescanDies.rescan (.seg c x 0 0)

/-- The scans after results of a strand have landed, when they were elements of a stream (R312). -/
def Landing.isElems (e : Landing) : Bool :=
  match e.what with
  | .elems _ => true
  | _ => false
def State.rescanLanded (s : State) (c : CoreId) (x : Ctx) (l : List Landing) : State := if l.any (·.isElems) then s.rescanAll c x else s

/-! ## Budgets and waiting (R310, R313-R317) -/

def Context.modMe (k : Context) (serial : Nat) (f : MeCmd → MeCmd) : Context :=
  { k with meL := k.meL.map fun q => if q.tag.serial == serial then f q else q
           meS := k.meS.map fun q => if q.tag.serial == serial then f q else q }
/-- Takes one unit of the strand's budget; none when it is exhausted. -/
def State.charge (s : State) (c : CoreId) (x : Ctx) (p : Strand) : Option State :=
  if (s.strand c x p).feb = 0 then none else some (s.modStrand c x p fun t => { t with feb := t.feb - 1 })
/-- FEBUDGET_ABANDON: the access leaves wherever it waits, raises FEBUDGET and stays at the head of its queue (R315, R316). -/
def State.abandon (s : State) (c : CoreId) (x : Ctx) (q : MeCmd) : State :=
  let s1 := (s.dropWaiters c x [q.tag.serial]).modCtx c x (·.modMe q.tag.serial fun q => { q with phase := .abandoned, touched := false })
  s1.raise c x q.tag.strand .febudget q.tag.strand q.loc

def tableSize : Nat := 4096
def listSize : Nat := 64
/-- The partition may take an entry of the die's wait table (R310, R311). -/
def State.tableRoom (s : State) (d : DieId) (part : PartId) : Bool :=
  let q := ((s.parts[part.toNat]).window[d.val]).wtq.toNat
  s.dies[d.val].waiters.length + s.dies[d.val].qwaits.length < tableSize &&
    (q == 0 || (s.dies[d.val].waiters.filter (·.part == part)).length + (s.dies[d.val].qwaits.filter (·.part == part)).length < q)
/-- Records of the partition's park area in use. -/
def State.records (s : State) (part : PartId) : List Nat :=
  (s.dies.toList.map fun d => d.parked.filterMap fun w => if w.part == part then w.record else none).flatten
/-- A free park record: the lowest-numbered, by the model's choice (R313, log 83). -/
def freeRecord (used : List Nat) (n : Nat) : Option Nat := (List.range (min n (used.length + 1))).find? fun i => !used.contains i
/-- COND code and THRESH of a park record (R314). -/
def Cond.code : Cond → Nat × Nat
  | .full => (0, 0)
  | .consume => (1, 0)
  | .empty => (2, 0)
  | .version t => (3, t.toNat)
  | .phase g => (4, g.toNat)
/-- A park record (R314), with NEXT = 0; WORD is the address of the 4-byte word. -/
def Waiter.record32 (w : Waiter) : Nat :=
  let (cond, th) := w.cond.code
  pack [(57, w.va.toNat / 4 * 4), (7, 0), (64, th), (8, w.core.val), (4, 0), (2, (Ctx.code2 w.ctx).toNat % 2), (2, w.strand.num),
    (3, cond), (13, 0), (32, w.arrival % 2 ^ 32), (64, 0)]
/-- Appends a waiter to the park list of its word: its record is written, and the last record of the list points to it. A waiter of several
words joins the list of the last record with which it shares a word: the model's choice, log 83. -/
def State.park (s : State) (d : DieId) (w : Waiter) (i : Nat) : State :=
  let pt := s.parts[w.part.toNat]
  let a := parkAddr pt i
  let last := (s.dies[d.val].parked.filter fun v => shareWord v.place v.bytes w.place w.bytes).getLast?
  let m := s.mem.write a 32 w.record32
  let m := match last.bind (·.record) with
    | some j => m.write (parkAddr pt j + 24) 8 a
    | none => m
  { s with mem := m, dies := s.dies.set d.val { s.dies[d.val] with
      parked := s.dies[d.val].parked ++ [{ w with record := some i }], arrivals := s.dies[d.val].arrivals + 1 } }

/-- Where a new waiter goes at a die: the table, or a park list; none when the park area has no free record. -/
inductive Enter where
  | table (s : State) (arrival : Nat)
  | parked (s : State) (arrival : Nat)
  | no
def State.enterDie (s : State) (d : DieId) (w : Waiter) : Enter :=
  let die := s.dies[d.val]
  let n := die.arrivals
  let w := { w with arrival := n }
  if s.tableRoom d w.part && !die.parked.any (fun v => shareWord v.place v.bytes w.place w.bytes) then
    .table { s with dies := s.dies.set d.val { die with waiters := die.waiters ++ [w], arrivals := n + 1 } } n
  else match freeRecord (s.records w.part) (128 * ((s.parts[w.part.toNat]).parkSize.toNat + 1)) with
    | none => .no
    | some i => .parked (s.park d w i) n

/-- The access must wait. `paid` says that the boundary at which it is sent again has charged it already (R313). -/
def State.meWait (s : State) (c : CoreId) (x : Ctx) (q : MeCmd) (p : Place) (cond : Cond) (paid : Bool) : State :=
  let setPhase (s : State) (ph : MePhase) : State := s.modCtx c x (·.modMe q.tag.serial fun q => { q with phase := ph, touched := q.isLocal })
  let w : Waiter := { core := c, ctx := x, strand := q.tag.strand, serial := q.tag.serial, arrival := 0, place := p
                      bytes := q.bytes, va := addr57 q.loc, cond := cond, part := (s.ctx c x).part, record := none }
  match p with
  | .seg _ _ _ _ =>
    let k := s.core c
    if (k.waitList.filter fun v => !v.isBarrier).length < listSize then
      setPhase (s.modCore c fun k => { k with
        waitList := k.waitList ++ [{ w with arrival := k.arrivals }], arrivals := k.arrivals + 1 }) (.waiting k.arrivals)
    else setPhase s .resend
  | .dev pa => match s.enterDie (dieOfPa pa) w with
    | .table s1 n => setPhase s1 (.waiting n)
    | .no => setPhase s .resend
    | .parked s1 n =>
      if paid then setPhase s1 (.parked n)
      else match s1.charge c x q.tag.strand with
        | some s2 => setPhase s2 (.parked n)
        | none => s.abandon c x q
  | .win _ _ => s

/-! ## Attempting the access at the head of a queue -/

/-- Writes that a release waits for: entries of the replay queue (R289), and earlier accesses and commands of the context whose writes
may reach a region bound to the object (R303). -/
def State.releaseHeld (s : State) (c : CoreId) (x : Ctx) (q : MeCmd) : Bool :=
  let k := s.ctx c x
  let bs := s.boundTo k q
  !k.replay.isEmpty || (!bs.isEmpty && (k.copyBusy q.tag.serial || k.matrixBusy q.tag.serial || k.fabricBusy q.tag.serial || k.vectorBusy ||
    (k.meL ++ k.meS).any fun e => e.tag.serial < q.tag.serial && !e.isLocal && e.writes && bs.any (·.holds e.loc.toNat e.bytes)))

inductive MeStep where
  /-- The command has left its queue. -/
  | gone (s : State)
  | stays (s : State)

/-- Performs the access, or makes it wait. -/
def State.meAt (s : State) (c : CoreId) (x : Ctx) (q : MeCmd) (p : Place) (paid : Bool) : MeStep :=
  let go : MeStep := .gone ((s.mePerform c x q p).rescan p)
  match q.cond with
  | none => go
  | some cond =>
    if s.condHolds cond p q.bytes && !s.olderWaits cond p q.bytes (match p with
        | .seg c _ _ _ => (s.core c).arrivals
        | .dev pa => s.dies[(dieOfPa pa).val].arrivals
        | .win d _ => s.dies[d.val].arrivals) then go
    else .stays (s.meWait c x q p cond paid)

/-- sync.bind and sync.unbind (R327). -/
def overlaps (a n b m : Nat) : Bool := a < b + m && b < a + n
def State.meBind (s : State) (c : CoreId) (x : Ctx) (q : MeCmd) : State :=
  let k := s.ctx c x
  let r := q.loc
  let len := q.b.toNat
  let bs := (s.parts[k.part.toNat]).bindings
  if r.toNat % 64 != 0 || len % 64 != 0 || len == 0 then s.meFault c x q.tag .align r
  else if q.c.toNat % 8 != 0 then s.meFault c x q.tag .align q.c
  else if r.toNat + len > 2 ^ 57 || bs.length ≥ 1024 || bs.any (fun b => overlaps b.start.toNat b.len r.toNat len) then
    s.meFault c x q.tag .prot r
  else
    let b : Binding := ⟨k.root, addr57 r, len, q.c, k.vf⟩
    ({ s with parts := s.parts.set k.part.toNat { s.parts[k.part.toNat] with bindings := bs ++ [b] } }).meDone c x q.tag
def State.meUnbind (s : State) (c : CoreId) (x : Ctx) (q : MeCmd) : State :=
  let k := s.ctx c x
  let pt := s.parts[k.part.toNat]
  let pt := { pt with bindings := pt.bindings.filter fun b => b.start.setWidth 64 != q.loc }
  ({ s with parts := s.parts.set k.part.toNat pt }).meDone c x q.tag
/-- prefetch (R176): the device form changes nothing that a program sees; the local form starts the recall of an absent
segment. -/
def State.mePrefetch (s : State) (c : CoreId) (x : Ctx) (q : MeCmd) : State :=
  let t := q.tag.ticket.getD (s.ctx c x).ticket
  let s1 := if !q.isLocal || q.name == 0xFFFF then s
    else match s.segDesc c x q.name with
      | .found _ => match s.touchSeg c x q.tag.strand (some q.tag.serial) t q.name with
        | .ready s1 _ | .waits s1 => s1
        | .fails _ => s
      | _ => s
  let keep := (s1.ctx c x).touch
  (s1.meDone c x q.tag).modCtx c x fun k => { k with touch := keep }

/-- A store that may enter the replay queue (R289). -/
def MeCmd.mayReplay (q : MeCmd) : Bool :=
  q.w.ord == 0 && (match q.kind with
    | .store fe => fe != 3
    | _ => false)
/-- An operation that Sage performs: every memory-extended access but a plain load or store (R306). -/
def MeCmd.atSage (q : MeCmd) : Bool :=
  match q.kind with
  | .load wait _ => wait
  | .store fe => fe != 0
  | _ => true
/-- The device form of an access. -/
def State.meDevice (s : State) (c : CoreId) (x : Ctx) (q : MeCmd) (paid : Bool) : MeStep :=
  let k := s.ctx c x
  let p := q.tag.strand
  let loc := q.loc
  let n := q.bytes
  let replayIt (s : State) : Option State :=
    if q.mayReplay && x != .fw && k.replay.length < replayDepth then
      some ((s.modCtx c x fun k => { (k.dropMe q.tag.serial) with replay := k.replay ++
        [⟨p, addr57 loc, q.w.fe, false, [⟨none, loc.toNat, n, operand q.data q.data1 n, 0, 0, false⟩], some q.tag⟩] }))
    else none
  if loc.toNat % n != 0 then .gone (s.meFault c x q.tag .align loc)
  else if k.replayHolds p loc.toNat then
    match replayIt s with
    | some s1 => .gone s1
    | none => .stays s
  else match s.xlat c .scalar k.root loc q.need with
    | .prot => .gone (s.meFault c x q.tag .prot loc)
    | .ok pa m =>
      let s1 := (s.tookPage c .scalar k.root loc.toNat m pa n false).spendToken c
      if s.badAt q.needsF q.needsPoison (.dev pa) n then .gone (s1.meFault c x q.tag .eccue loc)
      else if !q.atSage || q.phase != .queued then s1.meAt c x q (.dev pa) paid
      else
        let ws := (Place.dev pa).sageWords n
        if s1.outOfTurn c x p ws then .stays s
        else (s1.noteArrival c x p ws).meAt c x q (.dev pa) paid
    | .absent pte =>
      if s.refusedAt c x p (some q.tag.serial) loc.toNat then .gone (s.meFault c x q.tag .page loc)
      else match s.awaitPage c x p (some q.tag.serial) (addr57 loc) pte with
        | none => .gone (s.meFault c x q.tag .prot loc)
        | some s1 => match replayIt s1 with
          | some s2 => .gone s2
          | none => .stays s1
/-- The local form of an access: the checks of R129, made at the core. -/
def State.meLocal (s : State) (c : CoreId) (x : Ctx) (q : MeCmd) (paid : Bool) : MeStep :=
  match s.localAt c x q.tag.strand (some q.tag.serial) (q.tag.ticket.getD (s.ctx c x).ticket)
      (if q.name == 0xFFFF then none else some q.name) q.w.handle q.loc q.bytes with
  | .fault cause ev => .gone (s.meFault c x q.tag cause ev)
  | .stalls s1 => .stays s1
  | .ok s1 p => s1.meAt c x q p paid
/-- Attempts an access that has been sent. -/
def State.meAttempt (s : State) (c : CoreId) (x : Ctx) (q : MeCmd) (paid : Bool) : MeStep :=
  match q.kind with
  | .prefetch => .gone (s.mePrefetch c x q)
  | .bind => .gone (s.meBind c x q)
  | .unbind => .gone (s.meUnbind c x q)
  | _ =>
    if (s.ctx c x).behindAcquire q.tag || (q.isRelease && s.releaseHeld c x q) then .stays s
    else if q.isLocal then s.meLocal c x q paid else s.meDevice c x q paid
/-- The queue of a strand goes as far as it can, in program order (R159, R173); a join that waited for it completes (R101). -/
def State.drainMeN (s : State) (c : CoreId) (x : Ctx) (p : Strand) : Nat → State
  | 0 => s
  | n + 1 => match (s.ctx c x).meQueue p with
    | [] => s
    | q :: _ =>
      if q.phase != .queued then s
      else match s.meAttempt c x q false with
        | .gone s1 => s1.drainMeN c x p n
        | .stays s1 => s1
def State.drainMe (s : State) (c : CoreId) (x : Ctx) (p : Strand) : State :=
  if (s.ctx c x).held then s
  else (s.drainMeN c x p ((s.ctx c x).meQueue p).length).modCtx c x Context.rendezvousAll
/-- Both memory-extended queues of a context. -/
def State.drainCtx (s : State) (c : CoreId) (x : Ctx) : State := (s.drainMe c x .L).drainMe c x .S

/-! ## The replay queue (R289) -/

/-- Performs the entries of a context whose pages have come, in program order; those of other pages stay. -/
def State.replayPut (s1 : State) (r : Replay) (ok : List (Place × ElemWrite)) : State :=
  let s2 := if r.vec then s1.writeElems ok else ok.foldl (fun s w => s.writeElem w.1 w.2) s1
  ok.foldl (fun s w =>
    let s := if r.fe == 4 then s.setFPlace w.1 w.2.bytes true else if r.fe == 5 then s.setFPlace w.1 w.2.bytes false else s
    s.rescan w.1) s2
/-- The push-after tokens of the command that was the store. -/
def State.replayTokens (s : State) (c : CoreId) (x : Ctx) (r : Replay) : State :=
  match r.tag with
  | some t => if t.push &&& 12 = 0 then s else s.complete c x (meEngine t.strand) (plainStage t)
  | none => s
/-- The TLB that a waiting store goes through. -/
def Replay.unit (r : Replay) : TlbUnit := if r.vec then .vector else .scalar
/-- An entry whose elements cannot all be written leaves with the fault of the first that cannot, and without its tokens (R286, R162). -/
def State.replayStep (s : State) (c : CoreId) (x : Ctx) (r : Replay) : State × Bool :=
  let (s1, ok, ab, bad) := s.splitElems c x r.strand r.unit false (r.fe != 0) r.writes
  match ab, bad with
  | _ :: _, _ => (s, true)
  | [], [] => ((s1.replayPut r ok).replayTokens c x r, false)
  | [], (e, cause) :: _ => ((s1.replayPut r ok).raise c x r.strand cause r.strand (BitVec.ofNat 64 e.addr), false)
/-- An entry waits behind an older one of its strand and page. -/
def Context.replayBlocked (k : Context) (r : Replay) : Bool :=
  k.replay.any fun o => o.strand == r.strand && o.writes.any fun e => r.writes.any fun f => e.addr / frameBytes == f.addr / frameBytes
/-- Joins that waited for the queue complete with its last entry (R99, R289). -/
def State.replayAll (s : State) (c : CoreId) (x : Ctx) : State :=
  let es := (s.ctx c x).replay
  let s0 := s.modCtx c x fun k => { k with replay := [] }
  (es.foldl (fun s r =>
    if (s.ctx c x).replayBlocked r then s.modCtx c x fun k => { k with replay := k.replay ++ [r] }
    else
      let (s1, keep) := s.replayStep c x r
      if keep then s1.modCtx c x fun k => { k with replay := k.replay ++ [r] } else s1) s0).modCtx c x Context.rendezvousAll

end Sys2Proof.Machine
end

