-- ==== Sys2Proof/Machine/Fetch.lean ====
section
/-! DEFINITION. Instruction fetch (R32-R36, R283-R288): parcels through the page tables with execute permission, and the
framing of a bundle. -/
namespace Sys2Proof.Machine

inductive Fetch where
  | ok (s : State) (v : Nat)
  /-- PROT, PAGE after a host refusal, or ECCUE, with the fetch address. -/
  | fault (c : Cause) (a : Addr)
  /-- A page fault is being served (R102). -/
  | stalls (s : State)

/-- The parcel at an address, fetched for the issuing strand. -/
def State.fetchParcel (s : State) (a : Addr) : Fetch :=
  let k := s.here
  match s.xlat s.cur.core .scalar k.root (word57 a) needEx with
  | .prot => .fault .prot a
  | .ok pa m =>
    if s.hbm.badPoison pa 4 then .fault .eccue a
    else .ok (s.tookPage s.cur.core .scalar k.root a.toNat m pa 4 false) (m.read pa 4)
  | .absent pte =>
    if s.pageRefused a then .fault .page a
    else match s.awaitMine a pte with
      | none => .fault .prot a
      | some s1 => .stalls s1

/-- `n` parcels from an address, as one number with the first parcel lowest. -/
def State.fetchParcels (s : State) (a : Addr) : Nat → Fetch
  | 0 => .ok s 0
  | n + 1 => match s.fetchParcel a with
    | .ok s1 v => match s1.fetchParcels (a + 4) n with
      | .ok s2 r => .ok s2 (v + 2 ^ 32 * r)
      | f => f
    | f => f

/-- A word of a bundle: its slot, the address of its first parcel, its bits; no bits where a header stands in its place. -/
structure Framed where
  slot : Strand
  at_ : Addr
  bits : Option Nat
  deriving DecidableEq, Repr

inductive Frame where
  | ok (s : State) (hdr : Nat) (ws : List Framed) (len : Nat)
  | noHeader
  | fault (c : Cause) (a : Addr)
  | stalls (s : State)
  /-- The header and the words before one whose parcels cannot be fetched. -/
  | short (hdr : Nat) (ws : List Framed) (why : Fetch)

/-- The words of a bundle from an address on (R35); framing stops at a header in a word's place (R36). -/
def State.frameWords (s : State) (a : Addr) (len : Nat) : List Strand → Frame
  | [] => .ok s 0 [] len
  | p :: r => match s.fetchParcel a with
    | .fault c f => .short 0 [] (.fault c f)
    | .stalls s1 => .short 0 [] (.stalls s1)
    | .ok s1 v =>
      let n := parcelsOf (v % 4)
      if n = 0 then .ok s1 0 [⟨p, a, none⟩] 0
      else match s1.fetchParcels a n with
        | .fault c f => .short 0 [] (.fault c f)
        | .stalls s2 => .short 0 [] (.stalls s2)
        | .ok s2 bits => match s2.frameWords (a + BitVec.ofNat 57 (4 * n)) (len + n) r with
          | .ok s3 h ws l => .ok s3 h (⟨p, a, some bits⟩ :: ws) l
          | .short h ws f => .short h (⟨p, a, some bits⟩ :: ws) f
          | f => f
/-- The bundle at an address, framed by the PRESENT bits of its header's parcel. -/
def State.frame (s : State) (a : Addr) : Frame :=
  match s.fetchParcel a with
  | .fault c f => .fault c f
  | .stalls s1 => .stalls s1
  | .ok s1 v =>
    if v % 4 != 3 then .noHeader
    else match s1.frameWords (a + 4) 1 (Strand.all.filter fun p => bitOf v (3 + p.num)) with
      | .ok s2 _ ws l => .ok s2 v ws l
      | .short _ ws f => .short v ws f
      | f => f
/-- Parcels of the bundle at an address as strand `p` of a context fetches it, 0 where none can be framed; the fetch leaves no mark. -/
def State.lenAt (s : State) (c : CoreId) (x : Ctx) (p : Strand) (a : Addr) : Nat :=
  match ({ s with cur := { s.cur with core := c, ctx := x, strand := p } }).frame a with
  | .ok _ _ _ n => n
  | _ => 0

end Sys2Proof.Machine
end

