-- ==== Sys2Proof/Machine/Control.lean ====
section
/-! DEFINITION. Branches and jumps (R125), strand control (R99-R101, R116-R118, R126), system words (R113, R127), counters and
tokens (R164-R168), fences (R128). -/
namespace Sys2Proof.Machine

/-! ## Branches and jumps (R98, R106, R125) -/

/-- The strand's word is a taken branch to `a`: the end of the bundle redirects its group (R98), with two bubble cycles
(R106). -/
def State.branchTo (s : State) (a : Addr) : State := s.modMe fun t => { t with redirect := some a }
/-- g31 := next, at latency 1. -/
def State.link (s : State) : State := s.landReg 31 1 (word57 s.next)

def branchIf (i : ScalarWord) (w : SB) (want : Bool) (s : State) : State :=
  s.issue (.scalar i) [w.a] [] fun s =>
    if bitAt (s.rd w.a) w.bit == want then s.branchTo (parcelsFrom s.cur.hdr w.off.toInt) else s
def execBrT (w : SB) (s : State) : Out := .next (branchIf (.brT w) w true s)
def execBrF (w : SB) (s : State) : Out := .next (branchIf (.brF w) w false s)
def execJmp (w : SJ) (s : State) : Out :=
  .next (s.issue (.scalar (.jmp w)) [] [] fun s => s.branchTo (parcelsFrom s.cur.hdr w.off.toInt))
def execCall (w : SJ) (s : State) : Out :=
  .next (s.issue (.scalar (.call w)) [] [31] fun s => s.link.branchTo (parcelsFrom s.cur.hdr w.off.toInt))
/-- A jump to a register: ALIGN when its low two bits are not zero. -/
def jumpReg (i : ScalarWord) (w : SR) (wr : List GReg) (k : State → State) (s : State) : State :=
  s.issue (.scalar i) [w.a] wr fun s =>
    let v := s.rd w.a
    if v.extractLsb' 0 2 != 0 then s.trap .align v else (k s).branchTo (addr57 v)
def execJr (w : SR) (s : State) : Out := .next (jumpReg (.jr w) w [] id s)
def execCallr (w : SR) (s : State) : Out := .next (jumpReg (.callr w) w [31] State.link s)

/-! ## Joined and apart (R99-R101) -/

def execFork (w : SS) (s : State) : Out :=
  .next (s.issue (.scalar (.fork w)) [] [] fun s => s.modMe fun t => { t with
    joined := false, bubble := 2, forced := some (parcelsFrom s.cur.hdr w.off17.toInt) })

/-- The bits of a list of strands. -/
def strandMask (l : List Strand) : BitVec 4 := BitVec.ofNat 4 (l.map fun q => 2 ^ q.num).sum
/-- Records arrivals at a join bit: the first fixes the mask; the arrived strands wait (R99). -/
def Context.arrive (k : Context) (n : BitVec 3) (mask : BitVec 4) (who : List Strand) (p : Strand) (next : Addr) : Context :=
  let j := k.jbit n
  let j := if j.arrived = 0 then { j with mask := mask } else j
  let k := k.setJbit n { j with arrived := j.arrived ||| strandMask who, next := j.next.set p (some next) }
  who.foldl (fun k q => k.modStrand q fun t => { t with life := .waiting (.join n) }) k
/-- join: an apart strand arrives itself; in a joint bundle the lowest slot's join word arrives for every member of its mask
in the group. -/
def execJoin (w : SS) (s : State) : Out :=
  .next (s.issue (.scalar (.join w)) [] [] fun s =>
    if s.cur.joint then
      if s.cur.joined then s
      else
        let who := s.here.group.filter (maskBit w.mask)
        let s1 := s.modHere fun k => (k.arrive w.jjb w.mask who s.cur.strand s.next).rendezvous w.jjb
        { s1 with cur := { s1.cur with joined := true } }
    else s.modHere fun k => (k.arrive w.jjb w.mask [s.cur.strand] s.cur.strand s.next).rendezvous w.jjb)

/-- jbset waits until the strand's earlier class K stores are performed and the replay queue holds nothing of its context
(R101, R289). -/
def execJbset (w : SS) (s : State) : Out :=
  .next (s.issue (.scalar (.jbset w)) [] [] fun s =>
    if s.here.ownStoreBusy s.cur.strand || !s.here.replay.isEmpty then s.stall .interlock
    else s.modHere fun k => k.setJbit w.jb { k.jbit w.jb with flag := true })
def execJbclr (w : SS) (s : State) : Out :=
  .next (s.issue (.scalar (.jbclr w)) [] [] fun s => s.modHere fun k => k.setJbit w.jb { k.jbit w.jb with flag := false })
def execJbwait (w : SS) (s : State) : Out :=
  .next (s.issue (.scalar (.jbwait w)) [] [] fun s => if (s.here.jbit w.jb).flag then s else s.stall (.jbwait w.jb))

/-! ## Ending (R116, R117, R118) -/

/-- Device pages of the stream writes that the strand has still to land are present (R209). -/
def State.landingPages (s : State) : Option State :=
  let ws := (s.me.land.map fun e => match e.what with
    | .elems ws => ws
    | _ => []).flatten
  let (s1, _, ab, _) := s.splitElems s.cur.core s.cur.ctx s.cur.strand .vector false false ws
  match ab with
  | [] => none
  | (e, pte) :: _ => match s1.pageAbsent s.here.root (BitVec.ofNat 57 e.addr) s.here.part pte with
    | some s2 => some s2
    | none => some s1
/-- What an exit of the issuing strand waits for: every command that its context enqueued before it (R116), faulting stores
(R289), its own stream writes (R209); accepted weight swaps are commands here (R273). -/
def State.exitBusy (s : State) (mark : Nat) : Bool :=
  s.here.commandsBusy mark || !s.here.replay.isEmpty || s.here.swaps != 0
/-- The issuing strand ends. -/
def State.endHere (s : State) : State :=
  ((s.flushLanding s.cur.core s.cur.ctx s.cur.strand).rescanLanded s.cur.core s.cur.ctx s.me.land).modHere (·.endStrand s.cur.strand)
/-- The exit that the strand has started: the serial number it waits for and the count it has discarded. -/
def State.exitStart (s : State) : Nat × Nat :=
  match s.me.exitMark with
  | some m => m
  | none => (s.here.serial, 0)
/-- Waits for started work, then ends the strand, or marks it for EXITQ when commands were discarded. -/
def State.exitOn (s : State) (m : Nat × Nat) : State :=
  let s := s.modMe fun t => { t with exitMark := some m }
  if s.exitBusy m.1 then s.stall .exit
  else match s.landingPages with
    | some s1 => s1.stall .exit
    | none =>
      let s := s.modMe fun t => { t with exitMark := none }
      if m.2 = 0 then s.endHere
      else s.modMe fun t => { t with exitq := some (m.2, s.cur.hdr, s.cur.len) }
def execExit (w : SS) (s : State) : Out :=
  .next (s.issue (.scalar (.exit w)) [] [] fun s => if s.cur.ctx == .fw then s else s.exitOn s.exitStart)
/-- exit.ab discards first, once, every command of the context that has not started (R117). -/
def execExitAb (w : SS) (s : State) : Out :=
  .next (s.issue (.scalar (.exitAb w)) [] [] fun s =>
    if s.cur.ctx == .fw then s
    else match s.me.exitMark with
      | some m => s.exitOn m
      | none =>
        let n := (s.here.unstarted fun _ => true).length
        (s.discard s.cur.core s.cur.ctx fun _ => true).exitOn (s.here.serial, n))

/-- The strand stands in one of the conditions that make a context waiting (R134). -/
def Context.strandWaits (k : Context) (p : Strand) : Bool :=
  let t := k.strand p
  let parked := match k.meQueue p with
    | c :: _ => c.phase != .queued || k.touch.any fun u => u.serial == some c.tag.serial
    | [] => false
  match t.life with
  | .ended => true
  | .waiting w => parked || (match w with
    | .queueReg | .token => t.blocked ≥ 32
    | .interlock | .drain => false
    | _ => true)
  | _ => false
/-- A member of a stalled joined group stands where the group stands (R97). -/
def Context.groupWaits (k : Context) : Bool := k.group.any fun q => k.strandWaits q
def Context.isWaiting (k : Context) : Bool :=
  k.yielding || Strand.all.all fun q => k.strandWaits q || ((k.strand q).joined && k.groupWaits)
/-- A context is runnable when some strand of it can go on (R134); one that has yielded is not, until its sibling waits, nor one that is
kept stopped (R357, R371) or whose directory is still to be copied (R340). -/
def Context.runnable (k : Context) : Bool := k.busy && !k.held && !k.triage && !k.copying && !k.isWaiting
def execYield (w : SS) (s : State) : Out :=
  .next (s.issue (.scalar (.yield w)) [] [] fun s =>
    if s.cur.ctx == .fw then s
    else if (s.ctx s.cur.core s.cur.ctx.sibling).runnable then s.modHere fun k => { k with yielding := true } else s)

/-! ## System words (R127) -/

def execTrap (w : SS) (s : State) : Out :=
  .next (s.issue (.scalar (.trap w)) [] [] fun s => s.trap .trapi (w.f.setWidth 64))
/-- The return from the trap that firmware strand `p` serves (R113). A strand that it ends is ended as by exit; memory-extended queues of
the context resume (R316). -/
def State.returnFrom (s : State) (c : CoreId) (p : Strand) : State :=
  match (s.core c).serving.get p with
  | none => s
  | some (x, q) =>
    let ends := (s.strand c x q).ending
    let s1 := if ends then (s.flushLanding c x q).rescanLanded c x (s.strand c x q).land else s
    s1.modCore c (·.returnTrap p (s.lenAt c x q))
def execEret (w : SS) (s : State) : Out :=
  .next (s.issue (.scalar (.eret w)) [] [] fun s => s.returnFrom s.cur.core s.cur.strand)
def execRdsr (w : SS) (s : State) : Out :=
  .next (s.issue (.scalar (.rdsr w)) [] [w.ra] fun s => s.landReg w.ra 1 (s.special w.srn))
def execWrsr (w : SS) (s : State) : Out :=
  .next (s.issue (.scalar (.wrsr w)) [w.ra] [] fun s => s.setSpecial w.srn (s.rd w.ra))
def execGuard (w : SS) (s : State) : Out :=
  .next (s.issue (.scalar (.guard w)) [] [] fun s => s.modMe fun t => { t with gselReg := w.ra, gselBit := w.gbit })
/-- brk: with a debugger attached the group halts before the bundle takes effect and resumes at the next bundle when it is
released, as if no word of the bundle had begun to wait; else TRAPI. The next bundle is the one after this in memory, also at the END
of a loop body (log 82). -/
def execBrk (w : SS) (s : State) : Out :=
  .next (s.issue (.scalar (.brk w)) [] [] fun s =>
    if s.here.debugger then
      let grp := s.here.stopGroup s.cur.strand
      (s.modHere fun k => grp.foldl (fun k q => (k.leaveFor q s.next).modStrand q fun t => { t with
        life := .halted, redirect := none, forced := none, bubble := 0 }) k).setRes .trapped
    else s.trap .trapi (w.f.setWidth 64 + 0x20000#64))

/-! ## Completion counters (R164-R166) -/

/-- (Ga + imm8) mod 2^16. -/
def ccOperand (s : State) (w : SS) : BitVec 16 := (s.rd w.cca + w.imm8.setWidth 64).setWidth 16
def Context.addCc (k : Context) (n : BitVec 4) (v : BitVec 16) : Context := { k with cc := k.cc.set n.toNat (k.cc[n.toNat] + v) }
def execCcAdd (w : SS) (s : State) : Out :=
  .next (s.issue (.scalar (.ccAdd w)) [w.cca] [] fun s => s.modHere (·.addCc w.cc (ccOperand s w)))
def execCcSet (w : SS) (s : State) : Out :=
  .next (s.issue (.scalar (.ccSet w)) [w.cca] [] fun s =>
    s.modHere fun k => { k with cc := k.cc.set w.cc.toNat (ccOperand s w) })
/-- A counter wait: the threshold is computed once, at issue, and kept while the strand stalls. -/
def waitCc (i : ScalarWord) (w : SS) (f : BitVec 16 → BitVec 16 → Bool) (s : State) : State :=
  s.issue (.scalar i) (if s.me.threshold.isSome then [] else [w.cca]) [] fun s =>
    let th := s.me.threshold.getD (ccOperand s w)
    if f s.here.cc[w.cc.toNat] th then s.modMe fun t => { t with threshold := none }
    else (s.modMe fun t => { t with threshold := some th }).stall .counter
def execWaitLt (w : SS) (s : State) : Out := .next (waitCc (.waitLt w) w (fun c t => c.ult t) s)
def execWaitGe (w : SS) (s : State) : Out := .next (waitCc (.waitGe w) w (fun c t => t.ule c) s)

/-! ## Tokens (R167, R168) -/

def execTokPush (w : SS) (s : State) : Out :=
  .next (s.issue (.scalar (.tokPush w)) [] [] fun s =>
    if s.here.ownKBusy s.cur.strand || s.here.replay.any (·.strand == s.cur.strand) then s.stall .interlock
    else match s.here.tokens.push s.cur.strand w.dir with
      | none => s.stall .interlock
      | some t => s.modHere fun k => { k with tokens := t })
def execTokPop (w : SS) (s : State) : Out :=
  .next (s.issue (.scalar (.tokPop w)) [] [] fun s =>
    match s.here.tokens.pop s.cur.strand w.dir with
    | none => s.stall .token
    | some t => s.modHere fun k => { k with tokens := t })

/-! ## Fences (R128, R328) -/

/-- Accesses of the classes of a mask (K V M C A F from bit 0) that a fence with this mark waits for. -/
def State.fenceBusy (s : State) (classes : BitVec 6) (mark : Nat) : Bool :=
  let k := s.here
  (classes.getLsbD 0 && ((k.meQueue s.cur.strand).any (fun c => isClassK c.word && c.tag.serial ≤ mark) ||
      !k.replay.isEmpty)) ||
    (classes.getLsbD 1 && k.vectorBusy) || (classes.getLsbD 2 && k.matrixBusy mark) ||
    (classes.getLsbD 3 && k.copyBusy mark) || (classes.getLsbD 4 && s.classABusy s.cur.core s.cur.ctx mark) ||
    (classes.getLsbD 5 && k.fabricBusy mark)
/-- A fence that names V waits for vector results that its own pipeline still has to land. -/
def State.fenceDrains (s : State) (classes : BitVec 6) : Bool :=
  classes.getLsbD 1 && (s.cur.strand == .X || (s.cur.joint && (s.here.strand .X).joined)) &&
    (s.here.strand .X).land.any fun e => match e.what with
      | .elems _ => e.left != 0
      | _ => false
/-- fence: the accesses that were issued or enqueued before it are fixed at its first cycle. -/
def execFence (w : SS) (s : State) : Out :=
  .next (s.issue (.scalar (.fence w)) [] [] fun s =>
    let mark := s.me.mark.getD s.here.serial
    if s.fenceBusy w.classes mark then
      (s.modMe fun t => { t with mark := some mark }).stall (if s.fenceDrains w.classes then .drain else .interlock)
    else s.modMe fun t => { t with mark := none })

end Sys2Proof.Machine
end

