-- ==== Sys2Proof/Machine/Sequencer.lean ====
section
/-! DEFINITION. The loop sequencer (R37, R190-R197): its words, the end of an iteration, branches out of bodies, and the
FIRST and LAST bits. -/
namespace Sys2Proof.Machine

def levelNum (n : BitVec 3) : Fin 6 := ⟨n.toNat % 6, Nat.mod_lt _ (by decide)⟩
def Context.level (k : Context) (n : Fin 6) : Level := k.lv[n.val]
def Context.setLevel (k : Context) (n : Fin 6) (l : Level) : Context := { k with lv := k.lv.set n.val l }
/-- The body of a level contains an address. -/
def Level.holds (l : Level) (a : Addr) : Bool := l.top.toNat ≤ a.toNat && a.toNat ≤ l.fin.toNat
/-- Length of a body in bytes, to order nested bodies. -/
def Level.size (l : Level) : Nat := l.fin.toNat - l.top.toNat
def levels : List (Fin 6) := [0, 1, 2, 3, 4, 5]
/-- Active levels from the innermost outward. -/
def insertLevel (k : Context) (n : Fin 6) : List (Fin 6) → List (Fin 6)
  | [] => [n]
  | m :: r => if (k.level n).size ≤ (k.level m).size then n :: m :: r else m :: insertLevel k n r
def Context.activeLevels (k : Context) : List (Fin 6) :=
  (levels.filter fun n => (k.level n).active).foldr (insertLevel k) []
/-- The innermost active level of a bundle: the one with the smallest body that contains it (R194). -/
def Context.innermost (k : Context) (a : Addr) : Option (Fin 6) := k.activeLevels.find? fun n => (k.level n).holds a

/-- A slot with these FIRST and LAST bits issues its word (R37). -/
def Context.slotIssues (k : Context) (a : Addr) (first last : Bool) : Bool :=
  match k.innermost a with
  | none => true
  | some n =>
    let l := k.level n
    (!first || l.index == 0) && (!last || l.index == l.trip - 1)

/-! ## lp.set, lp.stride (R191) -/

def execLpSet (w : SS) (s : State) : Out :=
  .next (s.issue (.scalar (.lpSet w)) [w.lpa] [] fun s =>
    let l := s.here.level (levelNum w.lv)
    if l.active then s.trap .illegal (word57 s.cur.hdr)
    else s.modHere fun k => k.setLevel (levelNum w.lv)
      { l with trip := (s.rd w.lpa).setWidth 32, stride := Vector.replicate 32 0 })
def execLpStride (w : SS) (s : State) : Out :=
  .next (s.issue (.scalar (.lpStride w)) [w.lpsa] [] fun s =>
    let l := s.here.level (levelNum w.lv)
    if l.active then s.trap .illegal (word57 s.cur.hdr)
    else s.modHere fun k => k.setLevel (levelNum w.lv)
      { l with stride := l.stride.set w.lpas.toNat ((s.rd w.lpsa).setWidth 32) })

/-! ## lp.run (R192) -/

/-- What the walk from TOP to END finds. -/
inductive LoopWalk where
  | reached (s : State) (after : Addr)
  | not
  | page (a : Addr)
  | stalls (s : State)
/-- Walks bundle by bundle, at most `n` bundles (the loop buffer holds 256). -/
def State.walkBody (s : State) (a fin : Addr) : Nat → LoopWalk
  | 0 => .not
  | n + 1 => match s.frame a with
    | .noHeader => .not
    | .fault .page f => .page f
    | .fault _ _ => .not
    | .short _ _ (.fault .page f) => .page f
    | .stalls s1 | .short _ _ (.stalls s1) => .stalls s1
    | .short _ _ _ => .not
    | .ok s1 _ ws len =>
      if ws.any (·.bits.isNone) then .not
      else
        let next := a + BitVec.ofNat 57 (4 * len)
        if a == fin then .reached s1 next else if fin.toNat < next.toNat then .not else s1.walkBody next fin n
/-- The words of K's sequencer redirect the group three cycles later (R98, R192, R196). -/
def State.sequenceTo (s : State) (a : Addr) : State := s.modMe fun t => { t with forced := some a, bubble := 2 }
def execLpRun (w : SS) (s : State) : Out :=
  .next (s.issue (.scalar (.lpRun w)) [] [] fun s =>
    let n := levelNum w.lv
    let l := s.here.level n
    let top := s.next
    let fin := s.cur.hdr + BitVec.ofNat 57 (4 * w.off14.toNat)
    if l.active || s.here.activeLevels.any fun m => !((s.here.level m).holds top && (s.here.level m).holds fin) then
      s.trap .illegal (word57 s.cur.hdr)
    else match s.walkBody top fin 256 with
      | .not => s.trap .illegal (word57 s.cur.hdr)
      | .page a => s.clearRefused.trap .page (word57 a)
      | .stalls s1 => s1.stall .page
      | .reached s1 after =>
        let l := { l with run := l.run + 1, index := 0 }
        if l.trip = 0 then (s1.modHere (·.setLevel n l)).sequenceTo after
        else s1.modHere (·.setLevel n { l with
          active := true, top := top, fin := fin, after := after, joint := s.cur.joint }))

/-! ## The end of an iteration (R193) -/

/-- The position, counts and fetched elements of a stream start again (R179). -/
def StreamReg.restart (r : StreamReg) : StreamReg := { r with pos := 0, arrived := 0, consumed := 0, ahead := [] }
/-- BASE moves by STRIDE elements of the stream's format, rounded down to whole bytes. -/
def StreamReg.step (r : StreamReg) (stride : BitVec 32) : StreamReg :=
  { r.restart with base := r.base + BitVec.ofInt 64 ((stride.toInt * ((Fmt.ofCode r.fmt).width : Int)).fdiv 8) }
/-- Steps every stream for which the level has a stride. -/
def Context.stepStreams (k : Context) (l : Level) : Context :=
  (List.finRange 32).foldl (fun k i => if l.stride[i.val] = 0 then k
    else { k with streams := k.streams.set i.val ((k.streams[i.val]).step l.stride[i.val]) }) k
/-- LOOP_STEP: the levels whose END has issued act from the innermost outward, until one returns to its TOP. -/
def Context.endIteration (k : Context) (hdr : Addr) (joint : Bool) : List (Fin 6) → Context × Option Addr
  | [] => (k, none)
  | n :: r =>
    let l := k.level n
    if l.fin != hdr || l.joint != joint then k.endIteration hdr joint r
    else if l.index.toNat + 1 < l.trip.toNat then
      ((k.setLevel n { l with index := l.index + 1 }).stepStreams l, some l.top)
    else (k.setLevel n { l with active := false }).endIteration hdr joint r

/-! ## Branches out of a body (R195) -/

/-- A taken branch of what replays the bodies, from the bundle at `hdr` to `a`: active levels whose body does not hold the
target go idle. -/
def Context.leaveBodies (k : Context) (hdr a : Addr) (joint : Bool) : Context :=
  let mine := k.activeLevels.filter fun n => (k.level n).joint == joint
  match mine.find? fun n => (k.level n).holds hdr with
  | none => k
  | some inner =>
    if (k.level inner).holds a then k
    else mine.foldl (fun k n => if (k.level n).holds a then k else k.setLevel n { k.level n with active := false }) k

/-! ## lp.brk, lp.clamp (R196, R197) -/

/-- A command that lp.brk discards: sq = 1, and its stamp records the level active in this run at iteration `i` or later. -/
def brkPicks (n : Fin 6) (l : Level) (t : Tag) : Bool :=
  let p := t.stamp[n.val]
  t.sq && p.active && p.run == l.run && l.index.toNat ≤ p.index.toNat
def execLpBrk (w : SS) (s : State) : Out :=
  .next (s.issue (.scalar (.lpBrk w)) [] [] fun s =>
    let n := levelNum w.lv
    let l := s.here.level n
    if !l.active then s
    else
      let s1 := s.modHere fun k => levels.foldl (fun k m =>
        let b := k.level m
        if b.active && l.holds b.top && l.holds b.fin then k.setLevel m { b with active := false } else k) k
      (s1.discard s.cur.core s.cur.ctx (brkPicks n l)).sequenceTo l.after)
/-- Clamps an active level so that its TRIP is at most a limit or ends with the current iteration (R197). -/
def Context.clampTo (k : Context) (lv : BitVec 3) (v : BitVec 32) : Context :=
  let n := levelNum lv
  let l := k.level n
  if l.active then
    let k1 := k.setLevel n { l with trip := BitVec.ofNat 32 (max (l.index.toNat + 1) (min l.trip.toNat v.toNat)) }
    if k1.clamp.isSome then k1 else { k1 with clamp := some (lv, l.trip) }
  else k
/-- lp.clamp acts on the task context at whose bundle boundary the firmware bundle issues. -/
def execLpClamp (w : SS) (s : State) : Out :=
  .next (s.issue (.scalar (.lpClamp w)) [w.lpa] [] fun s =>
    s.modCtx s.cur.core s.myCore.boundary fun k => k.clampTo w.lv ((s.rd w.lpa).setWidth 32))

end Sys2Proof.Machine
end

