-- ==== Sys2Proof/Machine/VectorOps.lean ====
section
/-! DEFINITION. What the vector words compute (R213-R226): lists of elements in, a list of elements out, with saturation and
the generator's draws (R72). -/
namespace Sys2Proof

/-- Value and poison of an element. -/
structure Elem where
  val : Nat
  poison : Bool
  deriving DecidableEq, Repr

/-- What a word computes: the elements of its destination from element 0 on, those that it writes to its auxiliary stream,
whether anything saturated, and the generator afterwards. -/
structure VOut where
  outs : List Elem
  aux : List Elem
  sat : Bool
  sr : BitVec 32
  deriving DecidableEq, Repr

/-- `n` draws, in order (R71); without SR there are none, and each u is 0. -/
def draws (rnd : Rnd) : Nat → BitVec 32 → List Nat × BitVec 32
  | 0, x => ([], x)
  | n + 1, x =>
    match rnd with
    | .sr =>
      let x1 := xorshift x
      let (l, y) := draws rnd n x1
      (drawOf x1 :: l, y)
    | _ =>
      let (l, y) := draws rnd n x
      (0 :: l, y)

/-- `Fit` of R213: rounds or fits an exact result into a format. -/
def fitTo (f : Fmt) (rnd : Rnd) (sat : Bool) (u : Nat) (v : Val) : Cvt := f.convert rnd sat u true v
def Cvt.elem (c : Cvt) (poison : Bool) : Elem := ⟨c.code, c.poison || poison⟩

/-- A word that converts one exact value for each element: values with their poison, a draw for each. -/
def mapFit (f : Fmt) (rnd : Rnd) (sat : Bool) (sr : BitVec 32) (vs : List (Val × Bool)) : VOut :=
  let (us, sr1) := draws rnd vs.length sr
  let cs := (vs.zip us).map fun (v, u) => (fitTo f rnd sat u v.1, v.2)
  ⟨cs.map fun c => c.1.elem c.2, [], cs.any (·.1.sat), sr1⟩
/-- A word that only moves or combines patterns: no rounding, no draw. -/
def plainOut (sr : BitVec 32) (es : List Elem) : VOut := ⟨es, [], false, sr⟩

/-! ## Element-wise words (R213) -/

def absVal : Val → Val
  | .fin _ m e => .fin false m e
  | .inf _ => .inf false
  | .nan => .nan
/-- vadd, vsub, vmul and the one-source words: an exact function of the elements' values. -/
def unaryVal (f : Fmt) (op : Val → Val) (a : List Elem) : List (Val × Bool) := a.map fun x => (op (f.val x.val), x.poison)
def binaryVal (f : Fmt) (op : Val → Val → Val) (a b : List Elem) : List (Val × Bool) :=
  (a.zip b).map fun (x, y) => (op (f.val x.val) (f.val y.val), x.poison || y.poison)
def ternaryVal (f : Fmt) (op : Val → Val → Val → Val) (a b d : List Elem) : List (Val × Bool) :=
  (a.zip (b.zip d)).map fun (x, y, z) => (op (f.val x.val) (f.val y.val) (f.val z.val), x.poison || y.poison || z.poison)
/-- Patterns combined bit by bit. -/
def bitwise (op : Nat → Nat → Nat) (a b : List Elem) : List Elem :=
  (a.zip b).map fun (x, y) => ⟨op x.val y.val, x.poison || y.poison⟩

/-- vmin, vmax on two patterns (R78): the lesser or the greater, the other operand of one NaN. -/
def minmaxCode (f : Fmt) (isMax : Bool) (x y : Nat) : Nat :=
  let a := f.val x
  let b := f.val y
  match f.fp? with
  | some l =>
    if isNan a && isNan b then l.nanCode
    else if isNan a then y
    else if isNan b then x
    else if isMax then (if belowVal a b then y else x) else if belowVal b a then y else x
  | none => if isMax then (if ltVal a b then y else x) else if ltVal b a then y else x
def minmax (f : Fmt) (isMax : Bool) (a b : List Elem) : List Elem := bitwise (minmaxCode f isMax) a b
/-- vshl, vshr, vsar: the amount is the low 4 or 5 bits of b. -/
inductive ShiftOp where
  | left | right | arith
  deriving DecidableEq, Repr
def shiftCode (op : ShiftOp) (w x y : Nat) : Nat :=
  let k := y % w
  match op with
  | .left => x * 2 ^ k % 2 ^ w
  | .right => x / 2 ^ k
  | .arith => ((signedOf w x).fdiv (2 ^ k : Nat) % (2 ^ w : Nat)).toNat
/-- vcmp: all ones or zero (R214). -/
def maskCode (w : Nat) (b : Bool) : Nat := if b then 2 ^ w - 1 else 0
def compare (f : Fmt) (cond : Val → Val → Bool) (a b : List Elem) : List Elem :=
  bitwise (fun x y => maskCode f.width (cond (f.val x) (f.val y))) a b
def leVal (a b : Val) : Bool := ltVal a b || eqVal a b
/-- vscale: a × 2^(c − 127) (R213). -/
def scaleBy (f : Fmt) (a b : List Elem) : List (Val × Bool) :=
  (a.zip b).map fun (x, y) => (scaleVal (f.val x.val) ((y.val % 256 : Nat) - 127), x.poison || y.poison)

/-! ## Select, permute, count (R215-R217) -/

def select (mask a b : List Elem) : List Elem :=
  (mask.zip (a.zip b)).map fun (m, x, y) => let e := if m.val != 0 then x else y; ⟨e.val, e.poison || m.poison⟩
/-- An element of FP counts as non-zero unless it is ±0; of another format when its pattern is not 0. -/
def nonZero (f : Fmt) (x : Nat) : Bool := !isZero (f.val x)
def countNonZero (f : Fmt) (a : List Elem) : Nat := (a.filter fun e => nonZero f e.val).length

/-! ## Reductions and scans (R87, R88, R218, R219) -/

/-- One level of the tree: results 2i and 2i+1 combined, with a draw for each node. -/
def treeLevel (op : Nat → Nat → Nat → Nat × Bool) : List Nat → List Nat → List Nat × Bool × List Nat
  | x :: y :: r, u :: us =>
    let (v, s) := op u x y
    let (l, t, rest) := treeLevel op r us
    (v :: l, s || t, rest)
  | l, us => (l, false, us)
/-- The tree down to one value. -/
def tree (op : Nat → Nat → Nat → Nat × Bool) : Nat → List Nat → List Nat → Nat × Bool
  | 0, l, _ => (l.headD 0, false)
  | n + 1, l, us =>
    let (l1, s, us1) := treeLevel op l us
    let (v, t) := tree op n l1 us1
    (v, s || t)
/-- Levels of the tree over the elements of a vector register: 7 for 32-bit formats, 8 for 16-bit ones. -/
def treeDepth (f : Fmt) : Nat := if f.width = 32 then 7 else 8
inductive RedOp where
  | add | max | min
  deriving DecidableEq, Repr
/-- The identity of a reduction, as a code (R87). -/
def redIdentity (f : Fmt) (op : RedOp) : Nat :=
  match op, f.fp? with
  | .add, _ => 0
  | .max, some l => l.signBit + l.infCode
  | .min, some l => l.infCode
  | .max, none => f.pattern f.least
  | .min, none => f.pattern f.greatest
def redNode (f : Fmt) (op : RedOp) (rnd : Rnd) (sat : Bool) (u x y : Nat) : Nat × Bool :=
  match op with
  | .add => let c := fitTo f rnd sat u (addVal rnd (f.val x) (f.val y)); (c.code, c.sat)
  | .max => (minmaxCode f true x y, false)
  | .min => (minmaxCode f false x y, false)
/-- The root of a reduction, whether a node saturated, and the generator afterwards. -/
def reduce (f : Fmt) (op : RedOp) (rnd : Rnd) (sat : Bool) (sr : BitVec 32) (a : List Elem) : Nat × Bool × BitVec 32 :=
  let n := 2 ^ treeDepth f
  let (us, sr1) := draws rnd (n - 1) sr
  let l := (a.map (·.val) ++ List.replicate (n - a.length) (redIdentity f op)).take n
  let (v, s) := tree (redNode f op rnd sat) (treeDepth f) l us
  (v, s, sr1)
/-- vscan.add from the partial sum `acc`. -/
def scan (f : Fmt) (rnd : Rnd) (sat : Bool) : Nat → Bool → List (Elem × Nat) → List Elem × Bool
  | _, _, [] => ([], false)
  | acc, po, (e, u) :: r =>
    let c := fitTo f rnd sat u (addVal rnd (f.val acc) (f.val e.val))
    let po := po || e.poison
    let (l, s) := scan f rnd sat c.code po r
    (⟨c.code, po⟩ :: l, c.sat || s)
def scanAdd (f : Fmt) (rnd : Rnd) (sat : Bool) (sr : BitVec 32) (a : List Elem) : VOut :=
  let (us, sr1) := draws rnd a.length sr
  let (l, s) := scan f rnd sat 0 false (a.zip us)
  ⟨l, [], s, sr1⟩

/-! ## Conversion (R221-R224) -/

/-- Conversion of codes from one format to another; between identical formats a pattern is kept, but for a NaN and T2's
second zero (R62, R221). From T2 and X8 to integers it clamps as from floats, log 69. -/
def convertCode (f g : Fmt) (rnd : Rnd) (sat : Bool) (u x : Nat) : Cvt :=
  if f == g then
    match f.fp? with
    | some l => if isNan (f.val x) then ⟨l.nanCode, false, false⟩ else ⟨x, false, false⟩
    | none => if f == .t2 && x == 2 then ⟨0, false, false⟩ else ⟨x, false, false⟩
  else f.convert rnd sat u g.isInt (g.val x)
def convertAll (f g : Fmt) (rnd : Rnd) (sat : Bool) (sr : BitVec 32) (a : List Elem) : VOut :=
  let (us, sr1) := draws rnd a.length sr
  let cs := (a.zip us).map fun (e, u) => (convertCode f g rnd sat u e.val, e.poison)
  ⟨cs.map fun c => c.1.elem c.2, [], cs.any (·.1.sat), sr1⟩

/-- Blocks of 24, the last one shorter. -/
def blocks24 {α : Type} : Nat → List α → List (List α)
  | 0, _ => []
  | n + 1, l => if l.isEmpty then [] else l.take 24 :: blocks24 n (l.drop 24)
/-- Largest finite value of a quantised format, as a value (R223). -/
def quantMax : Fmt → Nat
  | .i8 => 127 | .t2 => 1 | .f4 => 6 | .f8a => 480 | _ => 114688
/-- The greater magnitude of two, with a NaN as 0. -/
def maxMag (a b : Val) : Val :=
  let a := if isNan a then .fin false 0 0 else absVal a
  let b := if isNan b then .fin false 0 0 else absVal b
  if ltVal a b then b else a
/-- m / 2^(c − 127) rounds into the range of the format: its magnitude before any clamp is at most L. -/
def scaleFits (f : Fmt) (rnd : Rnd) (m : Val) (c : Nat) : Bool :=
  match scaleVal m (127 - (c : Int)) with
  | .fin _ k e =>
    let (p, q) : Nat × Int := match f.fp? with
      | some l => (l.p, l.qmin)
      | none => (0, 0)
    let unit := if f.fp?.isSome then unitOf p q k e else 0
    !(exceeds (roundAt rnd false 0 k e unit) unit (quantMax f) 0)
  | _ => false
/-- The scale code of a block (R223): the least code that fits; larger codes fit as well, so a search by bits finds it. -/
def scaleSearch (f : Fmt) (rnd : Rnd) (m : Val) : Nat → Nat → Nat
  | 0, c => c
  | n + 1, c => if scaleFits f rnd m (c + 2 ^ n - 1) then scaleSearch f rnd m n c else scaleSearch f rnd m n (c + 2 ^ n)
def scaleCode (f : Fmt) (rnd : Rnd) (m : Val) : Nat :=
  if isZero m then 127
  else match m with
    | .inf _ => 255
    | _ => min 255 (scaleSearch f (if rnd == .sr then .rup else rnd) m 8 0)
/-- vq over a list of blocks of elements with their draws. Every element of a block contributes to its scale, and so to each result
(R68). -/
def quantBlocks (f g : Fmt) (rnd : Rnd) : List (List (Elem × Nat)) → List Elem × List Elem × Bool
  | [] => ([], [], false)
  | b :: r =>
    let m := (b.map fun e => g.val e.1.val).foldl maxMag (.fin false 0 0)
    let c := scaleCode f rnd m
    let po := b.any (·.1.poison)
    let cs := b.map fun e => (f.convert rnd false e.2 false (scaleVal (g.val e.1.val) (127 - (c : Int))), po)
    let (l, x, s) := quantBlocks f g rnd r
    (cs.map (fun c => c.1.elem c.2) ++ l, ⟨c, po⟩ :: x, cs.any (·.1.sat) || s)
def quantise (f g : Fmt) (rnd : Rnd) (sr : BitVec 32) (a : List Elem) : VOut :=
  let (us, sr1) := draws rnd a.length sr
  let (l, x, s) := quantBlocks f g rnd (blocks24 a.length (a.zip us))
  ⟨l, x, s, sr1⟩
/-- vdq: block j is scaled by code j. -/
def dequantise (f g : Fmt) (rnd : Rnd) (sat : Bool) (sr : BitVec 32) (a sc : List Elem) : VOut :=
  let vs := ((blocks24 a.length a).zip sc).map fun (b, c) =>
    b.map fun e => (scaleVal (g.val e.val) ((c.val : Int) - 127), e.poison || c.poison)
  let vs := vs.flatten
  let (us, sr1) := draws rnd vs.length sr
  let cs := (vs.zip us).map fun (v, u) => (f.convert rnd sat u false v.1, v.2)
  ⟨cs.map fun c => c.1.elem c.2, [], cs.any (·.1.sat), sr1⟩

/-! ## Sparse groups (R225, R226) -/

/-- Rank of an element by magnitude: a NaN above every number. -/
def outranks (f : Fmt) (x y : Nat) : Bool :=
  let a := f.val x
  let b := f.val y
  if isNan b then false else if isNan a then true else ltVal (absVal b) (absVal a)
/-- Positions of the n largest of a group; ties go to the lower position. -/
def keptPositions (f : Fmt) (g : List Elem) (n : Nat) : List Nat :=
  let ix := g.zip (List.range g.length)
  (ix.filter fun (e, i) =>
    (ix.filter fun (d, j) => outranks f d.val e.val || (!outranks f e.val d.val && j < i)).length < n).map (·.2)
/-- Whole groups of 24. -/
def groups24 {α : Type} (l : List α) : List (List α) := blocks24 (l.length / 24) l
/-- vsp: kept elements and metadata words. -/
def compress (f : Fmt) (n : Nat) (sr : BitVec 32) (a : List Elem) : VOut :=
  let gs := (groups24 a).map fun g =>
    let ks := keptPositions f g n
    (ks.filterMap fun i => g[i]?, (⟨(ks.map (2 ^ ·)).sum, g.any (·.poison)⟩ : Elem))
  ⟨(gs.map (·.1)).flatten, gs.map (·.2), false, sr⟩
/-- One group of vdsp: kept values go to the positions whose bits are 1. -/
def expandGroup (md : Nat) : Nat → List Elem → List Elem
  | 0, _ => []
  | n + 1, l =>
    if md % 2 = 1 then (match l with
      | e :: r => e :: expandGroup (md / 2) n r
      | [] => ⟨0, false⟩ :: expandGroup (md / 2) n [])
    else ⟨0, false⟩ :: expandGroup (md / 2) n l
def popCount : Nat → Nat → Nat
  | 0, _ => 0
  | n + 1, v => v % 2 + popCount n (v / 2)
def chunks {α : Type} (k : Nat) : Nat → List α → List (List α)
  | 0, _ => []
  | n + 1, l => l.take k :: chunks k n (l.drop k)
/-- vdsp: a bad metadata word gives a group of poisoned zeros. -/
def expand (n : Nat) (sr : BitVec 32) (a md : List Elem) : VOut :=
  let gs := ((chunks n md.length a).zip md).map fun (l, m) =>
    let bad := m.val / 2 ^ 24 != 0 || popCount 24 m.val != n
    let es := if bad then List.replicate 24 (⟨0, true⟩ : Elem) else expandGroup m.val 24 l
    es.map fun e => ⟨e.val, e.poison || m.poison⟩
  ⟨gs.flatten, [], false, sr⟩

end Sys2Proof
end

