-- ==== Sys2Proof/Machine/Streams.lean ====
section
/-! DEFINITION. Address streams (R138, R177-R183, R202, R203): reaching the elements of a stream, the fetch side, and the
configuration words. -/
namespace Sys2Proof.Machine

/-! ## Reaching elements (R142-R149, R207) -/

inductive Reach where
  | fault (c : Cause) (eval : Word)
  | stalls (s : State) (w : Wait)
  | ok (s : State) (ps : List Place)
/-- A misaligned element faults ALIGN; one outside its segment SEGBOUND. -/
def Spot.localFault (p : Spot) (len : Nat) : Option (Cause × Word) :=
  if p.addr % p.bytes != 0 then some (.align, p.eval)
  else if p.addr < 0 || p.addr + p.bytes > len then some (.segbound, p.eval)
  else none
/-- The stream TLB of a word of X, of a matrix command, of a copy or a fabric command (R156). -/
def streamUnit (p : Strand) : Option Nat → TlbUnit
  | none => .vector
  | some _ => if p == .X then .matrix else .copy
/-- Translates for a stream. A page-out waits for a matrix command that has started and for a started remote access; until then the
page is theirs still (R241, R287, R292). -/
def State.heldPage (s : State) (c : CoreId) (x : Ctx) (p : Strand) (serial : Option Nat) (addr : Word) (n : Need) : Xlat :=
  let k := s.ctx c x
  let holds : Bool := match serial with
    | none => false
    | some m => k.mx.any (fun q => q.tag.serial == m && q.phase != .queued) ||
        (k.fabL ++ k.fabS).any fun q => q.tag.serial == m && q.phase != .queued
  match (if holds then s.hbm.outs.find? fun o => o.root == k.root && o.va ≤ addr.toNat && addr.toNat < o.va + o.size else none) with
  | some o => if permitted o.pte n then .ok (entryAddr o.pte + (addr.toNat - o.va)) s.mem else .prot
  | none => s.xlat c (streamUnit p serial) k.root addr n
/-- The elements of a device stream that strand `p`, or its command `serial`, reads or writes, in order. An absent page stalls, but for
a vector word's destination (`later`), whose element is then found again when it lands. A word's own read waits behind the strand's
stores to the page in the replay queue (R289). -/
def State.reachDev (s : State) (c : CoreId) (x : Ctx) (p : Strand) (serial : Option Nat) (n : Need) (later : Bool) : List Spot → Reach
  | [] => .ok s []
  | e :: r =>
    let u := streamUnit p serial
    let root := (s.ctx c x).root
    if e.addr % e.bytes != 0 then .fault .align e.eval
    else if serial.isNone && !later && (s.ctx c x).replayHolds p e.eval.toNat then .stalls s .page
    else match s.heldPage c x p serial e.eval n with
      | .prot => .fault .prot e.eval
      | .ok pa m =>
        let s := ((s.tookPage c u root e.eval.toNat m pa e.bytes false).walkAhead c u root e.eval.toNat n).spendToken c
        if n.data && s.hbm.badPoison pa e.bytes then .fault .eccue e.eval
        else match s.reachDev c x p serial n later r with
          | .ok s1 ps => .ok s1 (.dev pa :: ps)
          | f => f
      | .absent pte =>
        if s.refusedAt c x p serial e.eval.toNat then .fault .page e.eval
        else match (if later then s.pageAbsent (s.ctx c x).root (addr57 e.eval) (s.ctx c x).part pte
            else s.awaitPage c x p serial (addr57 e.eval) pte) with
          | none => .fault .prot e.eval
          | some s1 =>
            if later then s1.reachDev c x p serial n later r
            else .stalls s1 .page
/-- Finds the elements of a stream that strand `p`, or its command `serial`, reads or writes. -/
def State.reach (s : State) (c : CoreId) (x : Ctx) (p : Strand) (serial : Option Nat) (ticket : BitVec 32) (sn : Snap)
    (n : Need) (later : Bool) (es : List Spot) : Reach :=
  let h := sn.reg.handle
  if !sn.reg.bound then .fault .segfail (segEval 0xFFFF h)
  else if sn.reg.space == 1 then s.reachDev c x p serial n later es
  else if sn.name == 0xFFFF then .fault .segfail (segEval 0xFFFF h)
  else match s.segDesc c x sn.name with
    | .fails => .fault .segfail (segEval sn.name h)
    | .page va pte => match s.touchPage c x p serial ticket sn.name va pte with
      | .waits s1 => .stalls s1 .segment
      | _ => .fault .segfail (segEval sn.name h)
    | .found g => match es.findSome? (·.localFault g.bytes) with
      | some (cause, ev) => .fault cause ev
      | none =>
        if ((s.core c).seg? x sn.name).isNone && g.granules > (s.ctx c x).room g.isAcc then
          .fault .segfail (segEval sn.name h)
        else match s.touchSeg c x p serial ticket sn.name with
          | .fails _ => .fault .segfail (segEval sn.name h)
          | .waits s1 => .stalls s1 .segment
          | .ready s1 _ => .ok s1 (es.map fun e => .seg c x sn.name e.addr.toNat)

/-- A stream as a command enqueued now sees it (R143, R160). -/
def Context.snap (k : Context) (x : Ctx) (t : BitVec 5) : Snap :=
  let r := k.streams[t.toNat]
  ⟨r, if r.space == 0 then (resolveHandle k x r.handle).getD 0xFFFF else 0xFFFF⟩
def Context.modStream (k : Context) (t : BitVec 5) (f : StreamReg → StreamReg) : Context :=
  { k with streams := k.streams.set t.toNat (f k.streams[t.toNat]) }

def State.elemAt (s : State) (e : Spot) (p : Place) : Elem :=
  ⟨s.readPlace p e.bytes / 2 ^ e.bit % 2 ^ e.width, s.poisonPlace p e.bytes⟩
/-- An element to be written. -/
def Spot.write (e : Spot) (sn : Snap) (v : Elem) : ElemWrite :=
  { seg := if sn.reg.space == 1 then none else some sn.name, addr := e.eval.toNat, bytes := e.bytes, val := v.val, bit := e.bit
    width := if e.width < 8 then e.width else 0, poison := v.poison }

/-! ## The fetch side (R203) -/

/-- Takes an element that has been fetched ahead. -/
def takeAhead (k w : Nat) : List Ahead → Option (Ahead × List Ahead)
  | [] => none
  | a :: r => if a.index == k && a.width == w then some (a, r)
    else (takeAhead k w r).map fun (b, l) => (b, a :: l)
/-- The values of the elements `ks`, found at these places; one that was fetched ahead keeps the value it had then. -/
def State.takeElems (s : State) (w : Nat) (useAhead : Bool) : List (Nat × Spot × Place) → List Ahead → List Elem × List Ahead
  | [], l => ([], l)
  | (k, e, p) :: r, l =>
    match takeAhead k w l with
    | some (a, l1) =>
      let (es, l2) := s.takeElems w useAhead r l1
      ((if useAhead then ⟨a.val, a.poison⟩ else s.elemAt e p) :: es, l2)
    | none =>
      let (es, l2) := s.takeElems w useAhead r (l.filter (·.index != k))
      (s.elemAt e p :: es, l2)
/-- The word takes `n` linear indices (R202). -/
def StreamReg.advance (r : StreamReg) (n : Nat) : StreamReg :=
  { r with pos := (r.pos + n) % r.total, consumed := r.consumed + n, arrived := max r.arrived (r.consumed + n) }

/-- STREAM_FETCH: the next element that the fetch side does not hold arrives, in a width in bits (R203). An absent segment is
touched; at any other fault the fetch side halts. -/
def execStreamFetch (c : CoreId) (x : Ctx) (t : BitVec 5) (width : Nat) (s : State) : Out :=
  .next (s.unlessFrozen c (
    let r := (s.ctx c x).streams[t.toNat]
    if !(width == 2 || width == 4 || width == 8 || width == 16 || width == 32) then s
    else
      let i := ((List.range (r.ahead.length + 1)).find? fun i =>
        (r.ahead.filter (·.index == (r.pos + i) % r.total)).length ≤ i / r.total).getD r.ahead.length
      let k := (r.pos + i) % r.total
      let e := r.spot width 0 k
      match s.reach c x .X none (s.ctx c x).ticket ((s.ctx c x).snap x t) needRd false [e] with
      | .ok s1 [p] =>
        let v := s1.elemAt e p
        s1.modCtx c x (·.modStream t fun r => { r with
          ahead := r.ahead ++ [⟨k, width, v.val, v.poison⟩], arrived := max r.arrived (r.consumed + i + 1) })
      | .stalls s1 _ => s1
      | _ => s))

/-! ## Configuration words (R178-R180) -/

/-- A register from its 64-byte descriptor; dimensions at or above NDIM are ignored (R178). -/
def StreamReg.ofDescriptor (d : BitVec 512) : StreamReg :=
  { bound := true, space := d.extractLsb' 57 1, handle := d.extractLsb' 58 6, base := (d.extractLsb' 0 57).setWidth 64
    fmt := d.extractLsb' 64 4, ndim := d.extractLsb' 68 4
    dims := Vector.ofFn fun i : Fin 16 => if (d.extractLsb' 68 4).toNat < i.val then Dim.reset else
      ⟨(d.extractLsb' (96 + 26 * i.val) 12).setWidth 16, (d.extractLsb' (108 + 26 * i.val) 14).signExtend 32⟩
    blk := d.extractLsb' 72 8, sstr := d.extractLsb' 80 16, pos := 0, arrived := 0, consumed := 0, ahead := [] }

/-- A configuration word of L: it pops its tokens, after its checks (log 69), acts, and pushes its tokens when its results land (R169). -/
def cfWord (i : WideWord) (w : CF) (rd wr : List GReg) (body : State → (State → State) → State) (s : State) : State :=
  s.issue (.wide i) rd wr fun s => body s fun s =>
    s.popTokens w.pre.tok fun s => if w.pre.tok &&& 12 = 0 then s else s.landWith 1 false w.pre.tok .tokens

/-- Sets the stream register that a word names. -/
def State.setStream (s : State) (t : BitVec 5) (f : StreamReg → StreamReg) : State := s.modHere (·.modStream t f)
/-- Stalls keep their own effects; a word that issues has its effect only after its tokens are popped. -/
def State.thenIssue (s : State) (go : State → State) (f : State → State) : State :=
  let s1 := go s
  if s1.cur.res == .done then f s1 else s1

def execAsCfg (w : CF) (s : State) : Out :=
  .next (cfWord (.asCfg w) w [w.a] [] (fun s go =>
    let off := s.rd w.a + 64 * w.imm.setWidth 64
    match s.localAt s.cur.core s.cur.ctx .L none s.cur.ticket (resolveHandle s.here s.cur.ctx w.handle) w.handle off 64 with
    | .fault c e => s.trap c e
    | .stalls s1 => s1.stall .segment
    | .ok s1 p =>
      if s1.poisonPlace p 64 then s1.trap .poison off
      else
        let d := BitVec.ofNat 512 (s1.readPlace p 64)
        s1.thenIssue go fun s => s.setStream w.t fun _ => StreamReg.ofDescriptor d) s)
/-- as.dim gives the dimensions that it adds below its own extent 1 and stride 0 (R254). -/
def StreamReg.setDim (r : StreamReg) (n : BitVec 4) (d : Dim) : StreamReg :=
  { r with dims := Vector.ofFn fun i : Fin 16 =>
             if i.val == n.toNat then d else if r.ndim.toNat < i.val && i.val < n.toNat then Dim.reset else r.dims[i.val]
           ndim := if r.ndim.toNat < n.toNat then n else r.ndim }
def execAsDim (w : CF) (s : State) : Out :=
  .next (cfWord (.asDim w) w [w.a, w.b] [] (fun s go => s.thenIssue go fun s => s.setStream w.t fun r =>
    r.restart.setDim w.dim ⟨(s.rd w.a).setWidth 16, (s.rd w.b).setWidth 32⟩) s)
def execAsFmt (w : CF) (s : State) : Out :=
  .next (cfWord (.asFmt w) w [] [] (fun s go => s.thenIssue go fun s => s.setStream w.t fun r =>
    { r.restart with fmt := w.fmt }) s)
def execAsBindLocal (w : CF) (s : State) : Out :=
  .next (cfWord (.asBindLocal w) w [w.a] [] (fun s go => s.thenIssue go fun s => s.setStream w.t fun r =>
    { r.restart with bound := true, space := 0, handle := w.handle, base := s.rd w.a }) s)
def execAsBindDevice (w : CF) (s : State) : Out :=
  .next (cfWord (.asBindDevice w) w [w.a] [] (fun s go => s.thenIssue go fun s => s.setStream w.t fun r =>
    { r.restart with bound := true, space := 1, base := (addr57 (s.rd w.a)).setWidth 64 }) s)
def execAsRst (w : CF) (s : State) : Out :=
  .next (cfWord (.asRst w) w [] [] (fun s go => s.thenIssue go fun s => s.setStream w.t (·.restart)) s)
/-- as.adv moves the position; elements fetched ahead are kept unless the position passes them. -/
def StreamReg.adv (r : StreamReg) (d : Int) : StreamReg :=
  let passed := if d < 0 then [] else r.indices r.pos (Nat.min d.toNat r.ahead.length)
  { r with pos := (((r.pos : Int) + d).fmod r.total).toNat
           ahead := r.ahead.filter fun a => !passed.contains a.index }
def execAsAdv (w : CF) (s : State) : Out :=
  .next (cfWord (.asAdv w) w [w.a] [] (fun s go => s.thenIssue go fun s => s.setStream w.t (·.adv (s.rd w.a).toInt)) s)

/-! ## Segment words and vector length (R152, R181-R183) -/

def execSgBind (w : CF) (s : State) : Out :=
  .next (cfWord (.sgBind w) w [] [] (fun s go => s.thenIssue go fun s => s.modHere fun k =>
    { k with sg := k.sg.set w.handle.toNat w.name }) s)
/-- Names of the handles of a mask, once each, in handle order; none with the first handle that does not resolve. -/
def maskNames (k : Context) (x : Ctx) (m : Word) : List (BitVec 6) → Except (BitVec 6) (List (BitVec 16 × BitVec 6))
  | [] => .ok []
  | h :: r =>
    if bitAt m h then match resolveHandle k x h with
      | none => .error h
      | some n => match maskNames k x m r with
        | .ok l => .ok ((n, h) :: l.filter (·.1 != n))
        | .error e => .error e
    else maskNames k x m r
def allHandles : List (BitVec 6) := (List.range 64).map (BitVec.ofNat 6)
/-- What a pin set needs of the two stores (R152): the descriptors of its segments, or the first that fails. -/
inductive PinSet where
  | fails (name : BitVec 16) (h : BitVec 6)
  | page (name : BitVec 16) (h : BitVec 6) (va : Addr) (pte : Nat)
  | ok (gs : List (Seg × BitVec 6))
def State.pinSet (s : State) (c : CoreId) (x : Ctx) : List (BitVec 16 × BitVec 6) → PinSet
  | [] => .ok []
  | (n, h) :: r => match s.segDesc c x n with
    | .fails => .fails n h
    | .page va pte => .page n h va pte
    | .found g => match s.pinSet c x r with
      | .ok gs => .ok ((g, h) :: gs)
      | f => f
/-- Granules that the unpinned segments of a set add in a store. -/
def pinNeed (gs : List (Seg × BitVec 6)) (acc : Bool) : Nat :=
  ((gs.filter fun g => g.1.isAcc == acc && g.1.pins == 0).map fun g => g.1.granules).sum
/-- The set's absent and unpinned total in a store, which may not exceed quota − reserve. -/
def pinOver (k : Context) (absent : BitVec 16 → Bool) (acc : Bool) : List (Seg × BitVec 6) → Nat → Option (BitVec 16 × BitVec 6)
  | [], _ => none
  | (g, h) :: r, n =>
    let n := if g.isAcc == acc && g.pins == 0 && absent g.name then n + g.granules else n
    if n > k.quota acc - k.reserve acc then some (g.name, h) else pinOver k absent acc r n
/-- All segments of the set can be resident and pinned together (R152). -/
def Context.pinFits (k : Context) (gs : List (Seg × BitVec 6)) : Bool :=
  [false, true].all fun acc => k.pinnedGranules acc + pinNeed gs acc + k.reserve acc ≤ k.quota acc
/-- Brings every segment of an admitted set in: none left absent. -/
def State.touchAll (s : State) (c : CoreId) (x : Ctx) (p : Strand) (ticket : BitVec 32) : List (BitVec 16) → State × Bool × Option (BitVec 16)
  | [] => (s, true, none)
  | n :: r => match s.touchSeg c x p none ticket n with
    | .fails s1 => (s1, false, some n)
    | .waits s1 => let (s2, _, f) := s1.touchAll c x p ticket r; (s2, false, f)
    | .ready s1 _ => s1.touchAll c x p ticket r
/-- Raises the pin counts of a set that is resident whole. -/
def CoreSt.pinAll (k : CoreSt) (x : Ctx) (l : List (BitVec 16)) : CoreSt :=
  l.foldl (fun k n => k.modSeg x n fun g => { g with pins := g.pins + 1 }) k
/-- sg.pin: the set waits until it is admitted (PIN_SET_ADMITTED takes its frames), then until its segments are resident, and
is pinned whole. -/
def execSgPin (w : CF) (s : State) : Out :=
  .next (cfWord (.sgPin w) w [w.a] [] (fun s go =>
    let m := match s.here.pinWait with
      | some (m, _) => m
      | none => s.rd w.a
    match maskNames s.here s.cur.ctx m allHandles with
    | .error h => s.trap .segfail (segEval 0xFFFF h)
    | .ok l => match s.pinSet s.cur.core s.cur.ctx l with
      | .fails n h => s.trap .segfail (segEval n h)
      | .page n h va pte => if s.pageRefused va then s.clearRefused.trap .segfail (segEval n h)
        else (match s.awaitMine va pte with
        | some s1 => s1.stall .page
        | none => s.trap .segfail (segEval n h))
      | .ok gs =>
        let absent (n : BitVec 16) : Bool := (s.myCore.seg? s.cur.ctx n).isNone
        let ov := match pinOver s.here absent false gs 0 with
          | some f => some f
          | none => pinOver s.here absent true gs 0
        match ov with
        | some (n, h) => s.trap .segfail (segEval n h)
        | none =>
          let admitted := match s.here.pinWait with
            | some (_, a) => a
            | none => false
          if !admitted && !s.here.pinFits gs then
            (s.modHere fun k => { k with pinWait := some (m, false) }).stall .pin
          else
            let s0 := s.modHere fun k => { k with pinWait := some (m, true) }
            match s0.touchAll s.cur.core s.cur.ctx .L s.cur.ticket (l.map (·.1)) with
            | (_, false, some n) => (s.modHere fun k => { k with pinWait := none }).trap .segfail (segEval n
                ((l.find? (·.1 == n)).map (·.2) |>.getD 0))
            | (s1, false, none) => s1.stall .pin
            | (s1, true, _) => s1.thenIssue go fun s =>
              (s.modHere fun k => { k with pinWait := none }).modCore s.cur.core fun k => k.pinAll s.cur.ctx (l.map (·.1))) s)
/-- PIN_SET_ADMITTED: a waiting set is admitted once it fits; L takes it when it issues again. -/
def execPinSetAdmitted (c : CoreId) (x : Ctx) (s : State) : Out :=
  .next (s.unlessFrozen c (match (s.ctx c x).pinWait with
    | some (m, false) => (match maskNames (s.ctx c x) x m allHandles with
      | .ok l => (match s.pinSet c x l with
        | .ok gs => if (s.ctx c x).pinFits gs then s.modCtx c x fun k => { k with pinWait := some (m, true) } else s
        | _ => s)
      | .error _ => s)
    | _ => s))
/-- sg.unpin; a firmware segment stays pinned (R133). -/
def execSgUnpin (w : CF) (s : State) : Out :=
  .next (cfWord (.sgUnpin w) w [w.a] [] (fun s go =>
    match maskNames s.here s.cur.ctx (s.rd w.a) allHandles with
    | .error h => s.trap .segfail (segEval 0xFFFF h)
    | .ok l => s.thenIssue go fun s => s.modCore s.cur.core fun k =>
      l.foldl (fun k n => k.modSeg s.cur.ctx n.1 fun g => { g with pins := max (g.pins - 1) (if s.cur.ctx == .fw then 1 else 0) }) k) s)
def execSgTouch (w : CF) (s : State) : Out :=
  .next (cfWord (.sgTouch w) w [] [] (fun s go =>
    match s.localAt s.cur.core s.cur.ctx .L none s.cur.ticket (resolveHandle s.here s.cur.ctx w.handle) w.handle 0 1 with
    | .fault c e => s.trap c e
    | .stalls s1 => s1.stall .segment
    | .ok s1 _ => s1.thenIssue go id) s)
/-- A push-out starts (R145, R151): of a resident segment that is neither pinned nor held. -/
def State.startPushOut (s : State) (c : CoreId) (x : Ctx) (name : BitVec 16) : State :=
  match (s.core c).seg? x name with
  | some g => if g.pins == 0 && !(s.ctx c x).held? name && g.moving == none && !g.stuck && x != .fw then
      s.modCore c (·.modSeg x name fun g => { g with moving := some .pushOut }) else s
  | none => s
def execSgEvict (w : CF) (s : State) : Out :=
  .next (cfWord (.sgEvict w) w [] [] (fun s go =>
    match resolveHandle s.here s.cur.ctx w.handle with
    | none => s.trap .segfail (segEval 0xFFFF w.handle)
    | some n => s.thenIssue go fun s => s.startPushOut s.cur.core s.cur.ctx n) s)
/-- The snapshot of sg.info (R182); CLASS and LEN of an absent segment whose directory cannot be read are 0, log 69. -/
def State.segInfo (s : State) (c : CoreId) (x : Ctx) (h : BitVec 6) : Word :=
  let k := s.ctx c x
  let n := k.sg[h.toNat]
  let nm : Word := n.setWidth 64
  if n == 0xFFFF then 0
  else if x != .fw && n.toNat ≥ k.res.dircnt.toNat then (1#64 <<< 48) ||| (1#64 <<< 31) ||| nm
  else
    let base : Word := (1#64 <<< 48) ||| nm
    let desc (g : Seg) : Word := (g.cls.setWidth 64 <<< 26) ||| (g.len.setWidth 64 <<< 16)
    match (s.core c).seg? x n with
    | some g =>
      let st : Word := if g.moving.isSome then 4 else if g.pins > 0 then 3 else if k.held? n then 2 else 1
      base ||| desc g ||| (st <<< 28) ||| (BitVec.ofNat 64 (min g.pins 0xFFFF) <<< 32)
    | none => match s.segDesc c x n with
      | .found g => base ||| desc g
      | _ => base
def execSgInfo (w : CF) (s : State) : Out :=
  .next (cfWord (.sgInfo w) w [] [w.t] (fun s go =>
    s.thenIssue go fun s => s.answer w.t (s.segInfo s.cur.core s.cur.ctx w.handle) false) s)
def execVlSet (w : CF) (s : State) : Out :=
  .next (cfWord (.vlSet w) w [w.a] [] (fun s go => s.thenIssue go fun s =>
    let v := (s.rd w.a).toInt
    s.modHere fun k => { k with vl := BitVec.ofNat 8 (min (max v 1) 128).toNat }) s)

end Sys2Proof.Machine
end

