-- ==== Sys2Proof/Machine/Engine.lean ====
section
/-! DEFINITION. What the copy, matrix and fabric engines share: the segments that a command names and holds (R149), the end of
a command by a fault (R162), the weight bank (R258-R264). -/
namespace Sys2Proof.Machine

/-! ## Names (R143, R149) -/

/-- A segment that a command names: its name and the handle that gave it. -/
abbrev Named := BitVec 16 × BitVec 6
/-- The stream is unbound, or its handle does not resolve: %eval of the SEGFAIL. -/
def Snap.unbound (sn : Snap) : Option Word :=
  if !sn.reg.bound || (sn.reg.space == 0 && sn.name == 0xFFFF) then some (segEval 0xFFFF sn.reg.handle) else none
def Snap.named (sn : Snap) : List Named := if sn.reg.space == 0 then [(sn.name, sn.reg.handle)] else []
/-- Each name once, in naming order. -/
def firstNames : List Named → List (BitVec 16) → List Named
  | [], _ => []
  | (n, h) :: r, seen => if seen.contains n then firstNames r seen else (n, h) :: firstNames r (n :: seen)

inductive NameCheck where
  | fault (eval : Word)
  | page (s : State)
  | ok
/-- At most four distinct segments, and unpinned totals within LR and AR; the first name beyond a limit is reported. -/
def State.nameLimits (s : State) (c : CoreId) (x : Ctx) : List Named → Nat → Nat → Nat → NameCheck
  | [], _, _, _ => .ok
  | (n, h) :: r, count, loc, acc =>
    let k := s.ctx c x
    if count ≥ 4 then .fault (segEval n h)
    else match s.segDesc c x n with
      | .fails => s.nameLimits c x r (count + 1) loc acc
      | .page va pte => if s.pageRefused va then s.nameLimits c x r (count + 1) loc acc
        else (match s.awaitMine va pte with
        | some s1 => .page s1
        | none => s.nameLimits c x r (count + 1) loc acc)
      | .found g =>
        let loc := if g.pins == 0 && !g.isAcc then loc + g.granules else loc
        let acc := if g.pins == 0 && g.isAcc then acc + g.granules else acc
        if loc > k.res.lr.toNat || acc > k.res.ar.toNat then .fault (segEval n h)
        else s.nameLimits c x r (count + 1) loc acc
/-- The issue checks of a command's names: SEGFAIL, or a stall while a directory page is being served. -/
def State.checkNames (s : State) (snaps : List Snap) (l : List Named) (go : State → State) : State :=
  match snaps.findSome? Snap.unbound with
  | some e => s.trap .segfail e
  | none => match s.nameLimits s.cur.core s.cur.ctx (firstNames l []) 0 0 0 with
    | .fault e => s.trap .segfail e
    | .page s1 => s1.stall .page
    | .ok => go s

/-! ## Touching and holding (R149) -/

inductive Held where
  /-- Every named segment is resident: these are held. -/
  | all (s : State) (names : List (BitVec 16))
  | waits (s : State) (names : List (BitVec 16))
  | fails (s : State) (name : Named)
def State.holdAll (s : State) (c : CoreId) (x : Ctx) (p : Strand) (serial : Nat) (ticket : BitVec 32) : List Named → Held
  | [] => .all s []
  | (n, h) :: r => match s.segDesc c x n with
    | .fails => .fails s (n, h)
    | .page va pte => (match s.touchPage c x p (some serial) ticket n va pte with
      | .waits s1 => .waits s1 []
      | _ => .fails s (n, h))
    | .found _ => match s.touchSeg c x p (some serial) ticket n with
      | .fails s1 => .fails s1 (n, h)
      | .waits s1 => (match s1.holdAll c x p serial ticket r with
        | .all s2 l | .waits s2 l => .waits s2 l
        | f => f)
      | .ready s1 _ => (match s1.holdAll c x p serial ticket r with
        | .all s2 l => .all s2 (n :: l)
        | .waits s2 l => .waits s2 (n :: l)
        | f => f)

/-- A command ends by a fault (R162): it leaves its queue with its follow-on, and the fault goes to its strand. -/
def State.endFault (s : State) (c : CoreId) (x : Ctx) (t : Tag) (cause : Cause) (ev : Word) : State :=
  s.meFault c x t cause ev

/-! ## The weight bank (R258-R264, R273) -/

def clusterOf (c : CoreId) : ClusterId := ⟨c.val / 4, by omega⟩
def posOf (c : CoreId) : Fin 4 := ⟨c.val % 4, Nat.mod_lt _ (by decide)⟩
def State.cluster (s : State) (k : ClusterId) : Cluster := s.clusters[k.val]
def State.modCluster (s : State) (k : ClusterId) (f : Cluster → Cluster) : State :=
  { s with clusters := s.clusters.set k.val (f s.clusters[k.val]) }
def Cluster.modPos (k : Cluster) (p : Fin 4) (f : Position → Position) : Cluster :=
  { k with pos := k.pos.set p.val (f k.pos[p.val]) }
/-- The position of a core. -/
def State.position (s : State) (c : CoreId) : Position := (s.cluster (clusterOf c)).pos[(posOf c).val]
def State.modPosition (s : State) (c : CoreId) (f : Position → Position) : State :=
  s.modCluster (clusterOf c) (·.modPos (posOf c) f)
def Position.half (p : Position) (h : BitVec 1) : Quarter := if h == 0 then p.half0 else p.half1
def Position.modHalf (p : Position) (h : BitVec 1) (f : Quarter → Quarter) : Position :=
  if h == 0 then { p with half0 := f p.half0 } else { p with half1 := f p.half1 }
def WStream.bytes (w : WStream) : Nat := 64 * (w.len.toNat + 1)
/-- Quarter offset of byte `o` of a stream. -/
def WStream.at_ (w : WStream) (o : Nat) : Nat := 64 * w.base.toNat + o % w.bytes
/-- A quarter belongs to a partition and is valid (R261). -/
def Quarter.owned (q : Quarter) (p : PartId) : Bool := q.valid && q.owner == p
/-- A byte of a quarter; one that nothing has written since the key was drawn is a free value (R260). -/
def State.bankByte (s : State) (c : CoreId) (h : BitVec 1) (o : Nat) : Nat :=
  let q := (s.position c).half h
  if markGet q.written o then (q.store.byte o).toNat
  else (Config.freeBank (clusterOf c).val (posOf c).val h.toNat q.key o).toNat
/-- Writes one byte of a quarter. -/
def Quarter.put (q : Quarter) (o : Nat) (v : Byte) : Quarter :=
  { q with store := q.store.setByte o v, written := markPut q.written o true }
/-- A new key (R260): contents are unpredictable until written, and every poison bit is clear. -/
def Quarter.newKey (q : Quarter) : Quarter :=
  { q with key := q.key + 1, keyEpoch := q.keyEpoch + 1, store := Store.empty, written := [] }
/-- A command of a context was enqueued before the wb.swap was accepted; a task counts by its identity, wherever it runs by now. -/
def Swap.earlier (w : Swap) (x : Ctx) (k : Context) (serial : Nat) : Bool :=
  match x with
  | .fw => serial ≤ w.marks.fw
  | _ => ([Ctx.t0, .t1].any fun y => w.tasks.get y == k.task && serial ≤ w.marks.get y) ||
    w.away.any fun t => t.1 == k.task && serial ≤ t.2
/-- A command that touches the bank waits for a swap accepted before it was enqueued (R273). -/
def State.swapWaits (s : State) (c : CoreId) (x : Ctx) (serial : Nat) : Bool :=
  match (s.position c).pend with
  | some w => !w.earlier x (s.ctx c x) serial
  | none => false

end Sys2Proof.Machine
end

