-- ==== Sys2Proof/Machine/MatrixOps.lean ====
section
/-! DEFINITION. What the matrix path computes (R79-R84, R228, R232, R236, R242, R245, R246, R249): shapes, the integers of
both paths, accumulation with folds, drains and images. -/
namespace Sys2Proof

/-! ## Shapes (R228) -/

/-- Rows of A and columns of B of a shape. -/
def fuseRows (fuse : BitVec 3) : Nat := match fuse.toNat with | 1 => 64 | 2 => 128 | _ => 256
def fuseCols (fuse : BitVec 3) : Nat := match fuse.toNat with | 2 => 128 | 3 => 64 | _ => 256
/-- Row and column that cell (i, j) of sub-array s takes. -/
def fuseRow (fuse : BitVec 3) (s i : Nat) : Nat :=
  match fuse.toNat with
  | 1 => i | 2 => 64 * (s / 2) + i | _ => 64 * s + i
def fuseCol (fuse : BitVec 3) (s j : Nat) : Nat :=
  match fuse.toNat with
  | 2 => 64 * (s % 2) + j | 3 => j | _ => 64 * s + j
/-- Tiles of an operand that a step reads: four in the independent shape, else one. -/
def fuseTiles (fuse : BitVec 3) : Nat := if fuse == 0 then 4 else 1
/-- The sub-array and the cell, 64 × i + j of it, that drain to a linear index (R246). -/
def drainCell (fuse : BitVec 3) (n : Nat) : Nat × Nat :=
  let r := n / fuseCols fuse
  let c := n % fuseCols fuse
  match fuse.toNat with
  | 1 => (c / 64, 64 * r + c % 64)
  | 2 => (2 * (r / 64) + c / 64, 64 * (r % 64) + c % 64)
  | 3 => (r / 64, 64 * (r % 64) + c)
  | _ => (n / 4096, n % 4096)

/-- Elements of a block that a B column holds: 24, or N of a compressed one (R232). -/
def MX.kept (w : MX) (i : WideWord) : Nat :=
  match i with
  | .mmSp _ => keptOf w.n
  | _ => 24
/-- Stream elements that a step takes: A, B, scales, metadata (R235-R237). -/
def MX.countA (w : MX) : Nat := fuseRows w.fuse * (24 * w.kb.toNat)
def MX.countB (w : MX) (nk : Nat) : Nat := fuseCols w.fuse * (nk * w.kb.toNat)
def MX.colBytes (w : MX) (nk : Nat) : Nat := nk * w.kb.toNat * (Fmt.ofCode w.fmtB).width / 8
def MX.rowBytes (w : MX) : Nat := 24 * w.kb.toNat * (Fmt.ofCode w.fmtA).width / 8

/-! ## The integers of a block (R79, R80) -/

def Fmt.isBlockAligned : Fmt → Bool
  | .f8b | .bf16 => true
  | _ => false
/-- log2 of the unit of a format on the exact path. -/
def Fmt.unitExp : Fmt → Int
  | .f4 => -1
  | .f8a => -9
  | _ => 0
/-- The value as an integer multiple of 2^u, for u not above its own unit. -/
def intAt (v : Val) (u : Int) : Int :=
  match v with
  | .fin n m e => signed n (if u ≤ e then m * 2 ^ (e - u).toNat else m / 2 ^ (u - e).toNat)
  | _ => 0
/-- Floor of log2 of the largest magnitude of a block, 0 when all are zero; NaN and infinity count as zero. -/
def blockExp (vs : List Val) : Int :=
  (vs.foldl (fun (r : Option Int) v => match v with
    | .fin _ m e => if m = 0 then r
      else
        let l : Int := (bitLen m : Int) - 1 + e
        match r with
        | none => some l
        | some b => some (max b l)
    | _ => r) none).getD 0
def alignAt (v : Val) (u : Int) : Int :=
  match v with
  | .fin n m e => signed n (roundAt .rne n 0 m e u)
  | _ => 0
def isSpecial : Val → Bool
  | .fin _ _ _ => false
  | _ => true

/-- One row or column of one block: its integers, its E, whether poison entered. -/
structure Line where
  q : List Int
  e : Int
  poison : Bool
  deriving DecidableEq, Repr
/-- A block of elements on the path of a step: `unit` is log2 w on the exact path. -/
def lineOf (unit : Option Int) (vs : List Val) (poison : Bool) : Line :=
  match unit with
  | some u => ⟨vs.map (intAt · u), 0, poison⟩
  | none =>
    let e := blockExp vs
    ⟨vs.map (alignAt · (e - 15)), e, poison || vs.any isSpecial⟩
/-- log2 w of a step on the exact path (R79); none on the block-aligned one. -/
def stepUnit (a b : Fmt) : Option Int :=
  if a.isBlockAligned || b.isBlockAligned then none else some (min a.unitExp b.unitExp)
/-- Kept elements of a compressed column spread to 24 positions; none for an invalid metadata word (R242). -/
def spread (md n : Nat) (q : List Int) : Option (List Int) :=
  if md / 2 ^ 24 != 0 || popCount 24 md != n then none
  else
    let rec go : Nat → Nat → List Int → List Int
      | 0, _, _ => []
      | k + 1, m, l =>
        if m % 2 = 1 then (match l with
          | x :: r => x :: go k (m / 2) r
          | [] => 0 :: go k (m / 2) [])
        else 0 :: go k (m / 2) l
    some (go 24 md q)
def dot (a b : List Int) : Int := ((a.zip b).map fun (x, y) => x * y).foldl (· + ·) 0
/-- σ_b (R81). -/
def sigmaOf (unit : Option Int) (a b : Line) (cA cB : Nat) : Int :=
  (match unit with
    | some u => 2 * u
    | none => (a.e - 15) + (b.e - 15)) + ((cA : Int) - 127) + ((cB : Int) - 127)

/-! ## Accumulate (R82) -/

/-- Adds `t × 2^s` to (m, e); also whether bits were folded. -/
def accumulate (m e t s : Int) : Int × Int × Bool :=
  if t = 0 then (m, e, false)
  else if m = 0 then (t, s, false)
  else
    let low := min e s
    let x := m * 2 ^ (e - low).toNat + t * 2 ^ (s - low).toNat
    let k := bitLen x.natAbs - 63
    let q := x.natAbs / 2 ^ k
    let lost := x.natAbs % 2 ^ k != 0
    let q := if lost then q - q % 2 + 1 else q
    (signed (x < 0) q, low + k, lost)

/-- The value of a cell. -/
def cellVal (m e : Int) : Val := .fin (m < 0) m.natAbs e
/-- One drained element (R84, R246): C rounded once; a zero drains as +0. -/
def drainCode (f : Fmt) (rnd : Rnd) (sat : Bool) (u : Nat) (m e : Int) : Cvt := f.convert rnd sat u false (cellVal m e)

end Sys2Proof
end

