-- ==== Sys2Proof/Machine/Matrix.lean ====
section
/-! DEFINITION. The matrix engine (R228-R253): its words and the three events of its commands. -/
namespace Sys2Proof.Machine

/-! ## The command of a word (R237, R240, R241) -/

inductive MxKind where
  | step | drain | zero | load | store | stat | seed
  deriving DecidableEq, Repr
/-- What a matrix-width word does; every other word is read as a seed, and never asked. -/
def mxKind : WideWord → MxKind
  | .mm _ | .mmSp _ | .mmTn _ => .step
  | .mdrain _ => .drain
  | .mzero _ => .zero
  | .mcorrLd _ => .load
  | .mcorrSt _ => .store
  | .mstat _ => .stat
  | _ => .seed
/-- Fields of a matrix-width word. -/
def mxFields : WideWord → Option MX
  | .mm w | .mmSp w | .mmTn w | .mdrain w | .mzero w | .mcorrLd w | .mcorrSt w | .mstat w => some w
  | _ => none
/-- The firmware context acts on the task context at whose bundle boundary it issues (R231). -/
def State.matrixTarget (s : State) : Ctx := if s.cur.ctx == .fw then s.myCore.boundary else s.cur.ctx

def MxCmd.nk (q : MxCmd) : Nat := q.w.kept q.word

/-- The streams that a step reads, with the elements it takes of each: A, B, A scales, B scales, metadata. -/
def streamsOfStep (i : WideWord) (w : MX) : List (BitVec 5 × Nat) :=
  if mxKind i != .step then []
  else
    (if w.aKind == 1 then [(w.aIdx.setWidth 5, w.countA)] else []) ++
    (if w.bKind == 1 then [(w.bIdx.setWidth 5, w.countB (w.kept i))] else []) ++
    (if w.saEn == 1 then [(w.sa, w.kb.toNat * fuseRows w.fuse)] else []) ++
    (if w.sbEn == 1 then [(w.sb, w.kb.toNat * fuseCols w.fuse)] else []) ++
    (if w.mdEn == 1 then [(w.md, w.kb.toNat * fuseCols w.fuse)] else [])
/-- Ring handles and the drain handle of a word. -/
def mxHandles (i : WideWord) (w : MX) : List (BitVec 6) :=
  match mxKind i with
  | .step => (if w.aKind == 0 then [w.aIdx] else []) ++ (if w.bKind == 0 then [w.bIdx] else [])
  | .drain | .load | .store => [w.handle]
  | _ => []
def Context.resolved (k : Context) (x : Ctx) (h : BitVec 6) : BitVec 16 := (resolveHandle k x h).getD 0xFFFF
/-- The snapshots of a word's streams (R160). -/
def Context.snapIf (k : Context) (x : Ctx) (on : Bool) (t : BitVec 5) : Option Snap := if on then some (k.snap x t) else none
/-- The command that a matrix-width word of X enqueues, with serial number `n` and, if it names a segment, a ticket; operands of one
stream have snapshots of the same position, log 69. -/
def Context.mxCmd (k : Context) (x : Ctx) (i : WideWord) (w : MX) (n : Nat) (target : Ctx) (wpos : Nat) :
    MxCmd :=
  let step := mxKind i == .step
  let c : MxCmd :=
    { tag := { serial := n, strand := .X, fw := x == .fw, ticket := none, stamp := k.stamp, sq := w.sq == 1, push := w.pre.tok
               cc := w.cc, inc := w.inc }
      word := i, w := w, seed := none
      nameA := if step && w.aKind == 0 then k.resolved x w.aIdx else 0xFFFF
      nameB := if step && w.bKind == 0 then k.resolved x w.bIdx else 0xFFFF
      nameD := if step then 0xFFFF else (mxHandles i w).foldl (fun _ h => k.resolved x h) 0xFFFF
      a := k.snapIf x (step && w.aKind == 1) (w.aIdx.setWidth 5), b := k.snapIf x (step && w.bKind == 1) (w.bIdx.setWidth 5)
      sa := k.snapIf x (step && w.saEn == 1) w.sa, sb := k.snapIf x (step && w.sbEn == 1) w.sb
      md := k.snapIf x (step && w.mdEn == 1) w.md, phase := .queued, holds := [], target := target, ahead := [], wpos := wpos }
  c
def MxCmd.snaps (q : MxCmd) : List Snap := [q.a, q.b, q.sa, q.sb, q.md].filterMap id
/-- The segments that a command names, in naming order: rings, streams, drain target. -/
def MxCmd.names (q : MxCmd) : List Named :=
  (match mxKind q.word with
    | .step => (if q.w.aKind == 0 then [(q.nameA, q.w.aIdx)] else []) ++ (if q.w.bKind == 0 then [(q.nameB, q.w.bIdx)] else [])
    | .drain | .load | .store => [(q.nameD, q.w.handle)]
    | _ => []) ++ (q.snaps.map Snap.named).flatten
/-- Streams advance at enqueue (R237). -/
def Context.advanceStep (k : Context) (i : WideWord) (w : MX) : Context :=
  (streamsOfStep i w).foldl (fun k (t, n) => k.modStream t (·.advance n)) k
/-- RPOS of the weight stream that a step reads (R263). -/
def State.weightPos (s : State) (i : WideWord) (w : MX) : Nat :=
  if mxKind i == .step && w.bKind == 2 then ((s.position s.cur.core).streams[w.bIdx.toNat]).rpos.toNat else 0
def State.advanceWeights (s : State) (i : WideWord) (w : MX) : State :=
  if mxKind i == .step && w.bKind == 2 then
    s.modPosition s.cur.core fun p =>
      let ws := p.streams[w.bIdx.toNat]
      { p with streams := p.streams.set w.bIdx.toNat { ws with
          rpos := BitVec.ofNat 28 ((ws.rpos.toNat + fuseCols w.fuse * w.colBytes (w.kept i)) % ws.bytes) } }
  else s
/-- The command of a word of X at its issue, and the state after streams have advanced and an mstat's register is reserved. -/
def State.prepareMx (s : State) (i : WideWord) (w : MX) : State × MxCmd :=
  let q := s.here.mxCmd s.cur.ctx i w (s.here.serial + 1) s.matrixTarget (s.weightPos i w)
  let named := !q.names.isEmpty
  let q := { q with
    tag := { q.tag with ticket := if named then some s.here.ticket else none }
    ahead := if s.cur.ctx == .fw then ((s.ctx s.cur.core q.target).mx.map (·.tag.serial)) else [] }
  let s1 := (s.advanceWeights i w).modHere fun k => (k.enqueued named).advanceStep i w
  let s2 := if mxKind i == .stat && w.statD != 0 then
      s1.modHere (·.modStrand .X fun t => { t with pend := t.pend ++ [⟨w.statD, none, false, false, q.tag.serial⟩] })
    else s1
  (s2, q)

/-- A matrix-width word: checked, then enqueued; in a bundle with a cp.mm, the copy carries it instead (R188); what comes of
it beside a cp.mm whose guard is false, and that its tokens are popped last, is the model's choice, log 69. A register that the bundle's own cp.mm has reserved for it does not hold it up. -/
def mxWord (i : WideWord) (w : MX) (wr : List GReg) (s : State) : State :=
  s.issue (.wide i) [] (if s.cur.carried then [] else wr) fun s =>
    if s.cur.carried && s.me.pendingBefore s.cur.serial wr then s.stall .interlock
    else
    let q := s.here.mxCmd s.cur.ctx i w (s.here.serial + 1) s.matrixTarget 0
    match (mxHandles i w).find? fun h => (resolveHandle s.here s.cur.ctx h).isNone with
    | some h => s.trap .segfail (segEval 0xFFFF h)
    | none => s.checkNames q.snaps q.names fun s =>
      if !s.cur.carried && s.here.mxFull s.cur.ctx then s.stall .interlock
      else s.popTokens w.pre.tok fun s =>
        if s.cur.carried then s
        else
          let (s1, q) := s.prepareMx i w
          s1.modHere fun k => { k with mx := k.mx ++ [q] }

def execMm (w : MX) (s : State) : Out := .next (mxWord (.mm w) w [] s)
def execMmSp (w : MX) (s : State) : Out := .next (mxWord (.mmSp w) w [] s)
def execMmTn (w : MX) (s : State) : Out := .next (mxWord (.mmTn w) w [] s)
def execMdrain (w : MX) (s : State) : Out := .next (mxWord (.mdrain w) w [] s)
def execMzero (w : MX) (s : State) : Out := .next (mxWord (.mzero w) w [] s)
def execMcorrLd (w : MX) (s : State) : Out := .next (mxWord (.mcorrLd w) w [] s)
def execMcorrSt (w : MX) (s : State) : Out := .next (mxWord (.mcorrSt w) w [] s)
def execMstat (w : MX) (s : State) : Out := .next (mxWord (.mstat w) w [w.statD] s)

/-! ## Reading operands (R232-R236) -/

/-- What a step finds of an operand: its elements with poison, or why not. -/
inductive Fetched where
  | fault (c : Cause) (eval : Word)
  | waits (s : State)
  | ok (s : State) (es : List Elem)

def ringTile (g : Seg) : Nat := if g.cls == 1 then 64 * g.tile.toNat else 0
/-- Span of a ring: whole tiles (R233). -/
def ringSpan (g : Seg) : Nat := let t := ringTile g; if t = 0 then 0 else g.bytes / t * t
/-- Bytes that a ring holds. -/
def ringFill (g : Seg) : Nat :=
  let m := 2 * ringSpan g
  if m = 0 then 0 else (g.tail.toNat + m - g.head.toNat % m) % m
def roundUp (n k : Nat) : Nat := (n + k - 1) / k * k
/-- The tile bytes that an operand requires: rows of a tile × bytes of a row, in whole lines. -/
def tileBytes (rows rowBytes : Nat) : Nat := roundUp (rows * rowBytes) 64
/-- The faults of a ring operand at the start of a step. -/
def ringFault (g : Seg) (tiles need : Nat) : Option (Cause × Word) :=
  if ringTile g != need then some (.segbound, BitVec.ofNat 64 need)
  else if tiles * need > ringSpan g then some (.segbound, BitVec.ofNat 64 (tiles * need))
  else none
/-- Elements of rows in tiles of `perTile` rows from the head of a ring, `cnt` elements of width `w` a row. -/
def State.ringElems (s : State) (c : CoreId) (x : Ctx) (g : Seg) (rows perTile rowBytes tile cnt w : Nat) : List Elem :=
  let at0 := g.head.toNat % ringSpan g
  ((List.range rows).map fun r =>
    let start := (at0 + r / perTile * tile + r % perTile * rowBytes) % ringSpan g
    (List.range cnt).map fun k =>
      let e : Spot := ⟨(start + k * w / 8 : Nat), k * w % 8, w⟩
      s.elemAt e (.seg c x g.name (start + k * w / 8))).flatten
/-- A ring operand: waits until the ring holds its tiles. -/
def State.fetchRing (s : State) (c : CoreId) (x : Ctx) (name : BitVec 16) (rows rowBytes tiles cnt w : Nat) : Fetched :=
  match (s.core c).seg? x name with
  | none => .waits s
  | some g =>
    let need := tileBytes (rows / tiles) rowBytes
    match ringFault g tiles need with
    | some (cause, ev) => .fault cause ev
    | none =>
      if ringFill g < tiles * need then .waits s
      else .ok s (s.ringElems c x g rows (rows / tiles) rowBytes need cnt w)
/-- `n` tile elements of width `w` of a snapshot from its position on, one stream element for each; of a byte that holds a T2 or F4
element its low bits count (R235, log 40). -/
def State.fetchStream (s : State) (c : CoreId) (x : Ctx) (q : MxCmd) (sn : Snap) (n w : Nat) : Fetched :=
  let es := (sn.reg.indices sn.reg.pos n).map (sn.reg.spot (max w 8) 0)
  match s.reach c x .X (some q.tag.serial) (q.tag.ticket.getD 0) sn needRd false es with
  | .fault cause ev => .fault cause ev
  | .stalls s1 _ => .waits s1
  | .ok s1 ps => .ok s1 ((es.zip ps).map fun (e, p) =>
    let v := s1.elemAt e p
    ⟨v.val % 2 ^ w, v.poison⟩)
/-- Elements of the active half's weight stream (R235, R263). -/
def State.fetchWeights (s : State) (c : CoreId) (x : Ctx) (q : MxCmd) (cols colBytes cnt w : Nat) : Fetched :=
  let p := s.position c
  let ws := p.streams[q.w.bIdx.toNat]
  let h := p.active
  if s.swapWaits c x q.tag.serial then .waits s
  else if !(p.half h).owned (s.ctx c x).part then .fault .prot (BitVec.ofNat 64 (ws.at_ q.wpos))
  else .ok s (((List.range cols).map fun col => (List.range cnt).map fun k =>
    let o := ws.at_ (q.wpos + col * colBytes + k * w / 8)
    let lo := s.bankByte c h o
    let v := if w ≤ 8 then lo / 2 ^ (k * w % 8) else lo + 256 * s.bankByte c h (ws.at_ (q.wpos + col * colBytes + k * w / 8 + 1))
    (⟨v % 2 ^ w, ((p.half h).store).poisoned o⟩ : Elem)).flatten)

/-- Everything that a step reads. -/
structure Operands where
  a : List Elem
  b : List Elem
  sa : List Elem
  sb : List Elem
  md : List Elem
inductive Gathered where
  | fault (c : Cause) (eval : Word)
  | waits (s : State)
  | ok (s : State) (o : Operands)
def State.fetchIf (s : State) (c : CoreId) (x : Ctx) (q : MxCmd) (sn : Option Snap) (n w : Nat) : Fetched :=
  match sn with
  | some sn => s.fetchStream c x q sn n w
  | none => .ok s []
/-- Phase 3 of a step (R241, R243): every operand is there, or the step waits or faults. -/
def State.gather (s : State) (c : CoreId) (x : Ctx) (q : MxCmd) : Gathered :=
  let w := q.w
  let rows := fuseRows w.fuse
  let cols := fuseCols w.fuse
  let ca := 24 * w.kb.toNat
  let cb := q.nk * w.kb.toNat
  let wa := (Fmt.ofCode w.fmtA).width
  let wb := (Fmt.ofCode w.fmtB).width
  match (match q.a with
    | some sn => s.fetchStream c x q sn w.countA wa
    | none => s.fetchRing c x q.nameA rows w.rowBytes (fuseTiles w.fuse) ca wa) with
  | .fault f e => .fault f e
  | .waits s1 => .waits s1
  | .ok s1 a =>
  match (match q.b with
    | some sn => s1.fetchStream c x q sn (w.countB q.nk) wb
    | none => if w.bKind == 2 then s1.fetchWeights c x q cols (w.colBytes q.nk) cb wb
      else s1.fetchRing c x q.nameB cols (w.colBytes q.nk) (fuseTiles w.fuse) cb wb) with
  | .fault f e => .fault f e
  | .waits s2 => .waits s2
  | .ok s2 b =>
  match s2.fetchIf c x q q.sa (w.kb.toNat * rows) 8 with
  | .fault f e => .fault f e
  | .waits s3 => .waits s3
  | .ok s3 sa =>
  match s3.fetchIf c x q q.sb (w.kb.toNat * cols) 8 with
  | .fault f e => .fault f e
  | .waits s4 => .waits s4
  | .ok s4 sb =>
  match s4.fetchIf c x q q.md (w.kb.toNat * cols) 32 with
  | .fault f e => .fault f e
  | .waits s5 => .waits s5
  | .ok s5 md => .ok s5 ⟨a, b, sa, sb, md⟩

/-- The elements of device memory that a command reads. -/
def MxCmd.deviceSpots (q : MxCmd) : List Spot :=
  let w := q.w
  let of (sn : Option Snap) (n wd : Nat) : List Spot := match sn with
    | some sn => if sn.reg.space == 1 then (sn.reg.indices sn.reg.pos n).map (sn.reg.spot wd 0) else []
    | none => []
  of q.a w.countA (max (Fmt.ofCode w.fmtA).width 8) ++ of q.b (w.countB q.nk) (max (Fmt.ofCode w.fmtB).width 8) ++
    of q.sa (w.kb.toNat * fuseRows w.fuse) 8 ++ of q.sb (w.kb.toNat * fuseCols w.fuse) 8 ++ of q.md (w.kb.toNat * fuseCols w.fuse) 32
/-- The elements of device memory that a remote access of a stream moves. -/
def FabCmd.deviceSpots (q : FabCmd) : List Spot := match q.stream with
  | some sn => if sn.reg.space == 1 then (List.range sn.reg.total).map (sn.reg.spot (8 * (Fmt.ofCode sn.reg.fmt).bytes) 0) else []
  | none => []
/-- A spot touches a range of addresses. -/
def Spot.within (p : Spot) (va size : Nat) : Bool := p.addr < (va + size : Nat) && (va : Int) < p.addr + p.bytes
/-- A command of a context holds a page of a range: a matrix command from phase 3 on, or a started remote access (R241, R287, R292). -/
def Context.holdsPages (k : Context) (va size : Nat) : Bool :=
  k.mx.any (fun q => q.phase != .queued && q.deviceSpots.any (·.within va size)) ||
    (k.fabL ++ k.fabS).any fun q => q.phase == .started && q.deviceSpots.any (·.within va size)
/-- Bytes that a remote operation reaches at its target. -/
def RemoteOp.range (o : RemoteOp) : Nat × Nat :=
  match o with
  | .load a n | .store a n _ _ | .pull a n _ => (a.toNat, n)
  | .atomic _ a _ _ _ => (a.toNat, 8)
  | .signal a _ _ _ => (a.toNat, 8)
  | .push a l _ _ _ => (a.toNat, l.length)
/-- A remote access that has arrived and waits touches a page of a range in an inbound address space (R406). -/
def State.inboundHolds (s : State) (root : Addr) (va size : Nat) : Bool :=
  s.pkg.delayed.any fun q =>
    let r := RemoteOp.range q.req.op
    (s.parts[q.req.dst.toNat]).inroot.setWidth 57 <<< 12 == root && r.1 < va + size && va < r.1 + r.2
/-- The same of the cores that `p` picks, in an address space, or a remote access of another package. -/
def State.holdsPages (s : State) (p : CoreId → Bool) (root : Addr) (va size : Nat) : Bool :=
  s.inboundHolds root va size || allCores.any fun c => p c && [Ctx.t0, .t1, .fw].any fun x => (s.ctx c x).root == root && (s.ctx c x).holdsPages va size

/-! ## Accumulating (R229, R230, R242, R245) -/

def Accum.zero : Accum := Accum.reset
def Four.ofSub {α : Type} (f : Four α) (s : Nat) : α := f.get (Strand.ofNum s)
/-- Code of a scale stream, 127 without one. -/
def scaleAt (l : Array Elem) (i : Nat) : Elem := l.getD i ⟨127, false⟩
/-- The lines of A for one block. -/
def stepRows (w : MX) (o : Array Elem) (sa : Array Elem) (b : Nat) : Array Line :=
  let f := Fmt.ofCode w.fmtA
  let u := stepUnit f (Fmt.ofCode w.fmtB)
  let ca := 24 * w.kb.toNat
  ((List.range (fuseRows w.fuse)).map fun r =>
    let es := (List.range 24).map fun k => o.getD (r * ca + 24 * b + k) ⟨0, false⟩
    lineOf u (es.map fun e => f.val e.val) (es.any (·.poison) || (scaleAt sa (b * fuseRows w.fuse + r)).poison)).toArray
/-- The lines of B for one block, spread by their metadata. -/
def stepCols (q : MxCmd) (o sb md : Array Elem) (b : Nat) : Array Line :=
  let w := q.w
  let f := Fmt.ofCode w.fmtB
  let u := stepUnit (Fmt.ofCode w.fmtA) f
  let cb := q.nk * w.kb.toNat
  let cols := fuseCols w.fuse
  ((List.range cols).map fun c =>
    let es := (List.range q.nk).map fun k => o.getD (c * cb + q.nk * b + k) ⟨0, false⟩
    let m := md.getD (b * cols + c) ⟨0, false⟩
    let l := lineOf u (es.map fun e => f.val e.val) (es.any (·.poison) || (scaleAt sb (b * cols + c)).poison || m.poison)
    match q.word with
    | .mmSp _ => (match spread m.val q.nk l.q with
      | some qs => { l with q := qs }
      | none => { l with q := List.replicate 24 0, poison := true })
    | _ => l).toArray
/-- One block enters one sub-array. -/
def Accum.block (a : Accum) (w : MX) (s : Nat) (rows cols : Array Line) (sa sb : Array Elem) (b : Nat) : Accum :=
  let u := stepUnit (Fmt.ofCode w.fmtA) (Fmt.ofCode w.fmtB)
  let d : Line := ⟨[], 0, false⟩
  let upd : List (Int × Int × Bool) := (List.range 4096).map fun n =>
    let r := fuseRow w.fuse s (n / 64)
    let c := fuseCol w.fuse s (n % 64)
    let x := rows.getD r d
    let y := cols.getD c d
    let cell := a.cells.toArray.getD n ⟨0, 0⟩
    accumulate cell.m.toInt cell.e.toInt (dot x.q y.q)
      (sigmaOf u x y (scaleAt sa (b * fuseRows w.fuse + r)).val (scaleAt sb (b * fuseCols w.fuse + c)).val)
  let bits (f : Nat → Bool) : BitVec 64 := BitVec.ofNat 64 ((List.range 64).map fun i => if f i then 2 ^ i else 0).sum
  let kc := min (a.kcnt.toNat + 24) 0x1FFFF
  let us := upd.toArray
  { a with
    cells := Vector.ofFn fun n : Fin 4096 =>
      let (m, e, _) := us.getD n.val (0, 0, false)
      ⟨BitVec.ofInt 64 m, BitVec.ofInt 32 e⟩
    fold := a.fold || upd.any (·.2.2)
    kcnt := BitVec.ofNat 17 kc, ovr := a.ovr || kc > 65536
    rpois := a.rpois ||| bits fun i => (rows.getD (fuseRow w.fuse s i) d).poison
    cpois := a.cpois ||| bits fun j => (cols.getD (fuseCol w.fuse s j) d).poison }
/-- A whole step on the accumulation state. -/
def stepAcc (q : MxCmd) (o : Operands) (acc : Four Accum) : Four Accum :=
  let acc := if q.w.first == 1 then ⟨Accum.reset, Accum.reset, Accum.reset, Accum.reset⟩ else acc
  let a := o.a.toArray
  let b := o.b.toArray
  let sa := o.sa.toArray
  let sb := o.sb.toArray
  let md := o.md.toArray
  (List.range q.w.kb.toNat).foldl (fun acc n =>
    let rows := stepRows q.w a sa n
    let cols := stepCols q b sb md n
    acc.map fun s x => x.block q.w s.num rows cols sa sb n) acc

/-! ## Starting and committing (R240, R241, R244) -/

def Context.modMx (k : Context) (serial : Nat) (f : MxCmd → MxCmd) : Context :=
  { k with mx := k.mx.map fun q => if q.tag.serial == serial then f q else q }
/-- Bytes of the tile that a drain writes, or of the images of mcorr. -/
def MxCmd.extent (q : MxCmd) : Nat :=
  match mxKind q.word with
  | .drain => 16384 * (Fmt.ofCode q.w.dfmt).width / 8
  | _ => maskCount q.w.mask * (17 * granule)
/-- Faults found when a command has its segments: ring shapes of a step, range of a drain or image. -/
def State.mxStartFault (s : State) (c : CoreId) (x : Ctx) (q : MxCmd) : Option (Cause × Word) :=
  let ring (name : BitVec 16) (rows rowBytes : Nat) : Option (Cause × Word) :=
    match (s.core c).seg? x name with
    | some g => ringFault g (fuseTiles q.w.fuse) (tileBytes (rows / fuseTiles q.w.fuse) rowBytes)
    | none => none
  match mxKind q.word with
  | .step =>
    match (if q.w.aKind == 0 then ring q.nameA (fuseRows q.w.fuse) q.w.rowBytes else none) with
    | some f => some f
    | none => if q.w.bKind == 0 then ring q.nameB (fuseCols q.w.fuse) (q.w.colBytes q.nk) else none
  | .drain | .load | .store => (match (s.core c).seg? x q.nameD with
    | some g => if granule * q.w.off.toNat + q.extent > g.bytes then
        some (.segbound, BitVec.ofNat 64 (granule * q.w.off.toNat)) else none
    | none => none)
  | _ => none
/-- A command keeps its place among those of the task context on which it acts: a firmware command stands behind the ones that were in
that context's queue when it came, and before those that came later (R231, R240). The queue of a held context stands still, and a
firmware command, such as the mcorr.ld that restores its cells, does not wait for it (R252, R357). -/
def CoreSt.mxTurn (k : CoreSt) (x : Ctx) (q : MxCmd) : Bool :=
  if x == .fw then (k.ctx q.target).held || q.ahead.all fun n => (k.ctx q.target).mx.all (·.tag.serial != n)
  else !(k.ctx x).held && (k.ctx .fw).mx.all fun f => f.target != x || f.ahead.contains q.tag.serial
/-- MATRIX_COMMAND_START: the command at the head of a queue touches and holds its segments when its turn has come; a seed takes
effect. -/
def execMatrixCommandStart (c : CoreId) (x : Ctx) (s : State) : Out :=
  .next (s.unlessFrozen c (match (s.ctx c x).mx with
    | [] => s
    | q :: rest =>
      if !(s.core c).mxTurn x q then s
      else match q.seed with
      | some v => s.modCtx c x fun k => { k with srDrain := v, mx := rest }
      | none =>
        if q.phase != .queued then s
        else match s.holdAll c x .X q.tag.serial (q.tag.ticket.getD 0) (firstNames q.names []) with
          | .fails s1 (n, h) => s1.endFault c x q.tag .segfail (segEval n h)
          | .waits s1 l => s1.modCtx c x (·.modMx q.tag.serial fun q => { q with holds := l })
          | .all s1 l => (match s1.mxStartFault c x q with
            | some (cause, ev) => s1.endFault c x q.tag cause ev
            | none => s1.modCtx c x (·.modMx q.tag.serial fun q => { q with phase := .started, holds := l }))))
/-- MATRIX_COMMIT: a started step whose data are ready accumulates. -/
def execMatrixCommit (c : CoreId) (x : Ctx) (s : State) : Out :=
  .next (s.unlessFrozen c (match (s.ctx c x).mx with
    | [] => s
    | q :: _ =>
      if mxKind q.word != .step || q.seed.isSome || q.phase != .started then s
      else match s.gather c x q with
        | .fault cause ev => s.endFault c x q.tag cause ev
        | .waits s1 => s1
        | .ok s1 o => (s1.modCtx c q.target fun k => { k with acc := stepAcc q o k.acc }).modCtx c x
            (·.modMx q.tag.serial fun q => { q with phase := .committed })))

/-! ## Completing (R161, R233, R246-R251) -/

/-- HEAD advances by the bytes a step read. -/
def State.popRing (s : State) (c : CoreId) (x : Ctx) (name : BitVec 16) (n : Nat) : State :=
  s.modCore c (·.modSeg x name fun g =>
    { g with head := BitVec.ofNat 23 ((g.head.toNat + n) % (2 * ringSpan g)) })
/-- The elements of a drain, in ascending linear index: value, saturation, poison (R245, R246). -/
def drainElems (q : MxCmd) (acc : Four Accum) (sr : BitVec 32) : List (Cvt × Bool) × BitVec 32 :=
  let f := Fmt.ofCode q.w.dfmt
  let rnd := Rnd.ofCode q.w.rnd
  let (us, sr1) := draws rnd 16384 sr
  (((List.range 16384).zip us).map fun (n, u) =>
    let d := drainCell q.w.fuse n
    let a := acc.get (Strand.ofNum d.1)
    let cell := a.cells.toArray.getD d.2 ⟨0, 0⟩
    (drainCode f rnd (q.w.sat == 1) u cell.m.toInt cell.e.toInt,
      a.rpois.getLsbD (d.2 / 64) || a.cpois.getLsbD (d.2 % 64) || a.ovr || a.ue), sr1)
/-- Bytes of the image of a sub-array (R249), as a number of 17 granules. -/
def Accum.header (a : Accum) : Nat :=
  pack [(64, a.rpois.toNat), (64, a.cpois.toNat), (17, a.kcnt.toNat), (1, a.ovr.toNat), (1, a.fold.toNat), (1, a.ue.toNat)]
def Accum.image (a : Accum) : List (Nat × Nat × Nat) :=
  (0, 64, a.header) :: (List.range 63).map (fun i => (64 * (i + 1), 64, 0)) ++
    (a.cells.toList.zip (List.range 4096)).map fun (c, n) => (granule + 16 * n, 16, c.m.toNat + 2 ^ 64 * c.e.toNat)
/-- An accumulation from its image. -/
def Accum.ofImage (read : Nat → Nat → Nat) (poison : Bool) : Accum :=
  let h := read 0 64
  { cells := Vector.ofFn fun n : Fin 4096 =>
      let v := read (granule + 16 * n.val) 16
      ⟨BitVec.ofNat 64 v, BitVec.ofNat 32 (v / 2 ^ 64)⟩
    rpois := BitVec.ofNat 64 h, cpois := BitVec.ofNat 64 (h / 2 ^ 64), kcnt := BitVec.ofNat 17 (h / 2 ^ 128)
    ovr := bitOf h 145, fold := bitOf h 146, ue := bitOf h 147 || poison }
/-- Sub-arrays of a mask, ascending, with the place of their images. -/
def maskSubs (m : BitVec 4) : List Strand := Strand.all.filter (maskBit m)
/-- mstat's value (R251). -/
def accStat (acc : Four Accum) : Word :=
  let accs : List Accum := [acc.K, acc.L, acc.X, acc.S]
  let four (f : Accum → Bool) : Nat := pack (accs.map fun a => (1, (f a).toNat))
  BitVec.ofNat 64 (pack [(17, (accs.map fun a => a.kcnt.toNat).foldl max 0), (4, four (·.ovr)), (4, four (·.fold)),
    (4, four fun a => a.rpois != 0 || a.cpois != 0 || a.ue), (4, four (·.ue))])
/-- Step 1 of R161 for a command at the head of the queue; A and B of one ring read the same tiles, and HEAD moves on by both, log 69. -/
def State.mxEffect (s : State) (c : CoreId) (x : Ctx) (q : MxCmd) : State :=
  let acc := (s.ctx c q.target).acc
  let base := granule * q.w.off.toNat
  match mxKind q.word with
  | .step =>
    let s1 := if q.w.aKind == 0 then
        s.popRing c x q.nameA (fuseTiles q.w.fuse * tileBytes (fuseRows q.w.fuse / fuseTiles q.w.fuse) q.w.rowBytes) else s
    if q.w.bKind == 0 then
      s1.popRing c x q.nameB (fuseTiles q.w.fuse * tileBytes (fuseCols q.w.fuse / fuseTiles q.w.fuse) (q.w.colBytes q.nk))
    else s1
  | .drain =>
    let (es, sr) := drainElems q acc (s.ctx c q.target).srDrain
    let w := (Fmt.ofCode q.w.dfmt).width
    let ws : List (Place × ElemWrite) := (es.zip (List.range es.length)).map fun ((v, po), n) =>
      let o := base + n * w / 8
      (.seg c x q.nameD o, { seg := some q.nameD, addr := o, bytes := (w + 7) / 8, val := v.code, bit := n * w % 8
                             width := if w < 8 then w else 0, poison := po || v.poison })
    let s1 := (s.writeElems ws).modCtx c q.target fun k => { k with srDrain := sr }
    if es.any (·.1.sat) then s1.modStrand c x .X fun t => { t with sat := true } else s1
  | .zero => s.modCtx c q.target fun k => { k with acc := ⟨Accum.reset, Accum.reset, Accum.reset, Accum.reset⟩ }
  | .store =>
    let subs := maskSubs q.w.mask
    (subs.zip (List.range subs.length)).foldl (fun s (sub, i) =>
      let b := base + i * (17 * granule)
      let s1 := ((acc.get sub).image).foldl (fun s (o, n, v) => s.writePlace (.seg c x q.nameD (b + o)) n v) s
      (List.range 1088).foldl (fun s l => s.modPlace (.seg c x q.nameD (b + 64 * l)) 64 fun m a => m.setPoison a false) s1) s
  | .load =>
    let subs := maskSubs q.w.mask
    let acc1 := (subs.zip (List.range subs.length)).foldl (fun (a : Four Accum) (sub, i) =>
      let b := base + i * (17 * granule)
      a.set sub (Accum.ofImage (fun o n => s.readPlace (.seg c x q.nameD (b + o)) n)
        (s.poisonPlace (.seg c x q.nameD b) (17 * granule)))) acc
    s.modCtx c q.target fun k => { k with acc := acc1, unrestored := k.unrestored &&& ~~~q.w.mask }
  | .stat => s.modStrand c x .X fun t => { t with pend := fillPend q.tag.serial q.w.statD (accStat acc) t.pend }
  | .seed => s
/-- COMMAND_COMPLETION of the matrix queue: the head command when it is past its commit point, or started and has none. -/
def State.completeMatrix (s : State) (c : CoreId) (x : Ctx) : State :=
  match (s.ctx c x).mx with
  | [] => s
  | q :: _ =>
    if q.seed.isSome || (if mxKind q.word == .step then q.phase != .committed else q.phase != .started) then s
    else
      let s1 := match mxKind q.word with
        | .drain | .store => (s.mxEffect c x q).rescanAll c x
        | _ => s.mxEffect c x q
      (s1.modCtx c x (·.without [q.tag.serial])).complete c x .matrix (plainStage q.tag)

end Sys2Proof.Machine
end

