-- ==== Sys2Proof/Machine/Copy.lean ====
section
/-! DEFINITION. The copy engine (R184-R189, R234, R264, R268, R277): its words, the start of a command, and what it writes when
it completes. -/
namespace Sys2Proof.Machine

inductive CpKind where
  | plain | gather | scatter | bcast | red | weight | fe | zero
  deriving DecidableEq, Repr
/-- What a copy word does; every other word is read as a plain copy, and never asked. -/
def cpKind : WideWord → CpKind
  | .cpG _ => .gather
  | .cpSc _ => .scatter
  | .cpBc _ => .bcast
  | .cpRed _ => .red
  | .cpW _ => .weight
  | .cpFe _ => .fe
  | .cpZero _ => .zero
  | _ => .plain
def CopyCmd.kind (q : CopyCmd) : CpKind := cpKind q.word
def copyDepth : Nat := 32
def Context.copyQueue (k : Context) (p : Strand) : List CopyCmd := if p == .S then k.copyS else k.copyL
def copyEngine (p : Strand) : Engine := if p == .S then .copyS else .copyL
def Context.modCopy (k : Context) (serial : Nat) (f : CopyCmd → CopyCmd) : Context :=
  let g (q : CopyCmd) : CopyCmd := if q.tag.serial == serial then f q else q
  { k with copyL := k.copyL.map g, copyS := k.copyS.map g }

/-! ## Enqueueing (R159, R160, R187, R188, R263) -/

/-- Bytes of a copy element (R184). -/
def CopyCmd.size (q : CopyCmd) : Nat :=
  match q.kind with
  | .red => (Fmt.ofCode q.w.rfmt).bytes
  | .weight => (Fmt.ofCode ((q.src.map (·.reg.fmt)).getD 0)).bytes
  | _ => (Fmt.ofCode ((q.dst.map (·.reg.fmt)).getD 0)).bytes
def snapTotal (s : Option Snap) : Nat := (s.map (·.reg.total)).getD 0
/-- Number of elements (R185, R187, R263). -/
def CopyCmd.count (q : CopyCmd) : Nat :=
  match q.kind with
  | .scatter | .weight => snapTotal q.src
  | _ => snapTotal q.dst
def CopyCmd.snaps (q : CopyCmd) : List Snap := [q.dst, q.src, q.idx].filterMap id
def CopyCmd.names (q : CopyCmd) : List Named := (q.snaps.map Snap.named).flatten
/-- The command of a copy word at the issuing slot. -/
def State.cpCmd (s : State) (i : WideWord) (w : CP) : CopyCmd :=
  let k := s.here
  let x := s.cur.ctx
  let kind := cpKind i
  { tag := s.tag false (w.sq == 1) w.pre w.cc w.inc, word := i, w := w
    dst := k.snapIf x (kind != .weight) (w.dst.setWidth 5)
    src := k.snapIf x (kind != .fe && kind != .zero) (w.src.setWidth 5)
    idx := k.snapIf x (kind == .gather || kind == .scatter) w.idx
    bar := if w.bar = 0 then none else
      let h := s.rd w.bar
      some (h, if barSpace h then 0xFFFF else k.resolved x (barHandle h))
    follow := none, phase := .queued, holds := []
    wpos := if kind == .weight then ((s.position s.cur.core).streams[w.dst.toNat]).wpos.toNat else 0, tails := [], rs := [] }
/-- WPOS advances at enqueue (R263). -/
def State.takeWrite (s : State) (q : CopyCmd) : State :=
  match q.kind with
  | .weight => s.modPosition s.cur.core fun p =>
      let ws := p.streams[q.w.dst.toNat]
      { p with streams := p.streams.set q.w.dst.toNat { ws with
          wpos := BitVec.ofNat 28 ((ws.wpos.toNat + q.count * q.size) % ws.bytes) } }
  | _ => s
/-- The command enters its strand's copy queue, with its ticket when it names a segment. -/
def State.enqueueCopy (s : State) (q : CopyCmd) : State × CopyCmd :=
  let named := !q.names.isEmpty
  let q := { q with tag := { q.tag with ticket := if named then some s.here.ticket else none } }
  ((s.takeWrite q).modHere (·.enqueued named), q)
def State.pushCopy (s : State) (q : CopyCmd) : State := s.modHere fun k =>
  match s.cur.strand with
  | .S => { k with copyS := k.copyS ++ [q] }
  | _ => { k with copyL := k.copyL ++ [q] }
/-- A copy word: its tokens are popped last, log 69. -/
def cpWord (i : WideWord) (w : CP) (s : State) : State :=
  s.issue (.wide i) [w.bar] [] fun s =>
    let q := s.cpCmd i w
    s.checkNames q.snaps q.names fun s =>
      if (s.here.copyQueue s.cur.strand).length ≥ copyDepth then s.stall .interlock
      else s.popTokens w.pre.tok fun s =>
        let (s1, q) := s.enqueueCopy q
        s1.pushCopy q

def execCp (w : CP) (s : State) : Out := .next (cpWord (.cp w) w s)
def execCpG (w : CP) (s : State) : Out := .next (cpWord (.cpG w) w s)
def execCpSc (w : CP) (s : State) : Out := .next (cpWord (.cpSc w) w s)
def execCpBc (w : CP) (s : State) : Out := .next (cpWord (.cpBc w) w s)
def execCpRed (w : CP) (s : State) : Out := .next (cpWord (.cpRed w) w s)
def execCpW (w : CP) (s : State) : Out := .next (cpWord (.cpW w) w s)
def execCpFe (w : CP) (s : State) : Out := .next (cpWord (.cpFe w) w s)
def execCpZero (w : CP) (s : State) : Out := .next (cpWord (.cpZero w) w s)
/-- cp.mm: the copy takes its ticket first, the matrix word of X the next; the word is carried when X issues it and its guard
holds (R188), and two of them in one bundle both carry it, log 69. -/
def execCpMm (w : CP) (s : State) : Out :=
  .next (s.issue (.wide (.cpMm w)) [w.bar] [] fun s =>
    let q := s.cpCmd (.cpMm w) w
    s.checkNames q.snaps q.names fun s =>
      if (s.here.copyQueue s.cur.strand).length ≥ copyDepth then s.stall .interlock
      else s.popTokens w.pre.tok fun s =>
        let (s1, q) := s.enqueueCopy q
        match s.cur.xword.bind fun i => (mxFields i).map fun m => (i, m) with
        | some (i, m) =>
          if s.cur.carried && (s.here.strand .X).wideGuard m.pre then
            let (s2, f) := s1.prepareMx i m
            s2.pushCopy { q with follow := some f }
          else s1.pushCopy q
        | none => s1.pushCopy q)

/-! ## Rings and receivers (R234, R268) -/

/-- Cores of the column, other than `c`, in order, with their task contexts that run a task of the same gang. -/
def State.gangMates (s : State) (c : CoreId) (x : Ctx) : List (CoreId × Ctx) :=
  let k := s.ctx c x
  let mates : List CoreId := [0, 1, 2, 3].map fun p => ⟨c.val / 4 * 4 + p % 4, by omega⟩
  if k.gang == 1 || k.gang == 2 then
    (mates.filter (· != c)).filterMap fun d =>
      ([Ctx.t0, .t1].find? fun y => (s.ctx d y).busy && (s.ctx d y).gangId == k.gangId && (s.ctx d y).part == k.part).map
        fun y => (d, y)
  else []
/-- The cores that a copy writes to: its own, and for cp.bc to a local stream those of its gang in the cluster. -/
def State.receivers (s : State) (c : CoreId) (x : Ctx) (q : CopyCmd) : List (CoreId × Ctx) :=
  match q.kind, q.dst with
  | .bcast, some d => if d.reg.space == 0 then (c, x) :: s.gangMates c x else [(c, x)]
  | _, _ => [(c, x)]
def CopyCmd.dstSpot (q : CopyCmd) (d : Snap) (k : Nat) : Spot := d.reg.spot (8 * q.size) 0 k
/-- Value of an index element (R187): unsigned, of the index stream's own size. -/
def indexSize (i : Snap) : Nat := (Fmt.ofCode i.reg.fmt).bytes
inductive Idx where
  | fault (c : Cause) (eval : Word)
  | waits (s : State)
  | ok (s : State) (j : Nat)
def State.indexAt (s : State) (c : CoreId) (x : Ctx) (q : CopyCmd) (k : Nat) : Idx :=
  match q.idx with
  | none => .ok s k
  | some i =>
    let e := i.reg.spot (8 * indexSize i) 0 (k % i.reg.total)
    match s.reach c x q.tag.strand (some q.tag.serial) (q.tag.ticket.getD 0) i needRd false [e] with
    | .fault cause ev => .fault cause ev
    | .stalls s1 _ => .waits s1
    | .ok s1 ps => .ok s1 ((ps.map fun p => (s1.elemAt e p).val).headD 0)
/-- The state after the indices have been read, and the destination indices that the copy writes; or it waits for an index's page. -/
inductive Written where
  | waits (s : State)
  | ok (s : State) (l : List Nat)
/-- Destination indices of a scatter's elements, up to the first bad index. -/
def State.scattered (s : State) (c : CoreId) (x : Ctx) (q : CopyCmd) : List Nat → Written
  | [] => .ok s []
  | k :: r => match s.indexAt c x q k with
    | .waits s1 => .waits s1
    | .fault _ _ => .ok s []
    | .ok s1 j =>
      if j < snapTotal q.dst then
        (match s1.scattered c x q r with
          | .ok s2 l => .ok s2 (j :: l)
          | w => w)
      else .ok s1 []
/-- Destination indices that the copy writes. -/
def State.written (s : State) (c : CoreId) (x : Ctx) (q : CopyCmd) : Written :=
  match q.kind with
  | .scatter => s.scattered c x q (List.range q.count)
  | _ => .ok s (List.range q.count)
/-- A ring append of the elements of `l` (R234): its length in whole tiles, or its fault. -/
def appendLen (q : CopyCmd) (d : Snap) (l : List Nat) (g : Seg) : Except (Cause × Word) Nat :=
  let offs := l.map fun k => (q.dstSpot d k).addr
  match offs.find? (· < 0) with
  | some o => .error (.segbound, BitVec.ofInt 64 o)
  | none =>
    let top := offs.foldl max (-1)
    let l := if top < 0 then 0 else roundUp (top.toNat + q.size) (max (ringTile g) 1)
    if l > ringSpan g then .error (.segbound, BitVec.ofNat 64 l) else .ok l
inductive Ring where
  | fault (c : Cause) (eval : Word)
  | full
  /-- Tails of the rings, and the lengths appended. -/
  | ok (l : List (CoreId × Ctx × Nat × Nat))
/-- The rings among the receivers' destinations: each must have room. -/
def State.ringRoom (s : State) (q : CopyCmd) (d : Snap) (l : List Nat) : List (CoreId × Ctx) → Ring
  | [] => .ok []
  | (c, x) :: r => match (s.core c).seg? x d.name with
    | some g =>
      if g.cls != 1 then s.ringRoom q d l r
      else match appendLen q d l g with
        | .error (cause, ev) => .fault cause ev
        | .ok n =>
          if ringSpan g - ringFill g < n then .full
          else match s.ringRoom q d l r with
            | .ok rest => .ok ((c, x, g.tail.toNat, n) :: rest)
            | f => f
    | none => s.ringRoom q d l r
/-- A receiver's destination is a ring. -/
def State.appends (s : State) (d : Snap) (rs : List (CoreId × Ctx)) : Bool :=
  d.reg.space == 0 && rs.any fun (c, x) => match (s.core c).seg? x d.name with
    | some g => g.cls == 1
    | none => false

/-! ## Starting (R149, R261, R268, R277) -/

/-- The checks of a copy's barrier handle when it starts (R277): those of R270 and, for SPACE 0, the segment's length and that it can be
resident. The page of its directory entry is waited for. -/
inductive BarCheck where
  | fault (c : Cause) (eval : Word)
  | waits (s : State)
  | ok
def State.barCheck (s : State) (c : CoreId) (x : Ctx) (t : Tag) (h : Word) (name : BitVec 16) : BarCheck :=
  if h.getLsbD 62 || h.extractLsb' 24 32 != 0 || (barSpace h && barHandle h != 0) then .fault .prot h
  else if barSpace h then
    (match s.barPlace c x .L none 0 none h with
      | .fault cause ev => .fault cause ev
      | _ => .ok)
  else if name == 0xFFFF then .fault .segfail (segEval 0xFFFF (barHandle h))
  else match s.segDesc c x name with
    | .found g =>
      if g.cls != 0 then .fault .prot h
      else if barOff h % 16 != 0 then .fault .align (BitVec.ofNat 64 (barOff h))
      else if barOff h + 16 > g.bytes then .fault .segbound (BitVec.ofNat 64 (barOff h))
      else if ((s.core c).seg? x name).isNone && g.granules > (s.ctx c x).room g.isAcc then .fault .segfail (segEval name (barHandle h))
      else .ok
    | .fails => .fault .segfail (segEval name (barHandle h))
    | .page va pte => match s.touchPage c x t.strand (some t.serial) (t.ticket.getD 0) name va pte with
      | .waits s1 => .waits s1
      | _ => .fault .segfail (segEval name (barHandle h))
def State.barStart (s : State) (c : CoreId) (x : Ctx) (q : CopyCmd) : BarCheck :=
  match q.bar with
  | some (h, n) => s.barCheck c x q.tag h n
  | none => .ok
/-- cp.w needs the shadow quarter of its position (R261). -/
def State.shadowFault (s : State) (c : CoreId) (x : Ctx) (q : CopyCmd) : Option (Cause × Word) :=
  match q.kind with
  | .weight =>
    let p := s.position c
    if (p.half (~~~p.active)).owned (s.ctx c x).part then none
    else some (.prot, BitVec.ofNat 64 ((p.streams[q.w.dst.toNat]).at_ q.wpos))
  | _ => none
/-- The receivers of a broadcast hold the destination's name pinned. -/
def State.unpinned (s : State) (q : CopyCmd) (d : Snap) (rs : List (CoreId × Ctx)) : Bool :=
  q.kind == .bcast && d.reg.space == 0 && rs.any fun (c, x) => match (s.core c).seg? x d.name with
    | some g => g.pins == 0
    | none => true
/-- COPY_COMMAND_START: the head of a copy queue touches and holds its segments, has its barrier handle checked, and waits for
ring room; then it has started. A held context starts none (R357). -/
def execCopyCommandStart (c : CoreId) (x : Ctx) (p : Strand) (s : State) : Out :=
  .next (s.unlessFrozen c (match (s.ctx c x).copyQueue p with
    | [] => s
    | q :: _ =>
      if q.phase != .queued || (s.ctx c x).held then s
      else match s.barStart c x q with
        | .fault cause ev => s.endFault c x q.tag cause ev
        | .waits s1 => s1
        | .ok => match s.holdAll c x q.tag.strand q.tag.serial (q.tag.ticket.getD 0) (firstNames q.names []) with
          | .fails s1 (n, h) => s1.endFault c x q.tag .segfail (segEval n h)
          | .waits s1 l => s1.modCtx c x (·.modCopy q.tag.serial fun q => { q with holds := l })
          | .all s1 l =>
            let hold (s : State) : State := s.modCtx c x (·.modCopy q.tag.serial fun q => { q with holds := l })
            let held := hold s1
            if q.kind == .weight && s1.swapWaits c x q.tag.serial then held
            else match s1.shadowFault c x q with
            | some (cause, ev) => s1.endFault c x q.tag cause ev
            | none => match q.dst with
                | none => held.modCtx c x (·.modCopy q.tag.serial fun q => { q with phase := .started })
                | some d =>
                  let rs := s1.receivers c x q
                  if s1.unpinned q d rs then s1.endFault c x q.tag .segfail (segEval d.name d.reg.handle)
                  else match (if s1.appends d rs then s1.written c x q else .ok s1 []) with
                    | .waits s2 => hold s2
                    | .ok s2 js => match (if d.reg.space == 0 then s2.ringRoom q d js rs else .ok []) with
                      | .fault cause ev => s2.endFault c x q.tag cause ev
                      | .full => hold s2
                      | .ok l => (hold s2).modCtx c x (·.modCopy q.tag.serial fun q => { q with
                          phase := .started, tails := l, rs := rs.map fun r => (r.1, r.2, (s2.ctx r.1 r.2).task) })))

/-! ## Moving the data (R185-R187) -/

/-- A source element as it is read: value, poison, F of its 4-byte words. -/
structure Piece where
  val : Nat
  poison : Bool
  f : List Bool
inductive Got where
  | fault (c : Cause) (eval : Word)
  | waits (s : State)
  | ok (s : State) (p : Piece)
  | place (s : State) (p : Place)
def State.readPiece (s : State) (c : CoreId) (x : Ctx) (q : CopyCmd) (k : Nat) : Got :=
  match q.src with
  | none => .ok s ⟨0, false, [false, false]⟩
  | some r =>
    let e := r.reg.spot (8 * q.size) 0 (k % r.reg.total)
    match s.reach c x q.tag.strand (some q.tag.serial) (q.tag.ticket.getD 0) r needRd false [e] with
    | .fault cause ev => .fault cause ev
    | .stalls s1 _ => .waits s1
    | .ok s1 ps => (match ps with
      | p :: _ =>
        if q.w.fe == 1 && s1.badFPlace p q.size then .fault .eccue e.eval
        else .ok s1 ⟨(s1.elemAt e p).val, (s1.elemAt e p).poison,
          [0, 4].map fun o => s1.fPlace (match p with
            | .dev a => .dev (a + o)
            | .seg c x n a => .seg c x n (a + o)
            | .win d a => .win d (a + o)) 1 true⟩
      | [] => .ok s1 ⟨0, false, []⟩)
/-- Where destination element `j` lies at a receiver. -/
def State.dstPlace (s : State) (c : CoreId) (x : Ctx) (q : CopyCmd) (d : Snap) (r : CoreId × Ctx) (j : Nat) : Got :=
  let e := q.dstSpot d j
  if d.reg.space == 0 && (r != (c, x) || q.tails.any fun t => t.1 == r.1 && t.2.1 == r.2) then
    if e.addr % e.bytes != 0 then .fault .align e.eval
    else match (s.core r.1).seg? r.2 d.name with
      | none => .fault .segfail (segEval d.name d.reg.handle)
      | some g => match q.tails.find? fun t => t.1 == r.1 && t.2.1 == r.2 with
        | some (_, _, t, _) => .place s (.seg r.1 r.2 d.name ((t + e.addr.toNat) % ringSpan g))
        | none =>
          if e.addr < 0 || e.addr + e.bytes > g.bytes then .fault .segbound e.eval
          else .place s (.seg r.1 r.2 d.name e.addr.toNat)
  else match s.reach c x q.tag.strand (some q.tag.serial) (q.tag.ticket.getD 0) d
      (if q.kind == .red then needRW else if q.kind == .fe then needFe else needWr) false [e] with
    | .fault cause ev => .fault cause ev
    | .stalls s1 _ => .waits s1
    | .ok s1 ps => (match ps with
      | p :: _ => if q.w.fe != 0 && s1.badFPlace p q.size then .fault .eccue e.eval else .place s1 p
      | [] => .waits s1)

/-- One reduction (R88, R187): RNE once, integers wrap. -/
def redCode (f : Fmt) (old new : Nat) : Nat := (fitTo f .rne false 0 (addVal .rne (f.val old) (f.val new))).code
/-- What has been written so far: elements with their poison, and what F copy mode has seen of each word. -/
structure Moves where
  s : State
  ws : List (Place × ElemWrite)
  fs : List (Place × Nat × Bool)
def Place.shift (p : Place) (n : Nat) : Place :=
  match p with
  | .dev a => .dev (a + n)
  | .seg c x name a => .seg c x name (a + n)
  | .win d a => .win d (a + n)
def Place.addr : Place → Nat
  | .dev a => a
  | .seg _ _ _ a => a
  | .win _ a => a
def Place.word : Place → Place
  | .dev a => .dev (a / 4 * 4)
  | .seg c x n a => .seg c x n (a / 4 * 4)
  | .win d a => .win d (a / 4 * 4)
/-- The F of a word comes from the source of its lowest written byte, the latest writer of that byte (R186). -/
def noteF (l : List (Place × Nat × Bool)) (w : Place) (first : Nat) (f : Bool) : List (Place × Nat × Bool) :=
  match l.find? (·.1 == w) with
  | none => l ++ [(w, first, f)]
  | some (_, old, _) => if first ≤ old then l.map fun e => if e.1 == w then (w, first, f) else e else l
/-- Writes one element at its place, with its F effect. -/
def Moves.put (m : Moves) (q : CopyCmd) (p : Place) (v : Piece) : Moves :=
  let n := q.size
  let old := m.s.readPlace p n
  let val := if q.kind == .red then redCode (Fmt.ofCode q.w.rfmt) old v.val else v.val
  let po := v.poison || (q.kind == .red && m.s.poisonPlace p n)
  let e : ElemWrite := { seg := none, addr := p.addr, bytes := n, val := val, bit := 0, width := 0, poison := po }
  let s1 := if q.kind == .fe then m.s else m.s.writePlace p n val
  let s2 := match q.w.fe.toNat with
    | 2 => s1.setFPlace p n true
    | 3 => s1.setFPlace p n false
    | _ => s1
  { s := s2, ws := if q.kind == .fe then m.ws else m.ws ++ [(p, e)]
    fs := if q.w.fe == 1 then
        (List.range ((n + 3) / 4)).foldl (fun l i => noteF l (p.shift (4 * i)).word (p.addr + 4 * i) (v.f.getD i false)) m.fs
      else m.fs }
/-- Poison of the lines and the F bits of copy mode, when all elements have been written. -/
def Moves.finish (m : Moves) : State :=
  m.fs.foldl (fun s (p, _, f) => s.setFPlace p 4 f) (m.s.poisonLines m.ws)

inductive Moved where
  | waits (s : State)
  /-- It ended by a fault, with what it had written. -/
  | fault (m : Moves) (c : Cause) (eval : Word)
  | done (m : Moves)
/-- Element `j` of the destination at each receiver. -/
def State.putAll (q : CopyCmd) (c : CoreId) (x : Ctx) (d : Snap) (v : Piece) (j : Nat) (m : Moves) : List (CoreId × Ctx) → Moved
  | [] => .done m
  | r :: rest => match m.s.dstPlace c x q d r j with
    | .fault cause ev => .fault m cause ev
    | .waits s1 => .waits s1
    | .ok _ _ => .done m
    | .place s1 p => State.putAll q c x d v j (({ m with s := s1 }).put q p v) rest
/-- The copy, element by element in ascending order (R185). An index element of a gather or scatter only selects: that its poison does
not go to the destination is the model's choice, log 82. -/
def State.moveAll (q : CopyCmd) (c : CoreId) (x : Ctx) (d : Snap) (rs : List (CoreId × Ctx)) (m : Moves) : List Nat → Moved
  | [] => .done m
  | k :: rest =>
    match m.s.indexAt c x q k with
    | .fault cause ev => .fault m cause ev
    | .waits s1 => .waits s1
    | .ok s1 j =>
      let bad : Bool := match q.kind with
        | .gather => decide (j ≥ snapTotal q.src)
        | .scatter => decide (j ≥ d.reg.total)
        | _ => false
      if bad then .fault m .segbound (BitVec.ofNat 64 j)
      else
        let (sk, dk) := match q.kind with
          | .gather => (j, k)
          | .scatter => (k, j)
          | _ => (k, k)
        match s1.readPiece c x q sk with
        | .fault cause ev => .fault m cause ev
        | .waits s2 => .waits s2
        | .place _ _ => .done m
        | .ok s2 v => match State.putAll q c x d v dk { m with s := s2 } rs with
          | .done m1 => State.moveAll q c x d rs m1 rest
          | f => f

/-! ## cp.w (R263, R264) -/

inductive Bytes where
  | fault (l : List Piece) (c : Cause) (eval : Word)
  | waits (s : State)
  | ok (s : State) (l : List Piece)
def State.readAll (s : State) (c : CoreId) (x : Ctx) (q : CopyCmd) : List Nat → Bytes
  | [] => .ok s []
  | k :: r => match s.readPiece c x q k with
    | .fault cause ev => .fault [] cause ev
    | .waits s1 => .waits s1
    | .place s1 _ => .ok s1 []
    | .ok s1 v => match s1.readAll c x q r with
      | .ok s2 l => .ok s2 (v :: l)
      | .fault l cause ev => .fault (v :: l) cause ev
      | f => f
/-- Writes elements into the shadow quarter: bytes, and the poison of each line (R68, R264). -/
def State.writeBank (s : State) (c : CoreId) (q : CopyCmd) (vs : List Piece) : State :=
  s.modPosition c fun p =>
    let ws := p.streams[q.w.dst.toNat]
    let at_ (i : Nat) : Nat := ws.at_ (q.wpos + i)
    let n := q.size
    let ix := List.range vs.length
    p.modHalf (~~~p.active) fun h =>
      let h := (vs.zip ix).foldl (fun h (v, k) =>
        (List.range n).foldl (fun h b => h.put (at_ (k * n + b)) (BitVec.ofNat 8 (v.val / 256 ^ b))) h) h
      let ls := ((List.range (vs.length * n)).map fun i => at_ i / 64).eraseDups
      { h with store := ls.foldl (fun m l =>
        let mine := (vs.zip ix).filter fun (_, k) => (List.range n).any fun b => at_ (k * n + b) / 64 == l
        if mine.any (·.1.poison) then m.setPoison (64 * l) true
        else if (List.range 64).all fun b => (List.range (vs.length * n)).any fun i => at_ i == 64 * l + b then
          m.setPoison (64 * l) false
        else m) h.store }

/-! ## Completing (R161, R189) -/

/-- Tails advance after the writes are performed (R234, R268). -/
def State.advanceTails (s : State) (q : CopyCmd) (d : Snap) : State :=
  q.tails.foldl (fun s (r, y, _, l) => s.modCore r (·.modSeg y d.name fun g =>
    { g with tail := BitVec.ofNat 23 ((g.tail.toNat + l) % (2 * ringSpan g)) })) s
/-- The completion of a copy: its count-down, counter, follow-on and tokens. -/
def copyStage (q : CopyCmd) (receivers : Nat) : Stage := ⟨q.tag, q.bar, receivers, false, q.follow⟩
/-- Only the page faults that a waiting attempt has recorded are kept, and what waits for them; the attempt itself is abandoned (R149,
R153). -/
def State.keepFaults (s s1 : State) (c : CoreId) (x : Ctx) : State :=
  { s with hbm := { s.hbm with faults := s1.hbm.faults } }.modCtx c x fun k => { k with
    strands := k.strands.map fun p t => { t with pages := (s1.strand c x p).pages } }
/-- The receivers of a started copy: its own core, and those whose tasks still stand where they stood at its start (R268). -/
def State.stillThere (s : State) (c : CoreId) (x : Ctx) (q : CopyCmd) : List (CoreId × Ctx) :=
  (s.receivers c x q).filter fun r => r == (c, x) || q.rs.contains (r.1, r.2, (s.ctx r.1 r.2).task)
/-- The scans after a copy's writes, at each receiver (R312). -/
def State.rescanEach (s : State) (rs : List (CoreId × Ctx)) : State := rs.foldl (fun s r => s.rescan (.seg r.1 r.2 0 0)) s.rescanDies
/-- COMMAND_COMPLETION of a copy queue: its started head is performed whole, waits for a page, or ends by a fault. -/
def State.completeCopy (s : State) (c : CoreId) (x : Ctx) (p : Strand) : State :=
  match (s.ctx c x).copyQueue p with
  | [] => s
  | q :: _ =>
    if q.phase != .started then s
    else match q.dst with
      | none => (match s.readAll c x q (List.range q.count) with
        | .waits s1 => s.keepFaults s1 c x
        | .fault l cause ev => (s.writeBank c q l).endFault c x q.tag cause ev
        | .ok s1 l => ((s1.writeBank c q l).modCtx c x (·.without [q.tag.serial])).complete c x (copyEngine p) (copyStage q 1))
      | some d =>
        let rs := s.stillThere c x q
        if s.unpinned q d rs then s.endFault c x q.tag .segfail (segEval d.name d.reg.handle)
        else match State.moveAll q c x d rs ⟨s, [], []⟩ (List.range q.count) with
          | .waits s1 => s.keepFaults s1 c x
          | .fault m cause ev => (m.finish.rescanEach rs).endFault c x q.tag cause ev
          | .done m =>
            let s1 := (m.finish.advanceTails q d).rescanEach rs
            (s1.modCtx c x (·.without [q.tag.serial])).complete c x (copyEngine p) (copyStage q rs.length)

end Sys2Proof.Machine
end

