-- ==== Sys2Proof/Machine/Cluster.lean ====
section
/-! DEFINITION. The cluster (R255-R277): its words, its register map, and the events of the weight layer. -/
namespace Sys2Proof.Machine

/-- A cluster, fabric or package word that acts at issue: it pops its tokens, acts, and pushes its tokens. -/
def syWord (i : WideWord) (w : SY) (rd wr : List GReg) (body : State → (State → State) → State) (s : State) : State :=
  s.issue (.wide i) rd wr fun s => body s fun s =>
    s.popTokens w.pre.tok fun s => if w.pre.tok &&& 12 = 0 then s else s.landWith 1 false w.pre.tok .tokens

/-! ## wb.swap, wb.stat (R273, R274) -/

/-- The saved tasks that no context holds. -/
def State.away (s : State) : List Image :=
  (s.pkg.saved ++ s.pkg.images).filter fun i => !allCores.any fun c => [Ctx.t0, .t1].any fun x => (s.ctx c x).busy && (s.ctx c x).task == i.k.task
/-- A partition owns both quarters of a position. -/
def Position.ownsBoth (p : Position) (part : PartId) : Bool := p.half0.owned part && p.half1.owned part
def execWbSwap (w : SY) (s : State) : Out :=
  .next (syWord (.wbSwap w) w [] [] (fun s go =>
    let p := s.position s.cur.core
    if !p.ownsBoth s.here.part || p.pend.isSome then s.trap .prot (BitVec.ofNat 64 (posOf s.cur.core).val)
    else s.thenIssue go fun s =>
      let k := s.myCore.ctxs
      let sw : Swap := ⟨s.cur.ctx, w.cc, w.inc, ⟨k.t0.serial, k.t1.serial, k.fw.serial⟩, ⟨k.t0.task, k.t1.task, k.fw.task⟩,
        (s.away.filter (·.core == s.cur.core)).map fun i => (i.k.task, i.k.serial), s.myCore.now⟩
      (s.modPosition s.cur.core fun p => { p with pend := some sw }).modHere fun k => { k with swaps := k.swaps + 1 }) s)
/-- The map of R274. -/
def State.swapStat (s : State) (c : CoreId) (part : PartId) : Word :=
  let p := s.position c
  BitVec.ofNat 64 (pack [(1, p.active.toNat), (1, p.pend.isSome.toNat), (1, (p.ownsBoth part).toNat),
    (1, (s.cluster (clusterOf c)).hot.toNat), (4, 0), (16, p.swaps.toNat)])
def execWbStat (w : SY) (s : State) : Out :=
  .next (syWord (.wbStat w) w [] [w.d] (fun s go =>
    s.thenIssue go fun s => s.landReg w.d 1 (s.swapStat s.cur.core s.here.part)) s)

/-! ## Barrier words (R270-R277, R329) -/

/-- Memory-extended words of the strand stand in its queue and have not been sent yet: a barrier word on a SPACE 1 object goes to Sage
behind them (R398). -/
def State.unsent (s : State) : Bool :=
  match s.here.meQueue s.cur.strand with
  | [] => false
  | q :: r => !r.isEmpty || q.phase == .queued
/-- The object of a barrier word's handle; a fault of the handle is a completion fault, and the word then does nothing else. -/
def State.withBarrier (s : State) (h : Word) (go : State → Place → State) : State :=
  let name? := if barSpace h then none else resolveHandle s.here s.cur.ctx (barHandle h)
  match s.barPlace s.cur.core s.cur.ctx s.cur.strand none s.cur.ticket name? h with
  | .fault c e => s.landFault 1 true true c e
  | .stalls s1 => s1.stall .segment
  | .ok s1 p => go s1 p
/-- A barrier word's operation on a SPACE 1 object comes before its turn in a replay (R309). -/
def State.tooEarly (s : State) (p : Place) : Bool := s.outOfTurn s.cur.core s.cur.ctx s.cur.strand (p.sageWords 16)
/-- It arrives at Sage. -/
def State.arrives (s : State) (p : Place) : State := s.noteArrival s.cur.core s.cur.ctx s.cur.strand (p.sageWords 16)
/-- BAROVER of a barrier word: the object changes only by OVER := 1 (R275). -/
def State.barOver (s : State) (p : Place) (b : Barrier) (h : Word) (mark : Bool) : State :=
  (if mark then s.setBarrier p { b with ovr := true } else s).landFault 1 true true .barover h
/-- The same of a word that is sent to Sage in program order, when its object lies there (R398). -/
def State.sentBarrier (s : State) (h : Word) (go : State → Place → State) : State :=
  s.withBarrier h fun s1 p => if (barSpace h && s.unsent) || s1.tooEarly p then s.stall .interlock else go s1 p
def execBarInit (w : SY) (s : State) : Out :=
  .next (syWord (.barInit w) w [w.a, w.b] [] (fun s go =>
    let h := s.rd w.a
    let n := (s.rd w.b).setWidth 16
    s.sentBarrier h fun s p => s.thenIssue go fun s =>
      let (s1, b) := (s.arrives p).barrier p
      if b.wait != 0 then s1.barOver p b h true
      else if n = 0 then s1.barOver p b h false
      else (s1.setBarrier p ⟨0, n, n, 0, 0, true, false, false, 0⟩).initBarrier p) s)
/-- Earlier accesses of the strand and the replay queue of its context (R175, R289); copies, and matrix, fabric and vector commands of
the strand are not waited for, log 35. -/
def State.strandBusy (s : State) : Bool := !(s.here.meQueue s.cur.strand).isEmpty || !s.here.replay.isEmpty
def execBarArr (w : SY) (s : State) : Out :=
  .next (syWord (.barArr w) w [w.a] [w.d] (fun s go =>
    let h := s.rd w.a
    s.sentBarrier h fun s p =>
      let (s0, b) := s.barrier p
      if !b.armed then s0.thenIssue go fun s => (s.arrives p).barOver p b h false
      else if w.imm.toNat > b.pend.toNat then s0.thenIssue go fun s => (s.arrives p).barOver p b h true
      else if s.strandBusy then s0.stall .interlock
      else s0.thenIssue go fun s =>
        ((s.arrives p).testPhase p { b with pend := b.pend - w.imm }).answer w.d (b.gen.setWidth 64) false) s)
/-- The issuing strand is parked on a barrier. -/
def State.parkedHere (s : State) : Bool :=
  let mine (v : Waiter) : Bool := v.isBarrier && v.core == s.cur.core && v.ctx == s.cur.ctx && v.strand == s.cur.strand
  s.myCore.waitList.any mine || s.dies.any fun d => d.waiters.any mine || d.parked.any mine
/-- WAIT bit of the issuing strand in an object (R269, R329). -/
def State.waitBit (s : State) (p : Place) : BitVec 16 :=
  match p with
  | .win _ _ => 1#16 <<< clusterInDie s.cur.core
  | _ => 1#16 <<< (4 * layerOf s.cur.core + s.cur.strand.num)
/-- The issuing strand parks on an object (R276, R310). WORD of a SPACE 1 waiter's record holds the object's offset in the window: the
model's choice (R314, log 83). -/
def State.parkStrand (s : State) (p : Place) (gen : BitVec 4) (h : Word) : State :=
  let w : Waiter := { core := s.cur.core, ctx := s.cur.ctx, strand := s.cur.strand, serial := s.here.serial + 1, arrival := 0
                      place := p, bytes := 16, va := BitVec.ofNat 57 (barOff h), cond := .phase gen, part := s.here.part
                      record := none }
  let s1 := s.modHere (·.enqueued false)
  match p with
  | .win d _ => (match s1.enterDie d w with
    | .table s2 _ | .parked s2 _ => s2
    | .no => s)
  | _ => s1.modCore s.cur.core fun k => { k with
      waitList := k.waitList ++ [{ w with arrival := k.arrivals }], arrivals := k.arrivals + 1 }
def execBarWait (w : SY) (s : State) : Out :=
  .next (syWord (.barWait w) w [w.a, w.b] [w.d] (fun s go =>
    let h := s.rd w.a
    match s.me.woken with
    | some v => s.thenIssue go fun s => (s.modMe fun t => { t with woken := none }).answer w.d v false
    | none =>
      if s.parkedHere || s.me.resend.any (·.2) then s.stall .barrier
      else s.withBarrier h fun s p =>
        let (s0, b) := s.barrier p
        let g := (s.rd w.b).setWidth 4
        if s.tooEarly p then s.stall .barrier
        else if b.gen != g then s0.thenIssue go fun s => ((s.arrives p).modMe fun t => { t with resend := none }).answer w.d b.flags false
        else
          let s1 := s0.parkStrand p g h
          (if s1.parkedHere then
              ((s1.arrives p).setBarrier p { b with wait := b.wait ||| s1.waitBit p }).modMe fun t => { t with resend := none }
            else (s1.modHere (·.enqueued false)).modMe fun t => { t with
              resend := some ((t.resend.map (·.1)).getD (s.here.serial + 1), true) }).stall .barrier) s)
/-- INP or OUTP plus Gb<15:0>, which is not negative (R29, R277). -/
def barXfer (i : WideWord) (w : SY) (inbound : Bool) (s : State) : State :=
  syWord i w [w.a, w.b] [] (fun s go =>
    let h := s.rd w.a
    let n := (s.rd w.b).toNat % 65536
    s.sentBarrier h fun s p => s.thenIssue go fun s =>
      let (s1, b) := (s.arrives p).barrier p
      let v := (if inbound then b.inp else b.outp).toInt + n
      if v > 32767 then s1.barOver p b h true
      else
        let r := BitVec.ofInt 16 v
        s1.testPhase p (if inbound then { b with inp := r } else { b with outp := r })) s
def execBarXferIn (w : SY) (s : State) : Out := .next (barXfer (.barXferIn w) w true s)
def execBarXferOut (w : SY) (s : State) : Out := .next (barXfer (.barXferOut w) w false s)

/-! ## The register map (R256, R259, R262, R266) -/

def Cluster.thermal (k : Cluster) : Word :=
  BitVec.ofNat 64 (pack [(16, k.temp.toNat), (1, k.hot.toNat), (1, k.chg.isSome.toNat), (2, k.ratio.toNat)])
def Position.control (p : Position) : Word :=
  BitVec.ofNat 64 (pack [(6, p.half0.owner.toNat), (6, p.half1.owner.toNat), (1, p.half0.valid.toNat), (1, p.half1.valid.toNat),
    (1, p.active.toNat), (1, p.pend.isSome.toNat), (8, p.half0.keyEpoch.toNat), (8, p.half1.keyEpoch.toNat), (16, p.swaps.toNat)])
/-- A cluster register by index. -/
inductive ClusterReg where
  | slot (n : Fin 16)
  | control (p : Fin 4)
  | thermal
  | stalls (p : Fin 4)
  | config (p : Fin 4) (n : Fin 64)
  | position (p : Fin 4) (n : Fin 64)
  deriving DecidableEq, Repr
def clusterReg (i : Nat) : Option ClusterReg :=
  if h : i < 16 then some (.slot ⟨i, h⟩)
  else if 0x20 ≤ i ∧ i < 0x24 then some (.control ⟨i % 4, Nat.mod_lt _ (by decide)⟩)
  else if i = 0x30 then some .thermal
  else if 0x31 ≤ i ∧ i < 0x35 then some (.stalls ⟨(i - 0x31) % 4, Nat.mod_lt _ (by decide)⟩)
  else if 0x100 ≤ i ∧ i < 0x300 then
    let p : Fin 4 := ⟨(i - 0x100) / 128 % 4, Nat.mod_lt _ (by decide)⟩
    let n : Fin 64 := ⟨i / 2 % 64, Nat.mod_lt _ (by decide)⟩
    some (if i % 2 = 0 then .config p n else .position p n)
  else none
def Cluster.read (k : Cluster) : Option ClusterReg → Word
  | none => 0
  | some (.slot n) => k.table[n.val].setWidth 64
  | some (.control p) => k.pos[p.val].control
  | some .thermal => k.thermal
  | some (.stalls p) => k.pos[p.val].stalls.setWidth 64
  | some (.config p n) => let w := (k.pos[p.val]).streams[n.val]; w.len.setWidth 64 <<< 22 ||| w.base.setWidth 64
  | some (.position p n) => let w := (k.pos[p.val]).streams[n.val]; w.wpos.setWidth 64 <<< 32 ||| w.rpos.setWidth 64
def slotKind (e : BitVec 5) : Nat := e.toNat / 4
/-- Weight read, copy fill and refresh slots of a table (R256). -/
def bankSlots (t : Vector (BitVec 5) 16) : Nat :=
  (t.toList.filter fun e => slotKind e == 0 || slotKind e == 2 || slotKind e == 3).length
def slotLimit (ratio : Nat) : Nat := match ratio with | 0 => 16 | 1 => 12 | _ => 10
/-- OWNER or V changes: a new key (R260). -/
def Quarter.assign (q : Quarter) (owner : PartId) (valid : Bool) : Quarter :=
  if q.owner == owner && q.valid == valid then q else { q with owner := owner, valid := valid }.newKey
/-- A write under R15; none when it is refused (R272). -/
def Cluster.write (k : Cluster) (r : Option ClusterReg) (v : Word) : Option Cluster :=
  if k.chg.isSome then none
  else match r with
    | none => none
    | some (.slot n) =>
      let e := v.setWidth 5
      let t := k.table.set n.val e
      if slotKind e > 4 || bankSlots t > slotLimit k.ratio.toNat then none else some { k with table := t }
    | some (.control p) => some (k.modPos p fun q => { q with
        half0 := q.half0.assign (v.extractLsb' 0 6) (v.getLsbD 12), half1 := q.half1.assign (v.extractLsb' 6 6) (v.getLsbD 13) })
    | some .thermal | some (.stalls _) => some k
    | some (.config p n) =>
      let b := v.extractLsb' 0 22
      let l := v.extractLsb' 22 22
      if b.toNat + l.toNat + 1 > 2 ^ 22 then none
      else some (k.modPos p fun q => { q with streams := q.streams.set n.val { q.streams[n.val] with base := b, len := l } })
    | some (.position p n) => some (k.modPos p fun q => { q with
        streams := q.streams.set n.val { q.streams[n.val] with rpos := v.extractLsb' 0 28, wpos := v.extractLsb' 32 28 } })
/-- (Ga + imm16) mod 2^16. -/
def State.clusterIndex (s : State) (w : SY) : Nat := ((s.rd w.a).toNat + w.imm.toNat) % 65536
def execVbRd (w : SY) (s : State) : Out :=
  .next (syWord (.vbRd w) w [w.a] [w.d] (fun s go => s.thenIssue go fun s =>
    s.answer w.d ((s.cluster (clusterOf s.cur.core)).read (clusterReg (s.clusterIndex w))) false) s)
def coreAt (k : ClusterId) (p : Fin 4) : CoreId := ⟨4 * k.val + p.val, by omega⟩
/-- Entry k[p][q] of the thermal coupling matrix, in units of 1/256; a column sums to 256 (R378). -/
def coupling (k : ClusterId) (p q : Nat) : Nat :=
  let a := Config.freeCoupling k.val 0 q % 257
  let b := Config.freeCoupling k.val 1 q % (257 - a)
  let c := Config.freeCoupling k.val 2 q % (257 - a - b)
  match p with
  | 0 => a
  | 1 => b
  | 2 => c
  | _ => 256 - a - b - c
/-- A partition is an owner of a quarter pair. -/
def Position.ownedBy (p : Position) (part : Option PartId) : Bool :=
  (p.half0.valid && some p.half0.owner == part) || (p.half1.valid && some p.half1.owner == part)
/-- A core of a HOT cluster heats quarter pairs of others by 64 or more (R378). -/
def State.heater (s : State) (c : CoreId) : Bool :=
  let k := clusterOf c
  (s.cluster k).hot && 64 ≤ (([0, 1, 2, 3] : List (Fin 4)).map fun q =>
    if ((s.cluster k).pos[q.val]).ownedBy s.pkg.coreOwner[c.val] then 0 else coupling k (posOf c).val q.val).foldl (· + ·) 0
/-- HEATER of the four cores of a cluster. -/
def State.setHeaters (s : State) (k : ClusterId) : State :=
  ([0, 1, 2, 3] : List (Fin 4)).foldl (fun s p =>
    s.modCore (coreAt k p) fun q => { q with tar := { q.tar with heater := s.heater (coreAt k p) } }) s
def execVbWr (w : SY) (s : State) : Out :=
  .next (syWord (.vbWr w) w [w.a, w.b] [w.d] (fun s go => s.thenIssue go fun s =>
    match (s.cluster (clusterOf s.cur.core)).write (clusterReg (s.clusterIndex w)) (s.rd w.b) with
    | some k => ((s.modCluster (clusterOf s.cur.core) fun _ => k).setHeaters (clusterOf s.cur.core)).answer w.d 0 false
    | none => s.answer w.d 1 false) s)
/-- clk.ratio (R267, R272). A change in progress or the code 3 is answered 2 also where the table exceeds the new limit: the model's
choice, log 82. -/
def execClkRatio (w : SY) (s : State) : Out :=
  .next (syWord (.clkRatio w) w [w.a] [w.d] (fun s go => s.thenIssue go fun s =>
    let r := (s.rd w.a).setWidth 2
    let k := s.cluster (clusterOf s.cur.core)
    if r == 3 || k.chg.isSome then s.answer w.d 2 false
    else if bankSlots k.table > slotLimit r.toNat then s.answer w.d 1 false
    else (s.modCluster (clusterOf s.cur.core) fun k => { k with chg := some r }).answer w.d 0 false) s)

/-! ## Events of the weight layer (R265, R267, R273) -/

/-- A matrix command reads the weight bank. -/
def MxCmd.usesBank (q : MxCmd) : Bool := mxKind q.word == .step && q.seed.isNone && q.w.bKind == 2
/-- Commands of a context, those that `p` picks by serial number, that read or write the weight bank are still to complete. -/
def Context.bankBusy (k : Context) (p : Nat → Bool) : Bool :=
  let reads (f : Option MxCmd) : Bool := f.any fun f => f.usesBank && p f.tag.serial
  k.mx.any (fun q => q.usesBank && p q.tag.serial) ||
    (k.copyL ++ k.copyS).any (fun q => (q.kind == .weight && p q.tag.serial) || reads q.follow) || (k.stageL ++ k.stageS).any fun g => reads g.follow
/-- A change of the context of a task, wherever the task is: in a context, or saved. -/
def State.onTask (s : State) (t : TaskId) (f : Context → Context) : State :=
  match allCores.findSome? fun c => ([Ctx.t0, .t1].find? fun x => (s.ctx c x).busy && (s.ctx c x).task == t).map fun x => (c, x) with
  | some (c, x) => s.modCtx c x f
  | none => match s.away.find? (·.k.task == t) with
    | some i => s.modImage i fun j => { j with k := f j.k }
    | none => s
/-- Every weight read and cp.w of a position that was enqueued before the swap has completed, saved tasks' among them (R273). -/
def State.swapReady (s : State) (c : CoreId) (w : Swap) : Bool :=
  ([Ctx.t0, .t1, .fw].all fun x => !(s.ctx c x).bankBusy (w.earlier x (s.ctx c x))) &&
    !s.away.any fun i => i.core == c && i.k.bankBusy (w.earlier i.sctx i.k)
/-- A new frame has begun: what was written to the table before rules it (R256), and the schedule of a sample applies from its frame on
(R265). -/
def Cluster.atFrame (k : Cluster) (frame : Nat) : Cluster :=
  let k := if k.frame = frame then k else { k with frame := frame, ruling := k.table }
  match k.hotNext with
  | some (h, f) => if f ≤ frame then { k with hot := h, hotNext := none } else k
  | none => k
/-- WEIGHT_SWAP_EFFECT: at a frame boundary by which the earlier reads and fills have completed (R273). -/
def execWeightSwapEffect (k : ClusterId) (pos : BitVec 2) (s : State) : Out :=
  .next (
    let p : Fin 4 := ⟨pos.toNat, pos.isLt⟩
    let c := coreAt k p
    match (s.position c).pend with
    | none => s
    | some w =>
      let done (m : Context) : Context := { (m.addCc w.cc (w.inc.setWidth 16)) with swaps := m.swaps - 1 }
      if !s.swapReady c w then s
      else
        let s1 := ((s.modCluster k fun cl => cl.atFrame (cl.frame + 1)).setHeaters k).modPosition c fun q =>
          { q with active := ~~~q.active, swaps := q.swaps + 1, pend := none }
        match w.ctx with
        | .fw => s1.modCtx c .fw done
        | x => if (s.ctx c x).task == w.tasks.get x then s1.modCtx c x done else s1.onTask (w.tasks.get x) done)
/-- Position p is refreshed in this frame. -/
def refreshDue (hot : Bool) (p frame : Nat) : Bool := if hot then frame % 32 == 8 * p else frame % 64 == 16 * p
def satInc (v : BitVec 32) : BitVec 32 := if v == BitVec.allOnes 32 then v else v + 1
/-- WEIGHT_REFRESH: without a refresh slot in the table, a weight-read slot of the position is taken and counted. -/
def execWeightRefresh (k : ClusterId) (pos : BitVec 2) (frame : Nat) (s : State) : Out :=
  .next ((s.modCluster k fun cl =>
    let cl := cl.atFrame frame
    if !refreshDue cl.hot pos.toNat frame || cl.ruling.toList.any (slotKind · == 3) then cl
    else if cl.ruling.toList.any fun e => slotKind e == 0 && e.toNat % 4 == pos.toNat then
      cl.modPos ⟨pos.toNat, pos.isLt⟩ fun p => { p with stalls := satInc p.stalls }
    else cl).setHeaters k)
/-- REFRESH_SENSOR_SAMPLE: every 1,024 frames; above 85 °C the hot schedule applies from the next multiple of 64 on. -/
def execRefreshSensorSample (k : ClusterId) (temp : BitVec 16) (frame : Nat) (s : State) : Out :=
  .next (if frame % 1024 != 0 then s
    else (s.modCluster k fun cl =>
      { (cl.atFrame frame) with temp := temp, hotNext := some (temp.toInt > 85 * 64, frame + 64) }).setHeaters k)
/-- CLOCK_RATIO_CHANGE_DONE: the array clock has switched and the input reopens. -/
def execClockRatioChangeDone (k : ClusterId) (s : State) : Out :=
  .next (s.modCluster k fun cl => match cl.chg with
    | some r => { cl with ratio := r, chg := none }
    | none => cl)

end Sys2Proof.Machine
end

