-- ==== Sys2Proof/Machine/House.lean ====
section
/-! DEFINITION. What the resident service and the command processors reach: partitions, dies, functions and their vectors
(R363-R368), and the tree of region control blocks (R347, R348). -/
namespace Sys2Proof.Machine

/-! ## Reaching the parts -/

def State.part (s : State) (p : PartId) : Partition := s.parts[p.toNat]
def State.modPart (s : State) (p : PartId) (f : Partition → Partition) : State :=
  { s with parts := s.parts.set p.toNat (f s.parts[p.toNat]) }
def State.die (s : State) (d : DieId) : Die := s.dies[d.val]
def State.modDie (s : State) (d : DieId) (f : Die → Die) : State := { s with dies := s.dies.set d.val (f s.dies[d.val]) }
def State.modPkg (s : State) (f : Pkg → Pkg) : State := { s with pkg := f s.pkg }
def allParts : List PartId := (List.range 64).map fun n => BitVec.ofNat 6 n
def coresOfDie (d : DieId) : List CoreId := allCores.filter fun c => dieOf c == d
/-- Partition of a virtual function (R365). -/
def State.partOfVf (s : State) (v : VfId) : Option PartId := (s.pkg.vfs.find? (·.1 == v)).map (·.2)
/-- Sends a vector of a function (R368). -/
def State.sendVec (s : State) (f : Func) (v : BitVec 11) : State := s.modPkg (·.send f v)
def State.logIt (s : State) (e : LogEntry) : State := s.modPkg fun k => { k with log := k.log ++ [e] }
/-- Vector 0 of every function bound to a partition. -/
def State.serviceEvent (s : State) (p : PartId) : State := s.modPkg (·.serviceEvent p)
/-- Cores of a partition on a die, in die-local order. -/
def State.coresOf (s : State) (p : PartId) (d : DieId) : List CoreId :=
  (coresOfDie d).filter fun c => s.pkg.coreOwner[c.val] == some p

/-! ## BAR0 (R372, R418, R419) -/

/-- What eight bytes at an offset of a function's BAR0 are. -/
inductive Bar0 where
  /-- Bytes of the request area. -/
  | request (off : Nat)
  /-- Doorbell and reload doorbell, of a runlist entry for the physical function, of a doorbell index for a virtual one. -/
  | bell (d : DieId) (n : BitVec 12) | reload (d : DieId) (n : BitVec 12)
  | bellOf (k : BitVec 10) | reloadOf (k : BitVec 10)
  | winbase
  /-- Half of an entry of the MSI-X table. -/
  | vector (v : BitVec 11) (high : Bool)
  /-- Registers that a plain write does not change, and what is not assigned. -/
  | other
  deriving DecidableEq, Repr
def mailAt (off : Nat) : Bar0 := if 0x40 ≤ off && off < 0x800 then .request (off - 0x40) else .other
def vectorAt (off : Nat) : Bar0 := .vector (BitVec.ofNat 11 (off / 16)) (off / 8 % 2 == 1)
/-- Die and runlist entry of a doorbell of the physical function. -/
def dieOfBell (off : Nat) : DieId := ⟨off / 0x8000 % 4, Nat.mod_lt _ (by decide)⟩
/-- The layout of BAR0. -/
def bar0At (fn : Func) (off : Nat) : Bar0 :=
  if off % 8 != 0 then .other
  else match fn with
    | .pf =>
      if off < 0x1000 then mailAt off
      else if 0x1000000 ≤ off && off < 0x1020000 then .bell (dieOfBell (off - 0x1000000)) (BitVec.ofNat 12 (off / 8))
      else if 0x1800000 ≤ off && off < 0x1820000 then .reload (dieOfBell (off - 0x1800000)) (BitVec.ofNat 12 (off / 8))
      else if 0x3000000 ≤ off && off < 0x3008000 then vectorAt (off - 0x3000000)
      else .other
    | .vf _ =>
      if off < 0x2000 then .bellOf (BitVec.ofNat 10 (off / 8))
      else if off < 0x4000 then .reloadOf (BitVec.ofNat 10 (off / 8))
      else if off < 0x5000 then mailAt (off - 0x4000)
      else if off = 0x5000 then .winbase
      else if 0x8000 ≤ off && off < 0xC000 then vectorAt (off - 0x8000)
      else .other

/-! ## Region control blocks (R347, R348) -/

def field (m lo n : Nat) : Nat := m / 2 ^ lo % 2 ^ n
def rcbBytes : Nat := 256
def State.rcb (s : State) (a : Addr) : Nat := s.mem.read a.toNat rcbBytes
def rcbValid (m : Nat) : Bool := bitOf m 0
def rcbDepth (m : Nat) : Nat := field m 5 3
def rcbParent (m : Nat) : Addr := BitVec.ofNat 57 (field m 8 49 * 256)
/-- A node and its ancestors, the node first, each with its block; at most eight. -/
def State.chainN (s : State) (a : Addr) : Nat → List (Addr × Nat)
  | 0 => []
  | n + 1 =>
    let m := s.rcb a
    (a, m) :: if rcbDepth m = 0 then [] else s.chainN (rcbParent m) n
def State.chain (s : State) (a : Addr) : List (Addr × Nat) := s.chainN a 8
/-- The root of a node's tree: the partition. -/
def State.rootOf (s : State) (a : Addr) : Option Addr := (s.chain a).getLast?.map (·.1)
/-- The partition whose tree a region belongs to (R2, R347). -/
def State.partOfRegion (s : State) (a : Addr) : Option PartId :=
  match s.rootOf a with
  | some r => if r = 0 then none else allParts.find? fun p => (s.part p).root == r
  | none => none
/-- Effective value of a field with override bit `ovr` at bits lo+n-1:lo. -/
def State.effective (s : State) (a : Addr) (ovr lo n : Nat) : Nat :=
  match (s.chain a).find? fun q => rcbDepth q.2 = 0 || bitOf q.2 (64 + ovr) with
  | some q => field q.2 lo n
  | none => 0
def State.effPrio (s : State) (a : Addr) : Nat := s.effective a 0 104 3
def State.effFdom (s : State) (a : Addr) : BitVec 16 := BitVec.ofNat 16 (s.effective a 1 112 16)
/-- Page-table root of a region (R284). -/
def State.effRoot (s : State) (a : Addr) : Addr := BitVec.ofNat 57 (s.effective a 2 140 45 * 4096)
def State.effResctl (s : State) (a : Addr) : Nat := s.effective a 3 192 40
/-- Budget of the F/E accesses at creation; 0 means 0x0100. -/
def State.effFeb (s : State) (a : Addr) : BitVec 16 :=
  let v := s.effective a 4 288 16
  if v = 0 then 0x100 else BitVec.ofNat 16 v
def State.effHard (s : State) (a : Addr) : Bool := s.effective a 6 311 1 == 1
def State.effFwd (s : State) (a : Addr) : Nat := s.effective a 7 277 11
def State.effFebPol (s : State) (a : Addr) : Nat := s.effective a 5 312 2
/-- Nanoseconds between the gang ticks of a partition: TICK of its root (R347). -/
def State.tickPeriod (s : State) (p : PartId) : Nat := 1000 * s.effective (s.part p).root 8 256 21
/-- What a region gives a task that is placed now (R348). -/
def State.termsOf (s : State) (a : Addr) : Terms :=
  ⟨BitVec.ofNat 11 (s.effFwd a), s.effHard a, BitVec.ofNat 2 (s.effFebPol a), s.effFeb a, BitVec.ofNat 3 (s.effPrio a)⟩
/-- Limits that R347 and R348 set on the fields of a node: bits 15:12 of OVR are zero; TICK is the partition root's only. Reserved
fields are ignored (R15). -/
def rcbFieldsOk (m : Nat) : Bool :=
  let fwd := field m 277 11
  let tick := field m 256 21
  field m 76 4 == 0 && field m 395 11 ≤ 1024 && field m 406 11 ≤ 1024 && 8 ≤ fwd && fwd ≤ 1024 &&
    (rcbDepth m != 0 || (100 ≤ tick && tick ≤ 1000000))
/-- The quotas of a residency control word lie in the ranges of R140. -/
def resctlOk (v : Nat) : Bool :=
  let lq := field v 0 11
  let lr := field v 11 11
  let aq := field v 22 9
  let ar := field v 31 9
  4 ≤ lq && lq ≤ 992 && 4 ≤ lr && lr ≤ lq && 4 ≤ aq && aq ≤ 256 && 4 ≤ ar && ar ≤ aq

/-! ## Firmware segments (R133, R390) -/

/-- A firmware segment that may stand beside others: class D or RING, a name, within the 32 granules that firmware keeps, apart from
the others. -/
def fwSegOk (g : FwSeg) (others : List FwSeg) : Bool :=
  g.cls.toNat < 2 && g.name != 0xFFFF && 992 ≤ g.base.toNat && g.base.toNat + g.len.toNat < 1024 &&
    others.all fun h => h.name != g.name && (g.base.toNat + g.len.toNat < h.base.toNat || h.base.toNat + h.len.toNat < g.base.toNat)
/-- The segments of a firmware image; one that may not stand is left out. -/
def fwSegs (l : List FwSeg) : List FwSeg := l.foldl (fun r g => if fwSegOk g r then r ++ [g] else r) []
/-- A firmware segment lies in its frame, pinned. -/
def fwSegOf (g : FwSeg) : Seg :=
  { name := g.name, cls := g.cls, len := g.len, tile := g.tile, home := 0, base := g.base, pins := 1, head := 0, tail := 0, dirty := []
    touched := 0, moving := none, stuck := false }
/-- The firmware's segments are loaded into the granules that it keeps (log 20). -/
def CoreSt.loadFirmware (k : CoreSt) (l : List FwSeg) : CoreSt :=
  { k with
    fwDir := l.map fwSegOf
    lstore := l.foldl (fun m g => m.writeList (granule * g.base.toNat) (g.data.take (granule * (g.len.toNat + 1))))
      (k.lstore.clear (granule * 992) (granule * 32)) }

/-! ## Usage of a region (R349, R384) -/

def Region.fresh (a : Addr) : Region := ⟨a, 0, 0, false, Vector.replicate 12 0⟩
def Pkg.region (k : Pkg) (a : Addr) : Region := (k.regions.find? (·.node == a)).getD (Region.fresh a)
def Pkg.modRegion (k : Pkg) (a : Addr) (f : Region → Region) : Pkg :=
  if k.regions.any (·.node == a) then { k with regions := k.regions.map fun r => if r.node == a then f r else r }
  else { k with regions := k.regions ++ [f (Region.fresh a)] }
def State.path (s : State) (a : Addr) : List Addr := (s.chain a).map (·.1)
/-- A node of the path has used its core-time budget (R349). -/
def State.coreSpent (s : State) (a : Addr) : Bool :=
  (s.chain a).any fun q =>
    let b := s.effective q.1 9 320 32
    b != 0 && (b : Int) * 1750 ≤ (s.pkg.region q.1).core
/-- A node of the path has used its energy budget. -/
def State.energySpent (s : State) (a : Addr) : Bool :=
  (s.chain a).any fun q =>
    let b := s.effective q.1 11 448 64
    b != 0 && (b : Int) * 65536 ≤ (s.pkg.region q.1).energy

end Sys2Proof.Machine
end

