-- ==== Sys2Proof/Machine/QueueOps.lean ====
section
/-! DEFINITION. Queues of the command processors: control blocks, readiness, slots, addresses, the read-index word and the errors
that stop a queue (R331-R334, R345, R346). -/
namespace Sys2Proof.Machine

/-! ## Reaching a queue -/

def State.queue? (s : State) (d : DieId) (n : BitVec 12) : Option Queue := (s.die d).queues.find? (·.num == n)
def State.modQueue (s : State) (d : DieId) (n : BitVec 12) (f : Queue → Queue) : State :=
  s.modDie d fun k => { k with queues := k.queues.map fun q => if q.num == n then f q else q }
def qcbBytes : Nat := 64
def entryBytes : Nat := 64
/-- Entries of a ring. -/
def Qcb.entries (c : Qcb) : Nat := 2 ^ (c.rsize.toNat + 4)
/-- The fields of a queue control block (R332). -/
def qcbOf (m : Nat) : Qcb :=
  { seq := BitVec.ofNat 64 m, jrnl := BitVec.ofNat 57 (field m 390 51 * 64), rdaddr := BitVec.ofNat 57 (field m 259 54 * 8)
    region := BitVec.ofNat 57 (field m 200 49 * 256), vf := BitVec.ofNat 8 (field m 168 8), vec := BitVec.ofNat 11 (field m 157 11)
    pkg := bitOf m 156, state := BitVec.ofNat 2 (field m 144 2), rbase := BitVec.ofNat 57 (field m 76 45 * 4096)
    rsize := BitVec.ofNat 4 (field m 64 4) }
/-- A block that may be adopted: closed, and no field invalid, the reserved ones zero (R15, R332). -/
def qcbValid (m : Nat) : Bool :=
  let c := qcbOf m
  field m 0 64 == field m 448 64 && !bitOf m 0 && c.state != 3 && c.rsize.toNat ≤ 12 &&
    c.rbase.toNat % (max 4096 (entryBytes * c.entries)) == 0 &&
    ([(441, 7), (313, 77), (249, 10), (176, 24), (146, 10), (121, 23), (68, 8)] : List (Nat × Nat)).all fun r => field m r.1 r.2 == 0
/-- Reads the block of a queue and adopts it, or keeps the copy and is to read again; a block with STATE = running and a new
sequence value lets a stopped queue run again (R332, R346), and its read-index word is owed, since ERR changes (R334). -/
def State.adopt (s : State) (d : DieId) (n : BitVec 12) : State :=
  s.modQueue d n fun q =>
    let m := s.mem.read q.qcb.toNat qcbBytes
    if !qcbValid m then { q with reread := true }
    else
      let c := qcbOf m
      let old := match q.copy with
        | some o => o.seq
        | none => 0
      let again := c.state == 1 && c.seq != old && q.err != 0
      { q with copy := some c, reread := false, err := if again then 0 else q.err, owed := q.owed || again }

/-- The partition of a queue is that of its region (R2). -/
def State.queuePart (s : State) (c : Qcb) : Option PartId := s.partOfRegion c.region
def State.queueRoot (s : State) (c : Qcb) : Addr := s.effRoot c.region
def State.queuePrio (s : State) (q : Queue) : Nat := match q.copy with
  | some c => s.effPrio c.region
  | none => 0

/-! ## Readiness (R331) -/

/-- The page that the queue is held for is still absent (R345). -/
def State.queueHeld (s : State) (q : Queue) : Bool :=
  match q.held with
  | some (root, va) => !(match walk s.mem root va.toNat with
    | .page _ _ _ _ => true
    | _ => false)
  | none => false
def State.queueReady (s : State) (q : Queue) : Bool :=
  q.v && q.err == 0 && q.rd < q.count.toNat && !s.queueHeld q &&
    match q.copy with
    | some c => c.state == 1 && (s.queuePart c).isSome
    | none => false
/-- The queue stands between packets: no launch of it is being placed. -/
def Queue.atBoundary (q : Queue) : Bool := q.opening.isNone
/-- Its WAIT leaves the Sage. -/
def State.dropQWait (s : State) (d : DieId) (n : BitVec 12) : State :=
  { s with dies := s.dies.map fun k => { k with qwaits := k.qwaits.filter fun w => !(w.die == d && w.queue == n) } }
/-- The queue gives up its slot: what it has fetched ahead is discarded, and its WAIT waits no more. -/
def State.unslot (s : State) (d : DieId) (n : BitVec 12) : State :=
  (s.dropQWait d n).modQueue d n fun q => { q with slot := none, fetched := [], resend := false }
/-- A mapped queue that stands at a packet boundary and is no longer ready. -/
def State.mustLeave (s : State) (q : Queue) : Bool := q.slot.isSome && q.atBoundary && !s.queueReady q
/-- Queues that are no longer ready leave their slots, at a packet boundary (R331). -/
def State.leaveSlots (s : State) (d : DieId) : State :=
  ((s.die d).queues.filter s.mustLeave).foldl (fun s q => s.unslot d q.num) s
/-- The queue is held for a page (R345). -/
def State.holdQueue (s : State) (d : DieId) (n : BitVec 12) (root va : Addr) : State :=
  (s.unslot d n).modQueue d n fun q => { q with held := some (root, va) }

/-! ## Addresses of a queue (R331, R337, R345) -/

inductive QAccess where
  | ok (s : State) (pa : Nat)
  /-- A missing permission, a malformed entry, bits 63:57 set. -/
  | prot
  /-- The page is absent and waits for service. -/
  | absent (s : State)
/-- The command processor translates an address of a queue through the root of the queue's region. -/
def State.queueAccess (s : State) (c : Qcb) (va : Word) (n : Need) : QAccess :=
  match s.translate (s.queueRoot c) va n with
  | .prot => .prot
  | .ok pa m => .ok { s with mem := m } pa
  | .absent pte => match s.pageAbsent (s.queueRoot c) (addr57 va) ((s.queuePart c).getD 0) pte with
    | some s1 => .absent s1
    | none => .prot
/-- A write of the command processor: plain, with F unchanged, a release at package scope; waiters are scanned. -/
def State.cpWrite (s : State) (pa n v : Nat) : State := (s.writePlace (.dev pa) n v).rescan (.dev pa)

/-! ## The read-index word and errors (R334, R346) -/

/-- ERR and RDIDX. -/
def Queue.index (q : Queue) : Nat := pack [(48, q.rd), (8, q.err.toNat), (8, 0)]
/-- Writes the read-index word; a page that is absent leaves the write owed. -/
def State.writeIndex (s : State) (d : DieId) (n : BitVec 12) : State :=
  match s.queue? d n with
  | none => s
  | some q => match q.copy with
    | none => s
    | some c => match s.queueAccess c (word57 c.rdaddr) needWr with
      | .ok s1 pa => (s1.cpWrite pa 8 q.index).modQueue d n fun q => { q with owed := false }
      | .prot => s.modQueue d n fun q => { q with owed := false }
      | .absent s1 => s1.modQueue d n fun q => { q with owed := true }
/-- Sends the vector of a queue. -/
def State.queueVec (s : State) (c : Qcb) : State := s.sendVec (.vf c.vf) c.vec
/-- The tasks of a launch that are not placed yet are not placed. -/
def State.closeLaunch (s : State) (id : Nat) : State :=
  s.modPkg fun k => { k with launches := k.launches.map fun l =>
    if l.id == id then { l with todo := [], live := l.live - l.todo.length } else l }
/-- QUEUE_ERROR: the queue stops after the packets that have started, and its vector is sent (R346). -/
def State.queueError (s : State) (d : DieId) (n : BitVec 12) (code : BitVec 8) : State :=
  match s.queue? d n with
  | none => s
  | some q =>
    let s1 := match q.opening with
      | some id => s.closeLaunch id
      | none => s
    let s2 := ((s1.unslot d n).modQueue d n fun q => { q with err := code, opening := none, held := none }).writeIndex d n
    match q.copy with
    | some c => s2.queueVec c
    | none => s2
/-- A started packet waits for a page of an address space. -/
def State.waitsFor (s : State) (root va : Addr) (c : Option Qcb) (e : Started) : Bool :=
  match c, e.access with
  | some c, some (_, a) => s.queueRoot c == root && pageOf a == pageOf va
  | _, _ => false
/-- The host has refused a page that queues are held for, or that started packets wait for: they stop with 0x05 (R345, R346). -/
def State.refuseQueues (s : State) (root va : Addr) : State :=
  allDies.foldl (fun s d => ((s.die d).queues.filter fun q => (match q.held with
      | some (r, a) => r == root && pageOf a == pageOf va
      | none => false) || q.started.any (s.waitsFor root va q.copy)).foldl (fun s q =>
        (s.modQueue d q.num fun k => { k with started := k.started.filter fun e => !s.waitsFor root va q.copy e }).queueError d q.num 0x05) s) s

end Sys2Proof.Machine
end

