-- ==== Sys2Proof/Machine/Remote.lean ====
section
/-! DEFINITION. Requests of other packages at their target (R403, R406, R408, R410): peer entries, the flits of a sub-link, and performing
a request at its home. -/
namespace Sys2Proof.Machine

/-! ## Peers and sub-links -/

def State.peer (s : State) (p : PartId) (n : BitVec 6) : Peer := (s.part p).peers[n.toNat]
def State.modPeer (s : State) (p : PartId) (n : BitVec 6) (f : Peer → Peer) : State :=
  s.modPart p fun k => { k with peers := k.peers.set n.toNat (f k.peers[n.toNat]) }
/-- Every entry of a partition for the pair of entry `n`, and itself: sequence numbers are the pair's (R410). -/
def State.modPair (s : State) (p : PartId) (n : BitVec 6) (f : Peer → Peer) : State :=
  let e := s.peer p n
  s.modPart p fun k => { k with peers := Vector.ofFn fun i =>
    let q := k.peers[i.val]
    if i.val = n.toNat || (q.v && q.kind == 0 && e.kind == 0 && q.rpkg == e.rpkg && q.rpart == e.rpart) then f q else q }
/-- Requests of the pair of an entry that are not acknowledged. -/
def State.unacked (s : State) (p : PartId) (n : BitVec 6) : Nat :=
  let e := s.peer p n
  (((List.finRange 64).filter fun i =>
    let q := (s.part p).peers[i.val]
    i.val = n.toNat || (q.v && q.kind == 0 && e.kind == 0 && q.rpkg == e.rpkg && q.rpart == e.rpart)).map fun i =>
      ((s.part p).peers[i.val]).sent.length).foldl (· + ·) 0
def State.modSub (s : State) (n : Fin 96) (f : SubLink → SubLink) : State :=
  s.modPkg fun k => { k with subs := k.subs.set n.val (f k.subs[n.val]) }
def isSignal : RemoteOp → Bool
  | .signal _ _ _ _ => true
  | _ => false
/-- The use of the slots in which a flit goes: signals and what answers them in signal slots alone. -/
def OutFlit.use : OutFlit → SlotUse
  | .request r => if isSignal r.op then .signal else .request
  | .answer _ sig => if sig then .signal else .response
  | .ack _ | .replay _ => .response
/-- Slots of a use in a frame. -/
def Link.slots (l : Link) : SlotUse → Nat
  | .request => l.req.toNat
  | .response => l.rsp.toNat
  | .signal => l.sig.toNat
/-- A flit takes the next number of its sub-link and goes out; it is held until it is acknowledged. -/
def SubLink.send (k : SubLink) (f : OutFlit) : SubLink :=
  { k with tx := k.tx + 1, held := k.held ++ [(k.tx, f)], line := k.line ++ [(k.tx, f)] }
/-- A flit goes out in a slot of its use; without one it waits for a table that has one (R401). -/
def State.putFlit (s : State) (n : Nat) (f : OutFlit) : State :=
  if h : n < 96 then s.modSub ⟨n, h⟩ fun k =>
    if (s.pkg.links[n / 8]).slots f.use = 0 then { k with waiting := k.waiting ++ [f] } else k.send f
  else s

/-! ## The target (R403, R406, R408, R410) -/

/-- The device addresses of `n` bytes for an inbound request. -/
inductive Bytes2 where
  | fault (c : Cause)
  /-- The page is being served: the request is only delayed. -/
  | waits (s : State)
  | ok (s : State) (pa : List Nat)
/-- `no` is a page that the host has just refused (R408). -/
def State.inboundBytes (s : State) (d : DieId) (part : PartId) (root : Addr) (no : Option (Addr × Nat)) (addr : Nat) (n : Need) (needF : Bool) :
    List Nat → Bytes2
  | [] => .ok s []
  | i :: r => match s.inXlat d root (BitVec.ofNat 64 (addr + i)) n with
    | .prot => .fault .prot
    | .absent pte =>
      if no == some (root, (addr + i) / frameBytes) then .fault .page
      else (match s.pageAbsent root (BitVec.ofNat 57 (addr + i)) part pte with
        | some s1 => .waits s1
        | none => .fault .prot)
    | .ok pa m =>
      let s1 := { s.keepIn d root (addr + i) with mem := m, hbm := s.hbm.touch pa 1 n.wr }
      if s.hbm.badPoison pa 1 || (needF && s.hbm.badF pa 1) then .fault .eccue
      else match s1.inboundBytes d part root no addr n needF r with
        | .ok s2 l => .ok s2 (pa :: l)
        | f => f
def remoteAt : BitVec 4 → Option AtOp
  | 0 => some .add | 1 => some .and_ | 2 => some .or_ | 3 => some .xor_ | 4 => some .min_ | 5 => some .max_ | 6 => some .minn
  | 7 => some .maxn | 8 => some .xchg | 9 => some .cas | 10 => some .fadd | _ => none
inductive Served where
  | answer (s : State) (r : RemoteResult)
  | waits (s : State)
/-- A store of bytes with F mode and the F and poison of the source of each byte (R186, R411). -/
def State.remotePush (s : State) (pas : List Nat) (bs : List Byte) (fe : BitVec 2) (fs ps : List Bool) : State :=
  let ix := List.range bs.length
  let at_ (i : Nat) : Nat := pas.getD i 0
  let s1 := ix.foldl (fun s i => s.writePlace (.dev (at_ i)) 1 (bs.getD i 0).toNat) s
  let ws : List (Place × ElemWrite) := ix.map fun i =>
    (.dev (at_ i), { seg := none, addr := at_ i, bytes := 1, val := 0, bit := 0, width := 0, poison := ps.getD i false })
  let s2 := s1.poisonLines ws
  let words := (ix.filter fun i => !(ix.any fun j => j < i && at_ j / 4 == at_ i / 4)).map fun i => (at_ i / 4 * 4, fs.getD i false)
  let s3 := words.foldl (fun s w => match fe.toNat with
    | 1 => s.setFPlace (.dev w.1) 4 w.2
    | 2 => s.setFPlace (.dev w.1) 4 true
    | 3 => s.setFPlace (.dev w.1) 4 false
    | _ => s) s2
  s3.rescanDies
/-- The marks of the first writes through the leaves of pages that an inbound request writes (R285). -/
def State.dirtyInbound (s : State) (d : DieId) (root : Addr) (vas : List Nat) : State :=
  s.dirtyPages root (vas.filter fun a => (s.inOld d root a).isNone)
/-- The operation at the home of its word, one action (R406). -/
def State.performRemote (s : State) (d : DieId) (part : PartId) (no : Option (Addr × Nat)) (op : RemoteOp) : Served :=
  let root := (s.part part).inroot.setWidth 57 <<< 12
  let reach (s : State) (addr : Word) (n : Nat) (need : Need) (needF : Bool) (go : State → List Nat → Served) : Served :=
    match s.inboundBytes d part root no addr.toNat need needF (List.range n) with
    | .fault c => .answer s (.fault c)
    | .waits s1 => .waits s1
    | .ok s1 l => go s1 l
  let wrote (s : State) (addr : Word) (n : Nat) : State := s.dirtyInbound d root ((pagesOf addr n).map (·.toNat))
  match op with
  | .load addr n => reach s addr n needRd false fun s l =>
      let p := Place.dev (l.headD 0)
      if s.poisonPlace p n then .answer s (.fault .poison) else .answer s (.done (BitVec.ofNat 64 (s.readPlace p n)))
  | .store addr n v fe => reach s addr n needFill (fe != 0) fun s l =>
      let p := Place.dev (l.headD 0)
      let s1 := (wrote s addr n).writePlace p n (v.toNat % 2 ^ (8 * n))
      let s2 := if fe == 1 then s1.setFPlace p n true else if fe == 2 then s1.setFPlace p n false else s1
      .answer (s2.rescan p) (.done 0)
  | .atomic code addr fmt b e =>
    let n := if code == 10 then 4 else (Fmt.ofCode fmt).bytes
    reach s addr n needRmw false fun s l =>
      let p := Place.dev (l.headD 0)
      if s.poisonPlace p n then .answer s (.fault .poison)
      else
        let old := s.readPlace p n
        let v := match remoteAt code with
          | some .cas => atomicNew .cas fmt n old (e.toNat % 2 ^ (8 * n)) (b.toNat % 2 ^ (8 * n))
          | some o => atomicNew o fmt n old (b.toNat % 2 ^ (8 * n)) 0
          | none => none
        let s1 := match v with
          | some v => (wrote s addr n).writePlace p n v
          | none => s
        .answer (s1.rescan p) (.done (BitVec.ofNat 64 old))
  | .signal addr v add fill => reach s addr 8 needFill fill fun s l =>
      let p := Place.dev (l.headD 0)
      if add && s.poisonPlace p 8 then .answer s (.fault .poison)
      else
        let s1 := (wrote s addr 8).writePlace p 8 (if add then (s.readPlace p 8 + v.toNat) % 2 ^ 64 else v.toNat)
        .answer ((if fill then s1.setFPlace p 8 true else s1).rescan p) (.done 0)
  | .pull addr n full => reach s addr n needRd full fun s l =>
      .answer s (.data (l.map fun a => s.mem.byte a) (l.map fun a => s.mem.fbit a) (l.map fun a => s.mem.poisoned a))
  | .push addr bs fe fs ps => reach s addr bs.length needFill (fe != 0) fun s l =>
      .answer ((wrote s addr bs.length).remotePush l bs fe fs ps) (.done 0)
/-- The answer to a request goes to its source, on the sub-link on which the request came. -/
def State.replyOn (s : State) (sub : Option (Fin 96)) (r : InRequest) (res : RemoteResult) : State :=
  let a : Answer := ⟨r.srcPkg, r.srcPart, r.dst, r.num, res⟩
  let s1 := s.modPkg fun k => { k with answers := k.answers ++ [a] }
  match sub with
  | some n => s1.putFlit n.val (.answer a (isSignal r.op))
  | none => s1
/-- The entry that admits requests of a source (R403). -/
def State.admits (s : State) (r : InRequest) : Option (Fin 64) :=
  if !(s.part r.dst).inen then none
  else (List.finRange 64).find? fun i =>
    let p := (s.part r.dst).peers[i.val]
    p.v && p.kind == 0 && p.rpkg == r.srcPkg && p.rpart == r.srcPart
/-- How far a number lies behind another, counting modulo 2^64; half the range or more means that it lies ahead (R410). -/
def numBehind (h num : Nat) : Nat := (h + 2 ^ 64 - num) % 2 ^ 64
/-- The request has been performed already, or is older than the map (R410). -/
def Peer.seen (p : Peer) (num : Nat) : Bool :=
  match p.high with
  | none => false
  | some h => numBehind h num < 2 ^ 63 && (4096 < numBehind h num || p.done.contains num)
def Peer.take (p : Peer) (num : Nat) : Peer :=
  let h := match p.high with
    | none => num
    | some h => if numBehind h num < 2 ^ 63 then h else num
  { p with high := some h, done := num :: p.done.filter fun n => numBehind h n ≤ 4096 }
/-- The base die where a request comes in: that of its link, three links a die; without a sub-link, of the path in use of the entry that
admits it (log 50). -/
def State.dieOfRequest (s : State) (sub : Option (Fin 96)) (r : InRequest) (i : Fin 64) : DieId :=
  match sub with
  | some n => ⟨n.val / 24, by omega⟩
  | none =>
    let p := (s.part r.dst).peers[i.val]
    BitVec.toFin (BitVec.ofNat 2 ((if p.sel == 0 then p.path0 else p.path1).toNat / 24))
/-- Two requests come from one source: one pair of packages and partitions (R410). -/
def sameSource (a b : InRequest) : Bool := a.srcPkg == b.srcPkg && a.srcPart == b.srcPart && a.dst == b.dst
/-- Performs a request that an entry admits at its home, or leaves it waiting for its page. -/
def State.perform1 (s : State) (no : Option (Addr × Nat)) (q : Delayed) (i : Fin 64) : State × Bool :=
  match s.performRemote (s.dieOfRequest q.sub q.req i) q.req.dst no q.req.op with
  | .waits s1 => (s1, false)
  | .answer s1 res => ((s1.modPair q.req.dst (BitVec.ofNat 6 i.val) (·.take q.req.num)).replyOn q.sub q.req res, true)
/-- INBOUND_REQUEST: accepted by R403, dropped and acknowledged again when its number has been performed, else translated and
performed at its home; a page being served delays it, and what comes from its source stands behind it, in order (R405, R408). A request
that is sent again takes the place of its delayed copy, which came on a path that has failed (R409). -/
def State.inboundOn (s : State) (q : Delayed) : State :=
  match s.admits q.req with
  | none => s.replyOn q.sub q.req (.fault .prot)
  | some i =>
    let wait (s : State) : State := s.modPkg fun k => { k with delayed := k.delayed ++ [q] }
    if (s.peer q.req.dst (BitVec.ofNat 6 i.val)).seen q.req.num then
      (match s.pkg.answers.find? fun a => a.pkg == q.req.srcPkg && a.srcPart == q.req.srcPart && a.dst == q.req.dst && a.num == q.req.num with
      | some a => s.replyOn q.sub q.req a.result
      | none => s.replyOn q.sub q.req (.done 0))
    else if s.pkg.delayed.any fun e => sameSource e.req q.req then
      (if s.pkg.delayed.any fun e => e.req == q.req then
        s.modPkg fun k => { k with delayed := k.delayed.map fun e => if e.req == q.req then q else e }
      else wait s)
    else match s.perform1 none q i with
      | (s1, true) => s1
      | (s1, false) => wait s1
def execInboundRequest (r : InRequest) (s : State) : Out := .next (s.inboundOn ⟨r, none⟩)
/-- A page has come, or the host has refused it (`no`): the delayed requests are tried again, in order. -/
def State.retryDelayed (s : State) (no : Option (Addr × Nat)) : State :=
  s.pkg.delayed.foldl (fun s q =>
    if ((s.pkg.delayed.takeWhile (· != q)).any fun e => sameSource e.req q.req) then s
    else
      let gone (s : State) : State := s.modPkg fun k => { k with delayed := k.delayed.erase q }
      match s.admits q.req with
      | none => (gone s).replyOn q.sub q.req (.fault .prot)
      | some i => match s.perform1 no q i with
        | (s1, true) => gone s1
        | (s1, false) => s1) s

end Sys2Proof.Machine
end

