-- ==== Sys2Proof/Machine/Residency.lean ====
section
/-! DEFINITION. The moves of segments (R145, R146, R151): recalls, push-outs and relocations as they complete, and the events
that start them. -/
namespace Sys2Proof.Machine

/-! ## The home of a segment (R142, R146) -/

inductive Move where
  /-- The home or the directory entry cannot be reached: cause and address. What has been written before stands (R146). -/
  | fails (s : State) (c : Cause) (va : Addr)
  | waits (s : State)
  | ok (s : State)
/-- A page of the move is absent: it waits while the page is being served, or fails. -/
def State.movePage (s : State) (root va : Addr) (part : PartId) (pte : Nat) : Move :=
  match s.pageAbsent root va part pte with
  | some s1 => .waits s1
  | none => .fails s .prot va
def homeOf (g : Seg) (i : Nat) : Addr := g.home + BitVec.ofNat 57 (granule * i)
/-- Reads the granules of a home into a frame. -/
def State.readHome (s : State) (k : Context) (g : Seg) (m : Store) : List Nat → Move × Store
  | [] => (.ok s, m)
  | i :: r => match s.translate k.root (word57 (homeOf g i)) needRd with
    | .prot => (.fails s .prot (homeOf g i), m)
    | .absent pte => (s.movePage k.root (homeOf g i) k.part pte, m)
    | .ok pa mem =>
      if s.hbm.badMeta pa granule || s.badData pa granule then (.fails s .eccue (homeOf g i), m)
      else
        let s1 := { s with mem := mem, hbm := s.hbm.touch pa granule false }
        s1.readHome k g (m.paste (g.phys (granule * i)) granule (mem.slice pa granule)) r
/-- Writes granules of a segment image to its home. -/
def State.writeHome (s : State) (k : Context) (g : Seg) (src : Store) : List Nat → Move
  | [] => .ok s
  | i :: r => match s.translate k.root (word57 (homeOf g i)) needWr with
    | .prot => .fails s .prot (homeOf g i)
    | .absent pte => s.movePage k.root (homeOf g i) k.part pte
    | .ok pa mem =>
      ({ s with mem := mem.paste pa granule (src.slice (granule * i) granule), hbm := s.hbm.touch pa granule true }).writeHome k g src r
/-- Writes HEAD and TAIL of a ring to its directory entry. -/
def State.writeEntry (s : State) (k : Context) (g : Seg) : Move :=
  if g.cls != 1 then .ok s
  else
    let a := dirAddr k g.name
    match s.translate k.root a needWr with
    | .prot => .fails s .prot (addr57 a)
    | .absent pte => s.movePage k.root (addr57 a) k.part pte
    | .ok pa mem =>
      let old := mem.read pa 16
      .ok { s with mem := mem.write pa 16 (old % 2 ^ 82 + g.head.toNat * 2 ^ 82 + g.tail.toNat * 2 ^ 105)
                   hbm := s.hbm.touch pa 16 true }
/-- The contents of a present segment from its byte 0. -/
def CoreSt.segImage (k : CoreSt) (g : Seg) : Store := (if g.isAcc then k.astore else k.lstore).slice (g.phys 0) g.bytes
def State.pushHome (s : State) (k : Context) (g : Seg) (src : Store) : Move :=
  match s.writeHome k g src g.dirty with
  | .ok s1 => s1.writeEntry k g
  | m => m

/-! ## Events -/

/-- SEGMENT_TOUCH: Chervil makes room for the segment and starts its recall, or fails it (R145, R151). -/
def execSegmentTouch (c : CoreId) (x : Ctx) (name : BitVec 16) (s : State) : Out := .next (s.unlessFrozen c (s.makeRoom c x name))
/-- ROOM_AVAILABLE: every segment that someone waits for tries again. -/
def execRoomAvailable (c : CoreId) (x : Ctx) (s : State) : Out :=
  .next (s.unlessFrozen c (((s.ctx c x).touch.map (·.name)).eraseDups.foldl (fun s n => s.makeRoom c x n) s))
def Context.dropSeg (k : Context) (name : BitVec 16) : Context := { k with segs := k.segs.filter (·.name != name) }
/-- A recall has failed: the segment stays absent, every touch of it ends (R146). -/
def State.recallFails (s : State) (c : CoreId) (x : Ctx) (name : BitVec 16) : State := s.modCtx c x fun k => (k.dropSeg name).failTouch name
/-- The strand that takes a push-out's failure: the lowest-numbered one that has not ended (R146). -/
def Context.failStrand (k : Context) : Option Strand := Strand.all.find? fun p => (k.strand p).life != .ended
/-- A push-out has failed: the segment stays resident and is never pushed out again (R146). -/
def State.pushFails (s : State) (c : CoreId) (x : Ctx) (name : BitVec 16) (cause : Cause) (va : Addr) : State :=
  let s1 := s.modCtx c x (·.modSeg name fun g => { g with moving := none, stuck := true })
  match (s1.ctx c x).failStrand with
  | some p => s1.raise c x p cause p (word57 va)
  | none => s1.logIt (.pushOutFailed (s.ctx c x).part name)
/-- Address by which a move of a segment reaches a page: its home's or its directory entry's; none where it does not. -/
def Context.movesOn (k : Context) (g : Seg) (page : Nat) : Option Addr :=
  match (List.range g.granules).find? fun i => pageOf (homeOf g i) == page with
  | some i => some (homeOf g i)
  | none => if pageOf (addr57 (dirAddr k g.name)) == page then some (addr57 (dirAddr k g.name)) else none
/-- The host has refused a page: the moves of a context's segments that need it fail, and the touches of segments whose directory
entry lies in it (R146). -/
def State.refuseMoves (s : State) (c : CoreId) (x : Ctx) (va : Addr) : State :=
  let s1 := ((s.ctx c x).segs).foldl (fun s g => match (s.ctx c x).movesOn g (pageOf va) with
    | some a => (match g.moving with
      | some .recall => s.recallFails c x g.name
      | some .pushOut => s.pushFails c x g.name .page a
      | _ => s)
    | none => s) s
  s1.modCtx c x fun k => (k.touch.map (·.name)).eraseDups.foldl (fun k n =>
    if (k.seg? n).isNone && pageOf (addr57 (dirAddr k n)) == pageOf va then k.failTouch n else k) k
/-- RECALL_COMPLETE: all granules arrive, clean; the touchers go on. A failure leaves the segment absent (R146). -/
def execRecallComplete (c : CoreId) (x : Ctx) (name : BitVec 16) (s : State) : Out :=
  .next (s.unlessFrozen c (match (s.ctx c x).seg? name with
    | none => s
    | some g =>
      if g.moving != some .recall then s
      else
        let k := s.core c
        match s.readHome (s.ctx c x) g (if g.isAcc then k.astore else k.lstore) (List.range g.granules) with
        | (.fails _ _ _, _) => s.recallFails c x name
        | (.waits s1, _) => s1
        | (.ok s1, m) =>
          (s1.modCore c fun k => if g.isAcc then { k with astore := m } else { k with lstore := m }).modCtx c x fun k =>
            { (k.modSeg name fun g => { g with moving := none, dirty := [], touched := (s.core c).now }) with
              touch := k.touch.filter (·.name != name) }))
/-- PUSH_OUT: Chervil starts a push-out of its own accord, but not where the host chooses what leaves (R371). -/
def execPushOut (c : CoreId) (x : Ctx) (name : BitVec 16) (s : State) : Out :=
  .next (s.unlessFrozen c (if s.hostPicks (s.ctx c x).part then s else s.startPushOut c x name))
/-- A push-out completes: the dirty granules and the ring pointers are home and the frame is free; or the failure is queued (R146). -/
def State.pushOutDone (s : State) (c : CoreId) (x : Ctx) (name : BitVec 16) : State :=
  match (s.ctx c x).seg? name with
  | none => s
  | some g =>
    if g.moving != some .pushOut then s
    else match s.pushHome (s.ctx c x) g ((s.core c).segImage g) with
      | .waits s1 => s1
      | .ok s1 => (s1.modCtx c x (·.dropSeg name)).rescanDies
      | .fails s1 cause va => (s1.pushFails c x name cause va).rescanDies
/-- A saved task's context stands in for the one in its place, and goes back to its image. -/
def State.swapIn (s : State) (i : Image) : State := s.modCtx i.core i.sctx fun _ => i.k
def State.swapOut (t : State) (i : Image) (s : State) : State :=
  (t.modImage i fun j => { j with k := t.ctx i.core i.sctx }).modCtx i.core i.sctx fun _ => s.ctx i.core i.sctx
/-- Something that befalls a saved task's context. -/
def State.onSaved (s : State) (i : Image) (f : State → State) : State := (f (s.swapIn i)).swapOut i s
/-- The saved task of a core and context whose segment of this name is being pushed out (R148). -/
def State.leaving (s : State) (c : CoreId) (x : Ctx) (name : BitVec 16) : Option Image :=
  (s.savedAt c).find? fun i => i.sctx == x && i.k.segs.any fun g => g.name == name && g.moving == some .pushOut
/-- A saved task's segment goes home, which is context-save energy of its partition (R148). -/
def State.savedHome (s : State) (i : Image) (name : BitVec 16) : State :=
  (s.onSaved i (·.pushOutDone i.core i.sctx name)).modCore i.core fun k => { k with outgoing := some (i.k.part, i.k.region) }
/-- PUSH_OUT_COMPLETE, of a segment of the context or of a saved task's. -/
def execPushOutComplete (c : CoreId) (x : Ctx) (name : BitVec 16) (s : State) : Out :=
  .next (s.unlessFrozen c (if ((s.ctx c x).seg? name).any (·.moving == some .pushOut) then s.pushOutDone c x name
    else match s.leaving c x name with
      | some i => s.savedHome i name
      | none => s))
/-- The push-out of a saved task's segment, named by the image as it was before. -/
def State.leaveNow (s : State) (i : Image) (name : BitVec 16) : State :=
  match s.leaving i.core i.sctx name with
  | some i => s.savedHome i name
  | none => s
/-- Segments of saved tasks leave at once, until there is room in a window; where the host chooses what leaves, none does (R371). -/
def State.makeLeave (s : State) (c : CoreId) (acc : Bool) (win : Nat × Nat) (need : Nat) : List (Image × Seg) → State
  | [] => s
  | (i, g) :: r =>
    if (firstFit (s.frames c acc) win need).isSome then s
    else if s.hostPicks i.k.part then s.makeLeave c acc win need r
    else ((s.onSaved i fun s => s.modCtx c i.sctx (·.modSeg g.name fun g => { g with moving := some .pushOut })).leaveNow i g.name).makeLeave
      c acc win need r
/-- RELOCATION: compaction starts moving a segment that is neither pinned nor moving to free granules (R145). -/
def execRelocation (c : CoreId) (x : Ctx) (name : BitVec 16) (base : BitVec 10) (s : State) : Out :=
  .next (s.unlessFrozen c (match x, (s.ctx c x).seg? name with
    | .fw, _ => s
    | _, none => s
    | _, some g =>
      let occ := (s.frames c g.isAcc).filter (·.1 != g.base.toNat)
      if g.pins != 0 || g.moving != none || !frameFree occ ((s.core c).frameWindow x g.isAcc) base.toNat g.granules then s
      else s.modCtx c x (·.modSeg name fun g => { g with moving := some (.relocate base) })))
/-- RELOCATION_COMPLETE: the contents lie at the new base. -/
def execRelocationComplete (c : CoreId) (x : Ctx) (name : BitVec 16) (s : State) : Out :=
  .next (s.unlessFrozen c (match (s.ctx c x).seg? name with
    | none => s
    | some g => match g.moving with
      | some (.relocate base) =>
        let k := s.core c
        let img := k.segImage g
        let m := (if g.isAcc then k.astore else k.lstore).paste (granule * base.toNat) g.bytes img
        (s.modCore c fun k => if g.isAcc then { k with astore := m } else { k with lstore := m }).modCtx c x
          (·.modSeg name fun g => { g with moving := none, base := base })
      | _ => s))
/-- The host sends home a segment that is adrift (R371). -/
def State.adriftHome (s : State) (c : CoreId) (x : Ctx) (name : BitVec 16) : State :=
  match (s.ctx c x).adriftSeg? name with
  | none => s
  | some (g, src) => match s.pushHome (s.ctx c x) g src with
    | .waits s1 => s1
    | .ok s1 => (s1.modCtx c x fun k => { k with adrift := k.adrift.filter (·.1.name != name) }).rescanDies
    | .fails s1 cause va => (s1.pushFails c x name cause va).rescanDies
/-- HOST_PUSH_OUT_REPLY: the host names a victim, of the context or of a saved task (R148), or refuses, which gives SEGFAIL (R371). -/
def execHostPushOutReply (c : CoreId) (x : Ctx) (victim : Option (BitVec 16)) (s : State) : Out :=
  .next (s.unlessFrozen c (if !(s.ctx c x).askHost then s
    else
      let s1 := s.modCtx c x fun k => { k with askHost := false }
      match victim with
      | some v => if ((s.ctx c x).seg? v).isSome then s1.startPushOut c x v
        else (match (s.stays c false ++ s.stays c true).find? fun q => q.2.name == v && !q.2.stuck with
          | some (i, g) => s1.modImage i fun j => { j with k := j.k.modSeg g.name fun g => { g with moving := some .pushOut } }
          | none => s1.adriftHome c x v)
      | none => s1.modCtx c x fun k => (k.touch.map (·.name)).eraseDups.foldl (fun k n =>
          if (k.seg? n).isNone then k.failTouch n else k) k))

end Sys2Proof.Machine
end

