-- ==== Sys2Proof/Machine/Paging.lean ====
section
/-! DEFINITION. Page faults and their service: demand-zero pages, migration, the host's answers, paging out (R288-R292), and the
errors and clears of device memory (R280-R282). -/
namespace Sys2Proof.Machine

/-! ## Entries and frames -/

/-- The leaf entry that the walk of an address reaches: its address, its value, the size of its page. -/
def State.leaf (s : State) (root va : Addr) : Option (Nat × Nat × Nat) :=
  match walk s.mem root va.toNat with
  | .absent e pte size => some (e, pte, size)
  | .page e pte size _ => some (e, pte, size)
  | .malformed => none
def State.setEntry (s : State) (e pte : Nat) : State := { s with mem := s.mem.write e 8 pte }
/-- The first of the frames of the partition's pool that no page has, enough of them for a page of this size, aligned to it. -/
def State.freeFrame (s : State) (p : PartId) (size : Nat) : Option Nat :=
  let n := size / frameBytes
  (s.pkg.frames.filter (·.part == p)).findSome? fun r =>
    let first := (r.first + n - 1) / n * n
    ((List.range (min (r.count / n) (s.hbm.taken.length + 1))).map fun i => first + n * i).find? fun f =>
      f + n ≤ r.first + r.count && !s.hbm.taken.any fun t => f ≤ t && t < f + n
/-- The entry maps a frame: ADDR and V set, MIG and ZERO clear. -/
def mapEntry (pte frame : Nat) : Nat := pte % 4096 / 8 * 8 + 1 + frame * frameBytes
/-- The frames of a page. -/
def framesFrom (f size : Nat) : List Nat := (List.range (size / frameBytes)).map (f + ·)
def State.giveFrame (s : State) (f size : Nat) : State :=
  let s1 := s.unscrubRange f (size / frameBytes)
  { s1 with hbm := { s1.hbm with taken := framesFrom f size ++ s1.hbm.taken } }
/-- The frames of a page go back to the pool. -/
def State.takeFrame (s : State) (f size : Nat) : State :=
  let s1 := s.unscrubRange f (size / frameBytes)
  { s1 with hbm := { s1.hbm with taken := s1.hbm.taken.filter fun t => !(f ≤ t && t < f + size / frameBytes) } }
/-- A page that lies in host memory comes to free frames with its data, F and poison images (R292); none without frames. -/
def State.migrateUnit (s : State) (p : PartId) (e pte size : Nat) : Option State :=
  match s.freeFrame p size with
  | none => none
  | some f =>
    let s1 := s.giveFrame f size
    let img := s1.hbm.host.slice (entryAddr pte) size
    let s2 := { s1 with mem := s1.mem.paste (f * frameBytes) size img
                        hbm := { s1.hbm with scrubbed := (framesFrom f size).foldl (fun l f => markPut l f true) s1.hbm.scrubbed } }
    some (s2.setEntry e (mapEntry pte f))
/-- A demand-zero page takes free frames (R288). -/
def State.zeroUnit (s : State) (p : PartId) (e pte size : Nat) : Option State :=
  (s.freeFrame p size).map fun f => (s.giveFrame f size).setEntry e (mapEntry pte f)
/-- A page-out of the page of an address is under way (R292). -/
def State.outAt (s : State) (root : Addr) (va : Nat) : Option PageOut :=
  s.hbm.outs.find? fun o => o.root == root && o.va ≤ va && va < o.va + o.size

/-! ## Migration (R291) -/

/-- The unit at a number is resident: V = 1; one of a 2 MiB page is too. -/
def State.unitResident (s : State) (root : Addr) (u : Nat) : Bool :=
  match walk s.mem root (u * frameBytes) with
  | .page _ _ _ _ => true
  | _ => false
/-- Resident units of a span of 2^b units from unit `u`. -/
def State.resident (s : State) (root : Addr) (u b : Nat) : Nat :=
  ((List.range (2 ^ b)).filter fun i => s.unitResident root (u + i)).length
/-- The span grows while enough of the next larger one is resident: its size as a power of two units. -/
def State.spanN (s : State) (root : Addr) (p unit blk thr : Nat) : Nat → Nat
  | 0 => blk
  | n + 1 =>
    let b := blk - (n + 1)
    let u := unit / 2 ^ (b + 1) * 2 ^ (b + 1)
    if (s.resident root u (b + 1) + 1) * 256 < thr * 2 ^ (b + 1) then b else s.spanN root p unit blk thr n
/-- MIGRATION: every MIG unit of the span of the faulting unit comes, the faulting one first (R291). -/
def State.migrate (s : State) (root va : Addr) (p : PartId) : Option State :=
  let pt := s.part p
  let blk := min pt.blk.toNat 9
  let thr := if pt.thr = 0 then 1 else pt.thr.toNat
  let unit := va.toNat / frameBytes
  let b := s.spanN root p.toNat unit blk thr blk
  let u := unit / 2 ^ b * 2 ^ b
  let one (s : State) (n : Nat) : Option State := match s.leaf root (BitVec.ofNat 57 (n * frameBytes)) with
    | some (e, pte, size) =>
      if !bitOf pte 0 && bitOf pte 1 && (s.outAt root (n * frameBytes)).isNone then s.migrateUnit p e pte size else none
    | none => none
  (one s unit).map fun s1 => (List.range (2 ^ b)).foldl (fun s i => (one s (u + i)).getD s) s1

/-! ## Service (R288, R289) -/

/-- The image of a saved task, as it stands. -/
def State.imageNow (s : State) (i : Image) : Image := ((s.pkg.saved ++ s.pkg.images).find? i.same).getD i
/-- A saved task's stores that wait for a page are performed when it comes, as they would be in its context (R290). -/
def State.replaySaved (s : State) (i : Image) : State :=
  let s0 := s.onSaved i fun s => s.modCtx i.core i.sctx fun k => { k with replay := [] }
  (i.k.replay.foldl (fun s r =>
    let i := s.imageNow i
    let keep := s.onSaved i fun s => s.modCtx i.core i.sctx fun k => { k with replay := k.replay ++ [r] }
    if i.k.replayBlocked r then keep
    else
      let t := s.swapIn i
      let (t1, ok, ab, bad) := t.splitElems i.core i.sctx r.strand r.unit false (r.fe != 0) r.writes
      match ab with
      | _ :: _ => keep
      | [] =>
        let s1 := (t1.swapOut i s).replayPut r ok
        s1.onSaved (s1.imageNow i) fun s => match bad with
          | [] => s.replayTokens i.core i.sctx r
          | (e, cause) :: _ => s.raise i.core i.sctx r.strand cause r.strand (BitVec.ofNat 64 e.addr)) s0)
/-- A page has come: no access waits for it any more, and no fault of it is left. -/
def State.pageCame (s0 : State) (root : Addr) (va size : Nat) : State :=
  let inPage (a : Addr) : Bool := va ≤ a.toNat && a.toNat < va + size
  let s := { s0 with hbm := { s0.hbm with faults := s0.hbm.faults.filter fun g => !(g.root == root && inPage g.va) } }
  let waits (c : CoreId) (x : Ctx) : Bool := (s.ctx c x).root == root && Strand.all.any fun p => (s.strand c x p).pages.any fun q => inPage q.va
  (allCores.filter fun c => [Ctx.t0, .t1, .fw].any (waits c)).foldl (fun s c => [Ctx.t0, .t1, .fw].foldl (fun s x =>
    if (s.ctx c x).root == root then s.modCtx c x fun k => { k with strands := k.strands.map fun _ t => { t with
      pages := t.pages.filter fun q => !inPage q.va } } else s) s) s
/-- Every context of an address space performs the stores that waited; saved tasks' stores are performed too (R290), and inbound
requests that the page delayed (R408). -/
def State.restart (s0 : State) (root : Addr) (va size : Nat) : State :=
  let s := s0.pageCame root (va / size * size) size
  let s1 := (allCores.filter fun c => [Ctx.t0, .t1, .fw].any fun x => (s.ctx c x).root == root && !(s.ctx c x).replay.isEmpty).foldl
    (fun s c => [Ctx.t0, .t1].foldl (fun s x => if (s.ctx c x).root == root then s.replayAll c x else s) s) s
  (((s1.pkg.saved ++ s1.pkg.images).filter fun i => i.k.root == root && !i.k.replay.isEmpty).foldl (fun s i => s.replaySaved i) s1).retryDelayed none
def State.dropFault (s : State) (f : PFault) : State :=
  { s with hbm := { s.hbm with faults := s.hbm.faults.filter fun g => !(g.root == f.root && g.va == f.va) } }
/-- The pending fault of a page. -/
def State.faultAt (s : State) (root va : Addr) : Option PFault :=
  s.hbm.faults.find? fun f => f.root == root && pageOf f.va == pageOf va
/-- PAGE_FAULT: the walk of an address of a context reaches an invalid entry, and its page waits for service (R288). -/
def execPageFault (c : CoreId) (x : Ctx) (va : Addr) (s : State) : Out :=
  .next (match walk s.mem (s.ctx c x).root va.toNat with
    | .absent _ pte _ => (s.pageAbsent (s.ctx c x).root va (s.ctx c x).part pte).getD s
    | _ => s)
/-- PAGE_FAULT_SERVED: in hardware mode the service migrates the page or gives it a zero frame; a pool with no free frame leaves
it to the host. The page present, stores that waited are performed in program order. -/
def execPageFaultServed (root va : Addr) (s : State) : Out :=
  .next (match s.faultAt root va with
    | none => s
    | some f =>
      if f.host then s
      else match s.leaf root va with
        | none => s
        | some (e, pte, size) =>
          if bitOf pte 0 then s.restart root va.toNat size
          else if (s.outAt root va.toNat).isSome then s
          else
            match (if bitOf pte 1 then s.migrate root f.va f.part else s.zeroUnit f.part e pte size) with
            | some s1 => s1.restart root va.toNat size
            | none =>
              let s1 := s.dropFault f
              { s1 with hbm := { s1.hbm with faults := s1.hbm.faults ++ [{ f with host := true }] } })
/-- A replay entry of a refused page is dropped; its strand takes PAGE with the address of the first dropped store (R289). -/
def State.refuseReplay (s : State) (c : CoreId) (x : Ctx) (va : Addr) : State :=
  let hit (r : Replay) : Bool := r.writes.any fun e => e.seg == none && e.addr / frameBytes == pageOf va
  let gone := (s.ctx c x).replay.filter hit
  let s1 := s.modCtx c x fun k => { k with replay := k.replay.filter fun r => !hit r }
  [Strand.K, .L, .X, .S].foldl (fun s p => match gone.find? (·.strand == p) with
    | some r => s.raise c x p .page p (word57 r.va)
    | none => s) (s1.modCtx c x Context.rendezvousAll)
/-- The host refuses a page: what waits for it in a context fails, each access when it tries again. -/
def State.refuseAt (s : State) (c : CoreId) (x : Ctx) (va : Addr) : State :=
  let s1 := s.refuseReplay c x va
  (s1.modCtx c x fun k => { k with strands := k.strands.map fun _ t => { t with
    pages := t.pages.map fun q => if pageOf q.va == pageOf va then { q with refused := true } else q } }).refuseMoves c x va
/-- The same in every context of the address space, saved tasks' among them: their segments' push-outs and their waiting stores fail,
and the traps come when they are loaded (R146, R290). -/
def State.refuse (s : State) (root va : Addr) : State :=
  let s1 := allCores.foldl (fun s c => [Ctx.t0, .t1, .fw].foldl (fun s x =>
    if (s.ctx c x).root != root || !(s.ctx c x).busy && x != .fw then s else s.refuseAt c x va) s) s
  ((s1.pkg.saved ++ s1.pkg.images).filter (·.k.root == root)).foldl (fun s i =>
    s.onSaved i fun s => (s.refuseReplay i.core i.sctx va).refuseMoves i.core i.sctx va) s1
/-- HOST_PAGE_REPLY: the host maps a frame, migrates the page, or refuses it (R288). -/
def execHostPageReply (root va : Addr) (reply : PageReply) (s : State) : Out :=
  .next (match s.faultAt root va with
    | none => s
    | some f =>
      if !f.host || (s.outAt root va.toNat).isSome then s
      else match reply with
        | .refuse =>
          let s1 := ((s.dropFault f).refuse root va).refuseQueues root va
          if s1.parts.any fun p => p.inen && p.inroot.setWidth 57 <<< 12 == root then s1.retryDelayed (some (root, pageOf f.va)) else s1
        | .migrate => (match s.migrate root f.va f.part with
          | some s1 => s1.restart root va.toNat ((s.leaf root va).elim frameBytes (·.2.2))
          | none => s)
        | .map frame => (match s.leaf root va with
          | some (e, pte, size) =>
            let n := frame.toNat / size * (size / frameBytes)
            if bitOf pte 0 then s
            else ((s.giveFrame n size).setEntry e (mapEntry pte n)).restart root va.toNat size
          | none => s))

/-! ## Paging out (R292) -/

/-- A place lies in the frames of a page. -/
def inFrames (pa size : Nat) (p : Place) : Bool :=
  match p with
  | .dev a => pa ≤ a && a < pa + size
  | _ => false
/-- Sage has a waiter, parked or not, on the page. -/
def State.frameWaited (s : State) (pa size : Nat) : Bool :=
  s.dies.any fun d => (d.waiters ++ d.parked).any (fun w => inFrames pa size w.place) || d.qwaits.any fun w => pa ≤ w.pa && w.pa < pa + size
/-- The pages of a loaded object are pinned (R358). -/
def State.objectPage (s : State) (e : Nat) : Bool := s.parts.any fun t => t.slots.any fun o => o.pages.any (·.1 == e)
/-- Step 1 of a page-out has completed when no command holds the page: with a waiter of Sage the leaf is restored, else data, F and
poison images go to the host and the frames are freed with their unscrubbed bits set. -/
def State.finishOut (s : State) (o : PageOut) : State :=
  if s.holdsPages (fun _ => true) o.root o.va o.size then s
  else
    let s1 := { s with hbm := { s.hbm with outs := s.hbm.outs.erase o } }
    let pa := entryAddr o.pte
    if s1.frameWaited pa o.size then (s1.setEntry o.entry o.pte).restart o.root o.va o.size
    else { s1 with hbm := { s1.hbm with host := s1.hbm.host.paste o.host o.size (s1.mem.slice pa o.size) } }.takeFrame (pa / frameBytes) o.size
/-- PAGE_OUT of the page of an address, by the resident service or the host: its leaf names the host page from now on, and every
translation of it is dropped; it goes out when no command holds it any more (R241, R287). Named again, the event ends the page-out. -/
def execPageOut (root va host : Addr) (s : State) : Out :=
  .next (match s.outAt root va.toNat with
    | some o => s.finishOut o
    | none => match s.leaf root va with
      | none => s
      | some (e, pte, size) =>
        if !bitOf pte 0 || s.objectPage e then s
        else
          let o : PageOut := ⟨root, va.toNat / size * size, size, e, pte, host.toNat / 4096 * 4096⟩
          let s1 := (s.setEntry e (pte % 4096 / 8 * 8 + 2 + o.host)).dropTlb fun t => t.root == root && t.va < o.va + size && o.va < t.va + t.size
          { s1 with hbm := { s1.hbm with outs := s1.hbm.outs ++ [o] } }.finishOut o)

/-! ## Device memory (R280, R282) -/

/-- FRAME_CLEAR_DONE: the frame has been cleared whole. -/
def execFrameClearDone (frame : Nat) (s : State) : Out :=
  .next (if s.hbm.clearing.any (·.1 == frame) then { s with hbm := s.hbm.cleared frame } else s)
def execHbmCorrectableError (stack : BitVec 3) (s : State) : Out :=
  .next { s with hbm := { s.hbm with corrected := s.hbm.corrected.set stack.toNat (satInc s.hbm.corrected[stack.toNat]) } }
/-- HBM_UNCORRECTABLE_ERROR: data make the line poisoned; F bits or poison bit make every access that needs them fail. A line that is
still to be cleared reads as clean zeros all the same (R282). -/
def execHbmUncorrectableError (pa : Addr) (site : HbmSite) (s : State) : Out :=
  let l := pa.toNat / 64
  .next (if !dataArea pa.toNat || !s.hbm.live pa.toNat then s
    else match site with
      | .data => { s with mem := s.mem.setPoison pa.toNat true, hbm := { s.hbm with ueD := markPut s.hbm.ueD l true } }
      | .fbits => { s with hbm := { s.hbm with ueF := markPut s.hbm.ueF l true } }
      | .poison => { s with hbm := { s.hbm with ueP := markPut s.hbm.ueP l true } })

end Sys2Proof.Machine
end

