-- ==== Sys2Proof/Machine/Tasks.lean ====
section
/-! DEFINITION. Tasks in their contexts: creation and end (R116, R340-R342), and saving and loading a context (R252, R276, R290,
R305, R318, R353-R357). -/
namespace Sys2Proof.Machine

/-! ## The residency control word (R140) -/

/-- The word as the core holds it beside its sibling's. -/
def Residency.clamped (r sib : Residency) : Residency :=
  let lq := min r.lq.toNat (992 - sib.lq.toNat)
  let aq := min r.aq.toNat (256 - sib.aq.toNat)
  { r with lq := BitVec.ofNat 11 lq, lr := BitVec.ofNat 11 (min (max 4 r.lr.toNat) lq)
           aq := BitVec.ofNat 9 aq, ar := BitVec.ofNat 9 (min (max 4 r.ar.toNat) aq) }
/-- What the sibling of a context leaves it: an empty one has no share (log 19). -/
def State.siblingShare (s : State) (c : CoreId) (x : Ctx) : Residency :=
  let k := s.ctx c x.sibling
  if k.busy then k.res else { k.res with lq := 0, aq := 0 }
/-- From the quotas of a region (RESCTL), the size of an object's directory and its base. -/
def residencyOf (resctl : Nat) (dircnt : BitVec 16) (dirbase : Nat) : Residency :=
  { lq := BitVec.ofNat 11 resctl, lr := BitVec.ofNat 11 (resctl / 2 ^ 11), aq := BitVec.ofNat 9 (resctl / 2 ^ 22)
    ar := BitVec.ofNat 9 (resctl / 2 ^ 31), dircnt := dircnt, dirbase := BitVec.ofNat 53 (dirbase / 16) }
/-- D of a core: the least of its tasks (R349); with no task left it stays. -/
def State.setCredit (s : State) (c : CoreId) : State :=
  match ([Ctx.t0, .t1].filter fun x => (s.ctx c x).busy).map fun x => (s.ctx c x).terms.fwd.toNat with
  | [] => s
  | d :: r => s.modCore c fun k => { k with fwD := BitVec.ofNat 11 (r.foldl min d) }

/-! ## Creation (R91, R340) -/

def gangNumber (l : Launch) (t : Nat) : Nat := 65536 * l.id + (if l.gang = 0 then t else 0)
/-- A strand of a new task (R91). -/
def newStrand (entry : Addr) (args : Vector Word 8) (feb : BitVec 16) : StrandSt :=
  let t := { StrandSt.reset .running with pc := entry, feb := feb }
  ([0, 1, 2, 3, 4, 5, 6, 7] : List (Fin 8)).foldl (fun t i => t.write (BitVec.ofNat 5 (i.val + 1)) args[i.val]) t
/-- The context of task `t` of a launch. -/
def newContext (s : State) (c : CoreId) (x : Ctx) (l : Launch) (o : ObjSlot) (t : Nat) : Context :=
  let terms := s.termsOf l.rcb
  let st := newStrand o.entry l.args terms.feb
  let dir := l.scratch.toNat + t * o.scrsz
  { Context.reset .running with
    strands := ⟨st, st, st, st⟩, dbg := l.dbg, aepoch := (s.ctx c x).aepoch + 1, rel := l.args
    res := (residencyOf (s.effResctl l.rcb) o.dircnt dir).clamped (s.siblingShare c x)
    task := ⟨BitVec.ofNat 2 l.die.val, l.queue, l.lser, BitVec.ofNat 16 t, l.slot⟩, vf := l.vf, part := l.part
    root := s.effRoot l.rcb, region := l.rcb, terms := terms, copying := true, busy := true, fdom := s.effFdom l.rcb, launch := l.id, gang := l.gang
    gangId := gangNumber l t }
/-- Bytes of a list as a number, little-endian. -/
def ofBytes : List Byte → Nat
  | [] => 0
  | b :: r => b.toNat + 256 * ofBytes r
/-- Directory entry `i` of an object for a scratch area, as it is written (R142, R359); its HEAD as it stands, log 69. -/
def ObjSlot.dirEntry (o : ObjSlot) (dir i : Nat) : Nat :=
  let e := ofBytes ((o.segdir.drop (16 * i)).take 16)
  e / 2 ^ 54 * 2 ^ 54 + (e % 2 ^ 45 + dir / granule) % 2 ^ 45
def entryGranules (e : Nat) : Nat := e / 2 ^ 56 % 1024 + 1
/-- The granules of the homes: address, bytes and F map of each. -/
def ObjSlot.granules (o : ObjSlot) (dir : Nat) : List (Nat × List Byte × List Byte) :=
  ((List.range o.dircnt.toNat).foldl (fun (r : List (Nat × List Byte × List Byte) × List Byte) i =>
    let e := o.dirEntry dir i
    let n := entryGranules e
    let img := r.2.take (n * granule)
    let fm := (r.2.drop (n * granule)).take (n * 128)
    (r.1 ++ (List.range n).map fun g => (e % 2 ^ 45 * granule + g * granule, (img.drop (g * granule)).take granule,
      (fm.drop (g * 128)).take 128), r.2.drop (n * granule + n * 128))) ([], o.segimg)).1
/-- Words whose F bit a map sets. -/
def mapWords (fm : List Byte) : List Nat :=
  (List.range (8 * fm.length)).filter fun i => (fm.getD (i / 8) 0).getLsbD (i % 8)
/-- The command processor writes a granule of an image with its F bits; an address without a page is left alone. -/
def State.loaderWrite (s : State) (root : Addr) (va : Nat) (bs : List Byte) (fm : List Byte) : State :=
  match walk s.mem root va with
  | .page _ _ _ pa =>
    let m := (s.mem.clear pa bs.length).writeList pa bs
    { s with mem := (mapWords fm).foldl (fun m w => m.setF (pa + 4 * w) true) m, hbm := s.hbm.touch pa bs.length true }
  | _ => s
/-- It writes an entry of a directory, part of a line, whose F and poison bits stay (R68). -/
def State.loaderEntry (s : State) (root : Addr) (va e : Nat) : State :=
  match walk s.mem root va with
  | .page _ _ _ pa => s.writePlace (.dev pa) 16 e
  | _ => s
/-- The accumulation state of an image is in place in context `x` of a core. -/
def State.inPlace (s : State) (c : CoreId) (x : Ctx) (img : Image) : Bool :=
  img.core == c && img.sctx == x && img.k.aepoch == (s.ctx c x).aepoch
/-- Before the cells of a context take another task's state, the service saves what they hold of the tasks that it has saved (R252). -/
def State.keepCells (s : State) (c : CoreId) (x : Ctx) : State :=
  let store (i : Image) : Image :=
    if s.inPlace c x i && !i.stored then { i with stored := true, k := { i.k with acc := (s.ctx c x).acc } } else i
  s.modPkg fun k => { k with saved := k.saved.map store }
/-- Copies the directory and the images of a task's segments to their homes. -/
def State.copyImages (s : State) (root : Addr) (o : ObjSlot) (dir : Nat) : State :=
  let s1 := (List.range o.dircnt.toNat).foldl (fun s i =>
    s.loaderEntry root (dir + 16 * i) (o.dirEntry dir i)) s
  ((o.granules dir).foldl (fun s g => s.loaderWrite root g.1 g.2.1 g.2.2) s1).rescanDies
/-- Pages that the creation writes and that are still absent. -/
def State.createFaults (s : State) (root : Addr) (o : ObjSlot) (dir : Nat) : List (Addr × Nat) :=
  let vas := ((List.range o.dircnt.toNat).map fun i => dir + 16 * i) ++ (o.granules dir).map (·.1)
  ((vas.map fun a => a / frameBytes * frameBytes).eraseDups).filterMap fun a => match walk s.mem root a with
    | .absent _ pte _ => some (BitVec.ofNat 57 a, pte)
    | _ => none

/-- The object of a task, and its directory's address. -/
def State.objectOf (s : State) (k : Context) : Option (ObjSlot × Nat) :=
  ((s.part k.part).slots.find? (·.num == k.task.slot)).map fun o => (o, k.res.dirbase.toNat * 16)
/-- The copying of a placed task (R340): while a page that it writes is absent, it waits for it; once it is done, bundles issue. -/
def State.finishCopy (s : State) (c : CoreId) (x : Ctx) : State :=
  let k := s.ctx c x
  match s.objectOf k with
  | none => s
  | some (o, dir) =>
    if !k.busy || !k.copying then s
    else match s.createFaults k.root o dir with
      | [] => (s.copyImages k.root o dir).modCtx c x fun k => { k with copying := false }
      | l => l.foldl (fun s f => (s.pageAbsent k.root f.1 k.part f.2).getD s) s
/-- A placed task waits for its copying, whose pages are all present. -/
def State.copyReady (s : State) (c : CoreId) (x : Ctx) : Bool :=
  let k := s.ctx c x
  k.busy && k.copying && match s.objectOf k with
    | some (o, dir) => (s.createFaults k.root o dir).isEmpty
    | none => false
/-- TASK_CREATE: the context, then the copying of its directory and images, which is no part of its placement (R340). -/
def State.createTask (s : State) (c : CoreId) (x : Ctx) (l : Launch) (o : ObjSlot) (t : Nat) : State :=
  (((s.keepCells c x).modCtx c x fun _ => newContext s c x l o t).setCredit c).finishCopy c x

/-! ## The end of a task (R116, R302) -/

/-- An empty context: its accumulation state stays in the cells (R355). -/
def Context.emptied (k : Context) : Context := { Context.reset .ended with acc := k.acc, aepoch := k.aepoch }
def allSerials (k : Context) : List Nat := List.range (k.serial + 2)
/-- Waiters of a context leave tables and lists without effect (R318), its parked strands as R276 says. -/
def State.unwait (s : State) (c : CoreId) (x : Ctx) : State :=
  let mine (w : Waiter) : Bool := w.core == c && w.ctx == x
  (s.unpark c mine).keepWaiters c fun w => !mine w
/-- The traps of a context that wait for a firmware strand, or are in service. -/
def CoreSt.dropTraps (k : CoreSt) (x : Ctx) : CoreSt :=
  let f (v : Option (Ctx × Strand)) : Option (Ctx × Strand) := match v with
    | some (y, p) => if y == x then none else some (y, p)
    | none => none
  { k with trapQueue := k.trapQueue.filter (·.1 != x)
           serving := ⟨f k.serving.K, f k.serving.L, f k.serving.X, f k.serving.S⟩ }
/-- A task of a launch has ended. -/
def State.taskGone (s : State) (id : Nat) : State :=
  s.modPkg fun k => { k with launches := k.launches.map fun l => if l.id == id then { l with live := l.live - 1 } else l }
/-- The task of a context ends without more effect: its context is free, its frames too (R116). -/
def State.dropTask (s : State) (c : CoreId) (x : Ctx) : State :=
  if !(s.ctx c x).busy then s
  else ((((s.unwait c x).modCore c (·.dropTraps x)).modCtx c x Context.emptied).setCredit c).taskGone (s.ctx c x).launch
/-- TASK_END: all four strands have ended (R116). -/
def execTaskEnd (c : CoreId) (x : Ctx) (s : State) : Out :=
  .next (if x != .fw && (s.ctx c x).busy && Strand.all.all fun p => ((s.ctx c x).strand p).life == .ended then s.dropTask c x else s)

/-! ## Saving (R252, R276, R318, R355, R356) -/

/-- What a hard stop does to the commands of a context: started ones return to their queues, waiting accesses too; stream elements
fetched and not consumed are discarded (R203). -/
def Context.stopped (k : Context) : Context :=
  let me (q : MeCmd) : MeCmd := { q with phase := if q.phase == .abandoned then .abandoned else .queued, touched := false }
  let cp (q : CopyCmd) : CopyCmd := { q with phase := .queued, holds := [], tails := [], rs := [] }
  { k with meL := k.meL.map me, meS := k.meS.map me, copyL := k.copyL.map cp, copyS := k.copyS.map cp
           mx := k.mx.map fun q => { q with phase := .queued, holds := [] }
           fabL := k.fabL.map fun q => { q with holds := [] }, fabS := k.fabS.map fun q => { q with holds := [] }
           streams := k.streams.map fun r => { r with ahead := [], arrived := r.consumed }
           strands := k.strands.map fun _ t => { t with pages := [], resend := none, woken := none }
           touch := [], pinWait := k.pinWait.map fun w => (w.1, false), askHost := false, yielding := false }
/-- A started fabric command holds up a hard stop (R415). -/
def Context.fabricStarted (k : Context) : Bool := (k.fabL ++ k.fabS).any (·.phase != .queued)
/-- Iterations that the clamped level has completed. -/
def Context.savedIdx (k : Context) : BitVec 32 :=
  match k.clamp with
  | some (n, _) => let l := k.level (levelNum n); if l.active then l.index else l.index + 1
  | none => 0
/-- The first 64 bytes of an image (R356). -/
def imageHeader (c : CoreId) (x : Ctx) (epi : Bool) (k : Context) : Nat :=
  pack [(1, 1), (1, epi.toNat), (126, 0), (9, c.val), (55, 0), (64, (partWord k.vf k.part).toNat), (64, k.task.word.toNat),
    (3, ((k.clamp.map (·.1.toNat)).getD 0)), (1, (Ctx.code2 x).toNat), (16, k.aepoch.toNat), (12, 0), (32, k.savedIdx.toNat),
    (32, ((k.clamp.map (·.2.toNat)).getD 0)), (96, 0)]
/-- The image of a context. -/
def State.imageOf (s : State) (c : CoreId) (x : Ctx) (pa : Nat) (epi : Bool) : Image :=
  let k := s.ctx c x
  let segs := k.segs.filter (·.moving != some .recall)
  { pa := pa, core := c, sctx := x, epi := epi, level := (k.clamp.map (·.1)).getD 0, idx := k.savedIdx
    trip := (k.clamp.map (·.2)).getD 0
    k := { k.stopped with segs := segs.map fun g => { g with moving := none } }
    traps := (([(s.core c).serving.K, (s.core c).serving.L, (s.core c).serving.X, (s.core c).serving.S].filterMap id ++
      (s.core c).trapQueue).filter (·.1 == x)).map (·.2), stored := false, out := true }
/-- The saved tasks that a test picks end. -/
def State.dropImages (s : State) (f : Context → Bool) : State :=
  let s1 := ((s.pkg.saved ++ s.pkg.images.filter (·.out)).filter fun g => f g.k).foldl (fun s g => s.taskGone g.k.launch) s
  s1.modPkg fun k => { k with saved := k.saved.filter fun g => !f g.k, images := k.images.filter fun g => !f g.k }

/-! ## Loading (R357) -/

/-- A segment of an image comes into frames of another core; one that finds no room goes home, or is set adrift where the host chooses
what leaves (R371). -/
def State.placeSeg (s0 : State) (c : CoreId) (x : Ctx) (g : Seg) (src : Store) : State :=
  let win := (s0.core c).frameWindow x g.isAcc
  let s := s0.makeLeave c g.isAcc win g.granules (s0.stays c g.isAcc)
  match firstFit (s.frames c g.isAcc) win g.granules with
  | some b => s.settle c x g src b
  | none => if s.hostPicks (s.ctx c x).part then s.modCtx c x fun k => { k with adrift := k.adrift ++ [(g, src)] }
    else match s.pushHome (s.ctx c x) g src with
    | .ok s1 => s1
    | .waits s1 => s1
    | .fails s1 _ _ => s1
/-- The clamped level of an epilogue image resumes at its TOP with the iterations that are left (R357). -/
def Context.resumeLevel (k : Context) (img : Image) : Context :=
  let n := levelNum img.level
  let l := k.level n
  let left := img.trip - img.idx
  if left = 0 then k
  else
    let k1 := (k.setLevel n { l with active := true, index := 0, trip := left, run := l.run + 1 }).stepStreams l
    let who := if l.joint then k.group else [Strand.K]
    who.foldl (fun k p => k.modStrand p fun t => { t with pc := l.top }) k1
/-- A loaded image keeps neither segments nor replay entries. -/
def Image.emptied (i : Image) : Image := { i with k := { i.k with segs := [], replay := [] }, out := false }
/-- The image as context `x` of a core. Segments that have stayed in the core's frames are present again; those in frames of another
core are carried over (R148). -/
def State.loadTask (s : State) (c : CoreId) (x : Ctx) (img : Image) (held : Bool) (marks : BitVec 4) : State :=
  let old := s.ctx c x
  let here := img.core == c
  let k := { img.k with acc := old.acc, aepoch := old.aepoch, segs := if here then img.k.segs else [], held := held, unrestored := marks
                        clamp := none, res := img.k.res.clamped (s.siblingShare c x) }
  let k := if img.epi then k.resumeLevel img else k
  let s1 := (s.modImage img Image.emptied).modCtx c x fun _ => k
  let s2 := if here then s1
    else img.k.segs.foldl (fun t g => t.placeSeg c x g ((s.core img.core).segImage g)) s1
  (s2.modCore c fun q => { q with trapQueue := q.trapQueue ++ img.traps.map fun p => (x, p), named := x
                                  restored := some (k.part, k.region) }).setCredit c

/-! ## Choosing a core (R343) -/

/-- A task context of a core that holds no task. -/
def State.freeCtx (s : State) (c : CoreId) : Option Ctx :=
  if !(s.ctx c .t0).busy then some .t0 else if !(s.ctx c .t1).busy then some .t1 else none
def dieLocal (c : CoreId) : Nat := c.val % 48
/-- Voltage-droop events of a core in the last 1 ms, at most 255 (R343). -/
def CoreSt.droop (k : CoreSt) (now : Word) : Nat := min 255 (k.droops.filter fun t => now.toNat < t.toNat + 1000000).length
def State.droop (s : State) (c : CoreId) : Nat := (s.core c).droop (s.die (dieOf c)).time
def State.penalty (s : State) (c : CoreId) : Int :=
  let k := s.core c
  k.temp.toInt + 256 * (s.droop c : Int) + (if k.tar.spent then 2 ^ 24 else 0)
/-- The first five candidates at or after the dispatcher's pointer, cyclically; candidates in die-local order. -/
def State.window (s : State) (d : DieId) (cand : List CoreId) : List CoreId :=
  let p := (s.die d).pointer
  (cand.filter (fun c => p ≤ dieLocal c) ++ cand.filter (fun c => dieLocal c < p)).take 5
/-- The earliest of a list with the least penalty. -/
def State.least (s : State) : List CoreId → Option CoreId
  | [] => none
  | c :: r => match s.least r with
    | none => some c
    | some b => if s.penalty b < s.penalty c then some b else some c
/-- The core that takes a task, and the pointer after it. -/
def State.pick (s : State) (d : DieId) (cand : List CoreId) : Option (State × CoreId) :=
  let p := (cand.head?.bind fun c => s.pkg.coreOwner[c.val]).getD 0
  let choice := match s.nextPlace p d.val with
    | some c => if cand.contains c then some c else none
    | none => s.least (s.window d cand)
  choice.map fun c => ((s.notePlace p c).modDie d fun k => { k with pointer := (dieLocal c + 1) % 48 }, c)
/-- Cores of a partition on a die with a free task context. -/
def State.openCores (s : State) (p : PartId) (d : DieId) : List CoreId :=
  (s.coresOf p d).filter fun c => (s.freeCtx c).isSome

/-! ## Saves of the resident service (R352, R353, R376) -/

/-- The service loads an image: with a hard stop it restores the accumulation state that is not in place. What the
cells hold of other tasks is saved first (R252, R357). -/
def State.loadServed (s : State) (c : CoreId) (x : Ctx) (img : Image) : State :=
  let back := !img.epi && (img.stored || !s.inPlace c x img)
  let s1 := (s.keepCells c x).loadTask c x img false 0
  if back then s1.modCtx c x fun k => { k with acc := img.k.acc } else s1
/-- Where an image goes: its own context when that is free, else, once its replay entries have left (R290), a core of its partition
and die by R343; none of the cores that other tasks of its gang have. -/
def State.seat (s : State) (used : List CoreId) (img : Image) : Option (State × CoreId × Ctx) :=
  if !(s.ctx img.core img.sctx).busy && !used.contains img.core then some (s, img.core, img.sctx)
  else if !img.k.replay.isEmpty then none
  else match s.pick (dieOf img.core) ((s.openCores img.k.part (dieOf img.core)).filter fun c => !used.contains c) with
    | some (s1, c) => (s1.freeCtx c).map fun x => (s1, c, x)
    | none => none
/-- A save that the service runs for a task of a partition. -/
def State.savesOf (s : State) (p : PartId) (c : CoreId) : Bool :=
  let mine (v : Option Save) : Bool := match v with
    | some sv => sv.service && sv.move.isNone && (s.ctx c sv.ctx).part == p
    | none => false
  mine (s.core c).save || mine (s.core c).later
/-- A die has not saved every outgoing task of a partition. -/
def State.unsaved (s : State) (p : PartId) (d : DieId) : Bool := (coresOfDie d).any (s.savesOf p)
/-- The image goes into its place and leaves the saved ones. -/
def State.seatImage (s : State) (used : List CoreId) (i : Image) : Option (State × CoreId) :=
  let g := s.imageNow i
  (s.seat used g).map fun (r : State × CoreId × Ctx) =>
    ((r.1.modPkg fun k => { k with saved := k.saved.filter fun h => !(h.core == g.core && h.k.task == g.k.task) }).loadServed r.2.1 r.2.2 g, r.2.1)
/-- Every task of a gang is loaded, each on a core of its own; none while one finds no place (R343, R352). -/
def State.seatGang (s : State) (used : List CoreId) : List Image → Option State
  | [] => some s
  | i :: r => (s.seatImage used i).bind fun (q : State × CoreId) => q.1.seatGang (q.2 :: used) r
/-- Every die has saved: the incoming gangs of the partition are loaded, each as a whole. One that finds no place waits. -/
def State.loadIncoming (s : State) (p : PartId) : State :=
  s.pkg.incoming.foldl (fun s n =>
    match s.pkg.saved.filter fun g => g.k.part == p && g.k.gangId == n with
    | [] => s
    | l =>
      let on := allCores.filter fun c => [Ctx.t0, .t1].any fun x => (s.ctx c x).busy && (s.ctx c x).gangId == n
      match s.seatGang on l with
      | some s1 => s1.modPkg fun k => { k with incoming := k.incoming.filter (· != n) }
      | none => s) s
/-- The completion of a missed save is logged with its time (R353). -/
def State.closeMiss (s : State) (p : PartId) (d : DieId) : State :=
  s.modPkg fun k => { k with log := k.log.map fun e => match e with
    | .tickMiss q f t none => if q == p && f == d then .tickMiss q f t (some (s.die d).time) else e
    | _ => e }
/-- A task that the service has saved is moved to a core that is not spent (R376), or waits for the tick that loads it. -/
def State.serviceSaved (s : State) (c : CoreId) (move : Option CoreId) (img : Image) : State :=
  let p := img.k.part
  let d := dieOf c
  match move with
  | some e =>
    let s1 := s.modCore c fun k => { k with moving := false }
    match s1.freeCtx e with
    | some x => s1.loadServed e x img
    | none => match s1.pick d ((s1.openCores p d).filter fun e => e != c && !(s1.core e).tar.spent) with
      | some (s2, e) => s2.loadServed e ((s2.freeCtx e).getD .t0) img
      | none => (s1.loadServed c img.sctx img).modCore c fun k => { k with throttled := true }
  | none =>
    let s1 := s.modPkg fun k => { k with saved := k.saved ++ [img] }
    let s2 := if s1.unsaved p d then s1 else s1.closeMiss p d
    if allDies.any (s2.unsaved p) then s2 else s2.loadIncoming p

/-! ## Ending a save (R252, R353, R355) -/

/-- The context is saved and empty. -/
def State.saveTask (s : State) (c : CoreId) (x : Ctx) (pa : Nat) (epi : Bool) : State × Image :=
  let s0 := if (s.ctx c x).mx.any (·.phase == .committed) then s.completeMatrix c x else s
  let s1 := s0.unwait c x
  let img := s1.imageOf c x pa epi
  ((((s1.modCore c (·.dropTraps x)).modCore c fun k => { k with outgoing := some (img.k.part, img.k.region) }).modCtx c x
    Context.emptied).setCredit c, img)
/-- The level clamped in this slice has gone idle and the matrix queue is empty: the epilogue has ended (R355). -/
def Context.epilogueDone (k : Context) : Bool :=
  match k.clamp with
  | some (n, _) => !(k.level (levelNum n)).active && k.mx.isEmpty
  | none => false
/-- Fills the register of firmware K that waits for a save. -/
def State.fillFw (s : State) (c : CoreId) (d : GReg) (v : Word) : State :=
  s.modStrand c .fw .K fun t => { t with pend := t.pend.map fun q => if q.d == d && q.val.isNone then { q with val := some v } else q }
/-- Ends the save of a core when its epilogue has ended, or as a hard stop when its time is up (R355, R415). -/
def State.trySave (s : State) (c : CoreId) : State :=
  match (s.core c).save with
  | none => s
  | some sv =>
    let k := s.ctx c sv.ctx
    let epi := sv.left != 0 && k.epilogueDone
    if !k.busy then
      let s1 := s.modCore c fun q => { q with save := none, moving := false }
      if sv.service then s1 else s1.fillFw c sv.d 2
    else if (sv.left == 0 || epi) && !k.fabricStarted && (sv.move.isNone || k.replay.isEmpty) then
      let hdr := imageHeader c sv.ctx epi k
      let (s1, img) := s.saveTask c sv.ctx sv.pa epi
      let next := (s1.core c).later.map fun (v : Save) => if (s1.ctx c v.ctx).clamp.isSome then v else { v with left := 0 }
      let s2 := s1.modCore c fun k => { k with save := next, later := none }
      if sv.service then s2.serviceSaved c sv.move img
      else
        let s3 := (s2.modPkg fun p => { p with images := img :: p.images.filter (·.pa != sv.pa) }).fillFw c sv.d
          (if epi then 0 else 1)
        (s3.writePlace (.dev sv.pa) 64 hdr).modPlace (.dev sv.pa) 64 fun m a => m.setPoison a false
    else s
/-- Starts a save: an epilogue save needs a clamped level. -/
def State.startSave (s : State) (c : CoreId) (sv : Save) : State :=
  let left := if (s.ctx c sv.ctx).clamp.isSome then sv.left else 0
  if (s.core c).save.isSome then s.modCore c fun k => { k with later := some { sv with left := left }, named := sv.ctx }
  else
  (s.modCore c fun k => { k with save := some { sv with left := left }, named := sv.ctx }).trySave c

/-! ## The words (R355, R357) -/

/-- Context number of imm16. -/
def ctxNumber (w : SY) : Ctx := if w.imm.getLsbD 0 then .t1 else .t0
def imageBytes : Nat := 131072
/-- Physical address of an image area: 4 KiB-aligned and whole in firmware memory. -/
def State.imageArea (s : State) (a : Word) : Option Nat :=
  if a.toNat % granule != 0 then none
  else if (List.range (imageBytes / granule)).all fun i => match s.translate s.here.root (a + BitVec.ofNat 64 (granule * i)) needRW with
      | .ok _ _ => true
      | _ => false
    then match s.translate s.here.root a needRW with
      | .ok pa _ => some pa
      | _ => none
  else none
/-- ctx.sv: the context stops and its image is written; `cycles` is the time of an epilogue. -/
def ctxSave (i : WideWord) (w : SY) (epi : Bool) (s : State) : State :=
  syWord i w [w.a, w.b] [w.d] (fun s go =>
    let x := ctxNumber w
    let c := s.cur.core
    if s.myCore.save.isSome then s.stall .interlock
    else s.thenIssue go fun s =>
      let s := s.modCore c fun k => { k with named := x }
      if !(s.ctx c x).busy then s.answer w.d 2 false
      else match s.imageArea (s.rd w.a) with
        | none => s.answer w.d 3 false
        | some pa =>
          let left := if epi then (s.rd w.b).toNat % 2 ^ 32 else 0
          let s1 := if w.d = 0 then s else s.modMe fun t => { t with pend := t.pend ++ [⟨w.d, none, false, s.cur.sqd, 0⟩] }
          s1.startSave c ⟨x, pa, left, false, none, w.d⟩) s
def execCtxSv (w : SY) (s : State) : Out := .next (ctxSave (.ctxSv w) w false s)
def execCtxSvEpi (w : SY) (s : State) : Out := .next (ctxSave (.ctxSvEpi w) w true s)
/-- The image at an address of firmware memory, when its V is set and it is one of this package. -/
def State.imageAt (s : State) (pa : Nat) : Option Image :=
  if bitOf (s.mem.byte pa).toNat 0 then s.pkg.images.find? (·.pa == pa) else none
/-- A task moves to another core only when its replay entries have left (R290). -/
def State.loadWaits (s : State) (w : SY) : Bool :=
  !(s.ctx s.cur.core (ctxNumber w)).busy && match s.imageArea (s.rd w.a) with
    | none => false
    | some pa => match s.imageAt pa with
      | none => false
      | some img => img.core != s.cur.core && !img.k.replay.isEmpty
def ctxLoad (i : WideWord) (w : SY) (hold : Bool) (s : State) : State :=
  syWord i w [w.a] [w.d] (fun s go => if s.loadWaits w then s.stall .interlock else s.thenIssue go fun s =>
    let x := ctxNumber w
    let c := s.cur.core
    let s := s.modCore c fun k => { k with named := x }
    if (s.ctx c x).busy then s.answer w.d 1 false
    else match s.imageArea (s.rd w.a) with
      | none => s.answer w.d 3 false
      | some pa => match s.imageAt pa with
        | none => s.answer w.d 4 false
        | some img =>
          let bad := !img.epi && !s.inPlace c x img
          if bad && !hold then s.answer w.d 5 false
          else (s.loadTask c x img hold (if bad then 0xF else 0)).answer w.d 0 false) s
def execCtxLd (w : SY) (s : State) : Out := .next (ctxLoad (.ctxLd w) w false s)
def execCtxLdHold (w : SY) (s : State) : Out := .next (ctxLoad (.ctxLdHold w) w true s)
/-- Sub-arrays still marked unrestored are poisoned (R229, R357). -/
def Context.letGo (k : Context) : Context :=
  let f (b : Bool) (a : Accum) : Accum := if b then { a with ue := true } else a
  { k with held := false, unrestored := 0
           acc := ⟨f (k.unrestored.getLsbD 0) k.acc.K, f (k.unrestored.getLsbD 1) k.acc.L, f (k.unrestored.getLsbD 2) k.acc.X,
             f (k.unrestored.getLsbD 3) k.acc.S⟩ }
def execCtxLdGo (w : SY) (s : State) : Out :=
  .next (syWord (.ctxLdGo w) w [] [w.d] (fun s go => s.thenIssue go fun s =>
    let x := ctxNumber w
    if (s.ctx s.cur.core x).held then (s.modCtx s.cur.core x (·.letGo)).answer w.d 0 false
    else s.answer w.d 1 false) s)
/-- EPILOGUE_TIMEOUT: the cycles of ctx.sv.epi have passed: it stops as a hard stop (R355). -/
def State.endEpilogue (s : State) (c : CoreId) : State :=
  (s.modCore c fun k => { k with save := k.save.map fun sv => { sv with left := 0 } }).trySave c
def execEpilogueTimeout (c : CoreId) (s : State) : Out := .next (s.endEpilogue c)

end Sys2Proof.Machine
end

