-- ==== Sys2Proof/Machine/Package.lean ====
section
/-! DEFINITION. The package words (R287, R395, R396). -/
namespace Sys2Proof.Machine

/-! ## Energy and marks (R381, R385) -/

def Counters.total (k : Counters) : Int := (k.toList.drop 1).foldl (· + ·) 0
/-- Counter n in whole nJ, rounded down; counter 0 is the sum of the others (R380, R381). -/
def Counters.read (k : Counters) (n : Nat) : Word :=
  BitVec.ofInt 64 ((if n = 0 then k.total else k.toList.getD n 0).fdiv 65536)
/-- A mark log is full (R385). -/
def State.marksFull (s : State) (p : PartId) : Bool := (s.part p).marks.length ≥ 256
/-- Captures the counters of a partition and of a region path into the partition's mark log. -/
def State.capture (s : State) (p : PartId) (vf : VfId) (region : Addr) (d : DieId) (number : BitVec 32) : State :=
  s.modPart p fun k => { k with marks := k.marks ++
    [{ number := number, time := (s.die d).time, path := (s.path region).reverse.map fun a => (a, (s.pkg.region a).counters)
       vf := vf, counters := k.counters }] }

/-! ## Words -/

/-- en.rd (R395). -/
def execEnRd (w : SY) (s : State) : Out :=
  .next (syWord (.enRd w) w [] [w.d] (fun s go => s.thenIssue go fun s =>
    s.answer w.d ((s.part s.here.part).counters.read w.imm.toNat) false) s)
/-- en.mark: K waits for the commands that its context enqueued before, and for room in the mark log. -/
def execEnMark (w : SY) (s : State) : Out :=
  .next (syWord (.enMark w) w [w.a] [] (fun s go =>
    let mark := s.me.mark.getD s.here.serial
    if s.here.commandsBusy mark || s.marksFull s.here.part then (s.modMe fun t => { t with mark := some mark }).stall .interlock
    else s.thenIssue go fun s =>
      (s.modMe fun t => { t with mark := none }).capture s.here.part s.here.vf s.here.region (dieOf s.cur.core)
        ((s.rd w.a).setWidth 32)) s)
def execPartId (w : SY) (s : State) : Out :=
  .next (syWord (.partId w) w [] [w.d] (fun s go => s.thenIssue go fun s =>
    s.landReg w.d 1 (BitVec.ofNat 64 (pack [(6, s.here.part.toNat), (2, 0), (8, s.here.vf.toNat), (9, s.cur.core.val), (7, 0),
      (16, s.pkg.epoch.toNat % 65536)]))) s)
/-- The addresses of an invalidation: the whole space, or units of 64 KiB; none for a count of 0 (R287). -/
def invRange (all : Bool) (base count : Word) : Option (Nat × Nat) :=
  if all then some (0, 2 ^ 57)
  else if count.toNat % 2 ^ 32 = 0 then none
  else some (base.toNat % 2 ^ 57 / frameBytes * frameBytes, count.toNat % 2 ^ 32 * frameBytes)
/-- A core lies in the scope of a word of core `c`: the core itself, its die, the package. -/
def inScope (w : SY) (c d : CoreId) : Bool :=
  match w.scope.toNat with
  | 1 => d == c
  | 3 => dieOf d == dieOf c
  | _ => true
/-- A core that runs a task of the same partition and root (R287). -/
def State.sharesRoot (s : State) (k : Context) (d : CoreId) : Bool :=
  [Ctx.t0, .t1, .fw].any fun x => (s.ctx d x).part == k.part && (s.ctx d x).root == k.root && ((s.ctx d x).busy || x == .fw)
/-- The roots whose inbound translations tlb.inv at package scope covers: that of the issuing context, and the one through which its
partition takes inbound requests (R403), log 50. -/
def State.inRoots (s : State) (root : Addr) : Bool :=
  root == s.here.root || root == (s.part s.here.part).inroot.setWidth 57 <<< 12
/-- tlb.inv (R287): the TLBs of the cores in scope that run a task of the partition and root drop the range, at package scope the inbound
TLBs too (R403); K waits for the matrix commands from phase 3 on and the started remote accesses that touch it, and not for an access
that waits at Sage, which R292 still asks about after it, log 50. -/
def tlbInv (i : WideWord) (w : SY) (s : State) : State :=
  syWord i w [w.a, w.b] [] (fun s go =>
    match invRange (w.imm.getLsbD 0) (s.rd w.a) (s.rd w.b) with
    | none => s.thenIssue go id
    | some (va, size) =>
      let hit (d : CoreId) : Bool := inScope w s.cur.core d && s.sharesRoot s.here d
      if s.holdsPages hit s.here.root va size then s.stall .interlock
      else s.thenIssue go fun s =>
        let s1 := (allCores.filter fun d => hit d && !(s.core d).tlb.isEmpty).foldl (fun s d =>
          s.modCore d (·.dropTlb fun t => t.root == s.here.root && t.va < va + size && va < t.va + t.size)) s
        if w.scope.toNat = 4 then s1.dropIn fun t => s.inRoots t.root && t.va < va + size && va < t.va + t.size else s1) s
def execTlbInv (w : SY) (s : State) : Out := .next (tlbInv (.tlbInv w) w s)
def execTlbInvAll (w : SY) (s : State) : Out := .next (tlbInv (.tlbInvAll w) w s)
/-- seg.inv (R396): result, and the state in which the copy has been dropped. -/
def State.segDrop (s : State) (v : Word) : State × Word :=
  if v.toNat ≥ 64 then (s, 2)
  else match resolveHandle s.here s.cur.ctx (v.setWidth 6) with
    | none => (s, 2)
    | some n => match s.myCore.seg? s.cur.ctx n with
      | none => (s, 0)
      | some g =>
        if s.cur.ctx == .fw || g.pins != 0 || g.moving != none || s.here.held? n then (s, 1)
        else (s.modHere (·.dropSeg n), 0)
def execSegInv (w : SY) (s : State) : Out :=
  .next (syWord (.segInv w) w [w.a] [w.d] (fun s go => s.thenIssue go fun s =>
    let r := s.segDrop (s.rd w.a)
    r.1.answer w.d r.2 false) s)
/-- The thermal status of a core of the issuing partition (R395). -/
def State.thermalWord (s : State) (v : Word) (n : Nat) : Word :=
  if h : v.toNat < 192 then
    let c : CoreId := ⟨v.toNat, h⟩
    let k := s.core c
    if s.pkg.coreOwner[c.val] != some s.here.part then BitVec.allOnes 64
    else if n = 0 then k.tar.word
    else BitVec.ofNat 64 (pack [(16, k.temp.toNat), (8, s.droop c), (1, k.tar.heater.toNat),
      (1, (s.cluster (clusterOf c)).hot.toNat)])
  else BitVec.allOnes 64
def execTarRd (w : SY) (s : State) : Out :=
  .next (syWord (.tarRd w) w [w.a] [w.d] (fun s go => s.thenIssue go fun s =>
    s.answer w.d (s.thermalWord (s.rd w.a) w.imm.toNat) false) s)

end Sys2Proof.Machine
end

