-- ==== Sys2Proof/Machine/Fabric.lean ====
section
/-! DEFINITION. The fabric (R399-R416): its words, sending and completing fabric commands, and the links. -/
namespace Sys2Proof.Machine

/-! ## What a fabric word does -/

inductive FabKind where
  | load | store | atomic | push | pull
  | signal (add : Bool)
  | fence
  deriving DecidableEq, Repr
def fabKind : WideWord → FabKind
  | .xld _ => .load
  | .xst _ => .store
  | .xat _ => .atomic
  | .xcpPush _ => .push
  | .xcpPull _ => .pull
  | .xsigSet _ => .signal false
  | .xsigAdd _ => .signal true
  | _ => .fence
def FabCmd.kind (q : FabCmd) : FabKind := fabKind q.word
def FabCmd.fmt (q : FabCmd) : Fmt := Fmt.ofCode q.w.fmt
def FabCmd.ord (q : FabCmd) : BitVec 2 := q.w.imm.extractLsb' 4 2
def FabCmd.isRelease (q : FabCmd) : Bool :=
  match q.kind with
  | .store | .atomic => q.ord == 2
  | .signal _ => true
  | _ => false
/-- F/E mode of an xst or xcp (R407, R411). -/
def FabCmd.fe (q : FabCmd) : BitVec 2 := q.w.imm.extractLsb' 6 2
def FabCmd.peerIdx (q : FabCmd) : BitVec 6 := q.b.setWidth 6
def fabDepth : Nat := 32
def Context.fabQueue (k : Context) (p : Strand) : List FabCmd := if p == .S then k.fabS else k.fabL
def fabEngine (p : Strand) : Engine := if p == .S then .fabS else .fabL
def Context.modFab (k : Context) (serial : Nat) (f : FabCmd → FabCmd) : Context :=
  let g (q : FabCmd) : FabCmd := if q.tag.serial == serial then f q else q
  { k with fabL := k.fabL.map g, fabS := k.fabS.map g }

/-! ## The words (R404, R407, R411-R414) -/

/-- The command of a fabric word at the issuing slot. -/
def State.fabCmd (s : State) (i : WideWord) (w : SY) : FabCmd :=
  let k := s.here
  let st := match fabKind i with
    | .push | .pull => true
    | _ => false
  let sn := k.snapIf s.cur.ctx st (w.imm.setWidth 5)
  let named := match sn with
    | some r => r.reg.space == 0
    | none => false
  { tag := s.tag named (w.sq == 1) w.pre w.cc w.inc, word := i, w := w, d := w.d, a := s.rd w.a, b := s.rd w.b, c := s.rd w.c
    data := s.rd w.d, stream := sn, phase := .queued, peer := (s.rd w.b).setWidth 6, num := 0, op := none, answer := none, holds := [] }
def FabCmd.snaps (q : FabCmd) : List Snap := q.stream.toList
def FabCmd.names (q : FabCmd) : List Named := (q.snaps.map Snap.named).flatten
/-- A queued fabric word: it stalls while its queue is full, pops its tokens and enters the queue; `dst` awaits its result. -/
def fabWord (i : WideWord) (w : SY) (rd dst : List GReg) (s : State) : State :=
  s.issue (.wide i) rd dst fun s =>
    let q := s.fabCmd i w
    s.checkNames q.snaps q.names fun s =>
      if (s.here.fabQueue s.cur.strand).length ≥ fabDepth then s.stall .interlock
      else s.popTokens w.pre.tok fun s =>
        (s.modHere fun k =>
          let k := k.enqueued (!q.names.isEmpty)
          match s.cur.strand with
          | .S => { k with fabS := k.fabS ++ [q] }
          | _ => { k with fabL := k.fabL ++ [q] }).modMe fun t => { t with
            pend := t.pend ++ (dst.filter (· != 0)).map fun d => ⟨d, none, false, false, q.tag.serial⟩ }
def execXld (w : SY) (s : State) : Out := .next (fabWord (.xld w) w [w.a, w.b] [w.d] s)
def execXst (w : SY) (s : State) : Out := .next (fabWord (.xst w) w [w.a, w.b, w.d] [] s)
def execXat (w : SY) (s : State) : Out :=
  .next (fabWord (.xat w) w (if w.imm.setWidth 4 == 9#4 then [w.a, w.b, w.c, w.d] else [w.a, w.b, w.c]) [w.d] s)
def execXcpPush (w : SY) (s : State) : Out := .next (fabWord (.xcpPush w) w [w.a, w.b] [] s)
def execXcpPull (w : SY) (s : State) : Out := .next (fabWord (.xcpPull w) w [w.a, w.b] [] s)
def execXsigSet (w : SY) (s : State) : Out := .next (fabWord (.xsigSet w) w [w.a, w.b, w.c] [] s)
def execXsigAdd (w : SY) (s : State) : Out := .next (fabWord (.xsigAdd w) w [w.a, w.b, w.c] [] s)
def execXfence (w : SY) (s : State) : Out := .next (fabWord (.xfence w) w [] [] s)

/-! ## Paths (R399, R400, R409) -/

/-- The sub-link is trained and running. -/
def State.subUp (s : State) (n : Nat) : Bool :=
  if h : n / 8 < 12 then (s.pkg.links[n / 8]).up.getLsbD (n % 8) else false
/-- A sub-link is owned by a partition (R400). -/
def State.subOwned (s : State) (p : PartId) (n : Nat) : Bool :=
  if h : n / 8 < 12 then field (s.pkg.links[n / 8]).owner.toNat (8 * (n % 8)) 8 % 64 == p.toNat && bitOf (s.pkg.links[n / 8]).owner.toNat (8 * (n % 8) + 7)
  else false
def Peer.path (p : Peer) (sel : BitVec 1) : BitVec 7 := if sel == 0 then p.path0 else p.path1
/-- A path of an entry may carry traffic of its partition: a sub-link carries its owner's alone (R400). -/
def State.pathOk (s : State) (part : PartId) (p : Peer) (sel : BitVec 1) : Bool :=
  (sel == 0 || p.p1v) && (p.kind == 1 || (s.subUp (p.path sel).toNat && s.subOwned part (p.path sel).toNat))
/-- The path on which a request goes: the one in use, else the other one. -/
def State.pathFor (s : State) (part : PartId) (p : Peer) : Option (BitVec 1) :=
  if s.pathOk part p p.sel then some p.sel else if s.pathOk part p (~~~p.sel) then some (~~~p.sel) else none

/-- Commands of a context to a peer. -/
def Context.toPeer (k : Context) (n : BitVec 6) : Bool := (k.fabL ++ k.fabS).any fun q => q.kind != .fence && q.b == n.setWidth 64
/-- xroute (R414): it waits until the context's commands to the peer have completed. -/
def execXroute (w : SY) (s : State) : Out :=
  .next (syWord (.xroute w) w [w.a] [w.d] (fun s go =>
    let v := s.rd w.a
    let n : BitVec 6 := v.setWidth 6
    let sel : BitVec 1 := v.extractLsb' 6 1
    let p := s.peer s.here.part n
    if s.here.toPeer n then s.stall .interlock
    else s.thenIssue go fun s =>
      if v.toNat ≥ 128 || !p.v then s.answer w.d 2 false
      else if (sel == 1 && !p.p1v) || (p.kind == 0 && !s.subUp (p.path sel).toNat) then s.answer w.d 1 false
      else (s.modPeer s.here.part n fun p => { p with sel := sel }).answer w.d 0 false) s)

/-! ## Sending (R405, R408-R412) -/

def State.modLink (s : State) (l : Fin 12) (f : Link → Link) : State :=
  s.modPkg fun k => { k with links := k.links.set l.val (f k.links[l.val]) }
/-- The request of a command as its target receives it. -/
def State.flitOf (s : State) (part : PartId) (pe : Peer) (r : SentReq) : OutFlit := .request ⟨s.pkg.number, part, pe.rpart, r.num, r.op⟩

/-- Bytes of the remote word. -/
def FabCmd.bytes (q : FabCmd) : Nat :=
  match q.kind with
  | .signal _ => 8
  | .push | .pull => (q.stream.map fun r => (Fmt.ofCode r.reg.fmt).bytes).getD 1
  | .atomic => if q.w.imm.setWidth 4 == 10#4 then 4 else q.fmt.bytes
  | _ => q.fmt.bytes
/-- The local faults of a command, in their order (R408, R411, R412). -/
def FabCmd.check (q : FabCmd) (p : Peer) : Option (Cause × Word) :=
  let rma := match q.kind with
    | .push | .pull | .signal _ => true
    | _ => false
  if q.b.toNat ≥ 64 || !p.v || (p.kind == 1 && !rma) then some (.prot, q.b)
  else if q.a.toNat ≥ 2 ^ 57 then some (.prot, q.a)
  else if q.a.toNat % q.bytes != 0 then some (.align, q.a)
  else if p.kind == 1 && (match q.kind with
      | .signal _ => q.w.imm.getLsbD 1
      | _ => q.fe != 0) then some (.prot, q.a)
  else none
/-- A release waits for the replay queue, for every earlier fabric command of its context (R408), and for the memory-extended accesses of
its strand that precede it (R301, R302). -/
def Context.fabHeld (k : Context) (q : FabCmd) : Bool :=
  q.isRelease && (!k.replay.isEmpty || (k.fabL ++ k.fabS).any (·.tag.serial < q.tag.serial) ||
    (k.meQueue q.tag.strand).any (·.tag.serial < q.tag.serial))
/-- A release also waits for the writes of its context, of every class, to regions that are bound to its word (R303, R408). -/
def State.fabHeld (s : State) (c : CoreId) (x : Ctx) (q : FabCmd) : Bool :=
  let k := s.ctx c x
  let bs := (s.part k.part).bindings.filter fun b => b.root == k.root && b.obj == q.a
  k.fabHeld q || (q.isRelease && !bs.isEmpty && (k.copyBusy q.tag.serial || k.matrixBusy q.tag.serial || k.vectorBusy ||
    (k.meL ++ k.meS).any fun e => e.tag.serial < q.tag.serial && !e.isLocal && e.writes && bs.any (·.holds e.loc.toNat e.bytes)))
/-- The copy command that would move the same local elements. -/
def FabCmd.asCopy (q : FabCmd) : CopyCmd :=
  { tag := q.tag, word := .cp ⟨q.w.pre, 0, 0, 0, q.fe, 0, 0, 0, 0, 0⟩, w := ⟨q.w.pre, 0, 0, 0, q.fe, 0, 0, 0, 0, 0⟩, dst := q.stream
    src := q.stream, idx := none, bar := none, follow := none, phase := .started, holds := [], wpos := 0, tails := [], rs := [] }
/-- Bytes of pieces, and the F and poison of the source of each byte. -/
def pieceBytes (n : Nat) (l : List Piece) : List Byte × List Bool × List Bool :=
  ((l.map fun v => (List.range n).map fun i => BitVec.ofNat 8 (v.val / 256 ^ i)).flatten,
    (l.map fun v => (List.range n).map fun i => v.f.getD (i / 4) false).flatten,
    (l.map fun v => (List.range n).map fun _ => v.poison).flatten)
/-- The operation that a command sends. -/
inductive Made where
  | fault (c : Cause) (eval : Word)
  | waits (s : State)
  | ok (s : State) (op : RemoteOp)
def State.makeOp (s : State) (c : CoreId) (x : Ctx) (q : FabCmd) : Made :=
  let n := q.bytes
  match q.kind with
  | .load => .ok s (.load q.a n)
  | .store => .ok s (.store q.a n q.data q.fe)
  | .atomic => .ok s (.atomic (q.w.imm.setWidth 4) q.a q.w.fmt q.c q.data)
  | .signal add => .ok s (.signal q.a q.c add (q.w.imm.getLsbD 1))
  | .pull => .ok s (.pull q.a (n * q.asCopy.count) (q.fe == 1))
  | .push => (match s.readAll c x q.asCopy (List.range q.asCopy.count) with
    | .fault _ cause ev => .fault cause ev
    | .waits s1 => .waits s1
    | .ok s1 l =>
      let (bs, fs, ps) := pieceBytes n l
      .ok s1 (.push q.a bs q.fe fs ps))
  | .fence => .ok s (.load 0 0)
def State.fabFault (s : State) (c : CoreId) (x : Ctx) (q : FabCmd) (cause : Cause) (ev : Word) : State :=
  s.endFault c x q.tag cause ev
/-- A fabric command completes (R405, R161). -/
def State.fabDone (s : State) (c : CoreId) (x : Ctx) (p : Strand) (t : Tag) : State :=
  (s.modCtx c x (·.without [t.serial])).complete c x (fabEngine p) (plainStage t)
/-- Sends the request of a command on the path in use, with the next number of the pair (R410). -/
def State.sendReq (s : State) (c : CoreId) (x : Ctx) (p : Strand) (q : FabCmd) (op : RemoteOp) (sel : BitVec 1) : State :=
  let part := (s.ctx c x).part
  let pe := s.peer part q.peerIdx
  let r : SentReq := { num := pe.next, core := c, ctx := x, strand := p, serial := q.tag.serial, op := op, path := pe.path sel }
  let s1 := ((s.modPair part q.peerIdx fun e => { e with next := (pe.next + 1) % 2 ^ 64 }).modPeer part q.peerIdx fun pe =>
    { pe with sel := sel, sent := pe.sent ++ [r] }).modCtx c x
    (·.modFab q.tag.serial fun q => { q with phase := .started, num := pe.next, op := some op })
  if pe.kind == 0 then s1.putFlit (pe.path sel).toNat (s.flitOf part pe r) else s1
/-- FABRIC_COMMAND_SEND: the first unsent command of a queue is sent, or ends, or waits. Commands behind an xfence wait until
everything ahead of it has completed (R413). -/
def State.sendFab (s : State) (c : CoreId) (x : Ctx) (p : Strand) : State :=
  let k := s.ctx c x
  match k.fabQueue p with
  | [] => s
  | hd :: _ =>
    if k.held then s
    else if hd.kind == .fence then s.fabDone c x p hd.tag
    else match (k.fabQueue p).find? fun q => q.phase == .queued with
      | none => s
      | some q =>
        if q.kind == .fence || (k.fabQueue p).any (fun r => r.kind == .fence && r.tag.serial < q.tag.serial) || s.fabHeld c x q then s
        else
          let pe := s.peer k.part q.peerIdx
          match q.check pe with
          | some (cause, ev) => s.fabFault c x q cause ev
          | none => match s.pathFor k.part pe with
            | none => s.fabFault c x q .eccue q.a
            | some sel =>
              if s.unacked k.part q.peerIdx ≥ 2048 then s
              else match s.holdAll c x p q.tag.serial (q.tag.ticket.getD 0) (firstNames q.names []) with
                | .fails s1 (n, h) => s1.fabFault c x q .segfail (segEval n h)
                | .waits s1 l => s1.modCtx c x (·.modFab q.tag.serial fun q => { q with holds := l })
                | .all s1 l => match s1.makeOp c x q with
                  | .fault cause ev => s1.fabFault c x q cause ev
                  | .waits s2 => s.keepFaults s2 c x
                  | .ok s2 op => (s2.modCtx c x (·.modFab q.tag.serial fun q => { q with holds := l })).sendReq c x p q op sel
def execFabricCommandSend (c : CoreId) (x : Ctx) (p : Strand) (s : State) : Out := .next (s.unlessFrozen c (s.sendFab c x p))

/-! ## Completing (R405, R408, R411) -/

/-- The value that xld and xat write to g[d]. -/
def FabCmd.result (q : FabCmd) (v : Word) : Word :=
  if q.fmt.isSigned then sx v (8 * q.bytes) else BitVec.ofNat 64 (v.toNat % 2 ^ (8 * q.bytes))
/-- Pieces of `n` bytes from what a pull returned. -/
def piecesOf (n : Nat) (bs : List Byte) (fs ps : List Bool) (i : Nat) : Piece :=
  { val := ofBytes ((bs.drop (n * i)).take n), poison := ((ps.drop (n * i)).take n).any id
    f := [fs.getD (n * i) false, fs.getD (n * i + 4) false] }
/-- Writes what a pull returned to the stream's elements. -/
def State.pullAll (q : CopyCmd) (c : CoreId) (x : Ctx) (d : Snap) (bs : List Byte) (fs ps : List Bool) (m : Moves) : List Nat → Moved
  | [] => .done m
  | k :: r => match State.putAll q c x d (piecesOf q.size bs fs ps k) k m [(c, x)] with
    | .done m1 => State.pullAll q c x d bs fs ps m1 r
    | f => f
/-- COMMAND_COMPLETION of a fabric queue: the first command that has started, when the target has answered it; the commands of a queue
complete in the order in which they started (R161). -/
def State.completeFab (s : State) (c : CoreId) (x : Ctx) (p : Strand) : State :=
  match ((s.ctx c x).fabQueue p).find? (·.phase == .started) with
  | none => s
  | some q => match q.answer with
    | none => s
    | some (.fault cause) => s.fabFault c x q cause q.a
    | some (.done v) =>
      (s.modStrand c x p fun t => { t with pend := fillPend q.tag.serial q.d (q.result v) t.pend }).fabDone c x p q.tag
    | some (.data bs fs ps) => match q.stream with
      | none => s.fabDone c x p q.tag
      | some d => match State.pullAll q.asCopy c x d bs fs ps ⟨s, [], []⟩ (List.range q.asCopy.count) with
        | .waits s1 => s.keepFaults s1 c x
        | .fault m cause ev => (m.finish.rescanAll c x).fabFault c x q cause ev
        | .done m => (m.finish.rescanAll c x).fabDone c x p q.tag

/-! ## Links (R400, R401, R409) -/

/-- Lane pairs of the sub-link that a split register starts at pair j; none where no sub-link starts. -/
def subWidth (split : BitVec 24) (j : Nat) : Option Nat :=
  match field split.toNat (3 * j) 3 with
  | 1 => some 1 | 2 => some 2 | 3 => some 4 | 4 => some 8 | _ => none
/-- A split whose sub-links are whole and aligned (R400). -/
def splitWalk (split : BitVec 24) : Nat → Nat → Bool
  | 0, j => j == 8
  | n + 1, j =>
    if j ≥ 8 then j == 8
    else match subWidth split j with
      | none => false
      | some w => j % w == 0 && j + w ≤ 8 && (List.range (w - 1)).all (fun i => field split.toNat (3 * (j + 1 + i)) 3 == 0) &&
          splitWalk split n (j + w)
def splitOk (split : BitVec 24) : Bool := splitWalk split 8 0
def linkOf (n : Fin 96) : Fin 12 := ⟨n.val / 8, by omega⟩
/-- The default reservation table: 40 request, 16 response and 8 signal slots (R401). -/
def defaultSlots : BitVec 8 × BitVec 8 × BitVec 8 := (40, 16, 8)
/-- What waited for slots goes out when the table has them. -/
def State.sendWaiting (s : State) (sub : Fin 96) (l : List OutFlit) : State := l.foldl (fun s f => s.putFlit sub.val f) s
/-- LINK_TRAINING: a sub-link that the split starts pairs with its partner and fixes its reservation table. -/
def execLinkTraining (sub : Fin 96) (partner : LinkPartner) (s : State) : Out :=
  .next (
    let l := linkOf sub
    match subWidth s.pkg.links[l.val].split (sub.val % 8) with
    | none => s
    | some _ =>
      let table := partner.table.getD defaultSlots
      let s1 := s.modLink l fun k => { k with
        up := k.up ||| 1#8 <<< (sub.val % 8), plink := partner.link, ppkg := partner.pkg, req := table.1, rsp := table.2.1, sig := table.2.2 }
      (s1.modSub sub fun k =>
        { k with pkg := partner.pkg, tx := 0, acked := 0, rx := 0, asks := false, held := [], line := [], waiting := [] }).sendWaiting sub
          s.pkg.subs[sub.val].waiting)
/-- The answer to a request of ours: it is acknowledged, and its command can complete. -/
def State.answered (s : State) (part : PartId) (n : BitVec 6) (num : Nat) (r : RemoteResult) : State :=
  match (s.peer part n).sent.find? (·.num == num) with
  | none => s
  | some q =>
    (s.modPeer part n fun p => { p with sent := p.sent.filter (·.num != num) }).modCtx q.core q.ctx
      (·.modFab q.serial fun c => { c with answer := some r })
/-- A flit has been taken in order (R401). -/
def State.tookFlit (s : State) (sub : Fin 96) : State := s.modSub sub fun k => { k with rx := k.rx + 1, asks := false }
/-- The highest number taken goes back in a response slot. -/
def State.ackFlit (s : State) (sub : Fin 96) (n : Nat) : State := s.putFlit sub.val (.ack n)
/-- FLIT_RECEIVE: a flit that is taken in order is acknowledged, but for an acknowledgement and a replay request, log 84; one that fails its CRC, is out of order or finds no room is discarded with a replay request (R401); a sub-link
carries the traffic of its owner alone (R400); what answers an Ethernet peer comes the same way, log 81. A replay request makes the
sender send again, in order, from its number. -/
def execFlitReceive (sub : Fin 96) (flit : Flit) (s : State) : Out :=
  .next (
    let k := s.pkg.subs[sub.val]
    if !flit.crcOk || !flit.room || flit.seq != k.rx then (s.modSub sub fun k => { k with asks := true }).putFlit sub.val (.replay k.rx)
    else
      let s1 := match flit.body with
        | .request _ | .answer _ _ _ _ => (s.tookFlit sub).ackFlit sub k.rx
        | .ack _ | .replay _ => s.tookFlit sub
      match flit.body with
      | .request r => if s.subOwned r.dst sub.val then s1.inboundOn ⟨r, some sub⟩ else s1
      | .answer part n num r => if s.subOwned part sub.val || (s.peer part n).kind == 1 then s1.answered part n num r else s1
      | .ack q => s1.modSub sub fun k => { k with acked := q, held := k.held.filter fun f => q < f.1 }
      | .replay q => s1.modSub sub fun k => { k with line := k.line ++ k.held.filter fun f => q ≤ f.1 })
/-- The unanswered commands to a peer end with ECCUE, and nothing sent to it is owed any more (R409). -/
def State.failPeer (s : State) (part : PartId) (n : BitVec 6) : State :=
  ((s.peer part n).sent.foldl (fun s r => match ((s.ctx r.core r.ctx).fabQueue r.strand).find? (·.tag.serial == r.serial) with
    | some q => s.fabFault r.core r.ctx q .eccue q.a
    | none => s) s).modPeer part n fun p => { p with sent := [] }
/-- Requests of an entry whose path has failed go out again on the other one, or end with ECCUE when there is none (R409). -/
def State.switchPath (s : State) (part : PartId) (i : Fin 64) (sub : Nat) : State :=
  let n : BitVec 6 := BitVec.ofNat 6 i.val
  let p := s.peer part n
  if !p.v || p.kind != 0 || (p.path p.sel).toNat != sub then s
  else if s.pathOk part p (~~~p.sel) then
    p.sent.foldl (fun t r => t.putFlit (p.path (~~~p.sel)).toNat (s.flitOf part p r))
      (s.modPeer part n fun p => { p with sel := ~~~p.sel, sent := p.sent.map fun r => { r with path := p.path (~~~p.sel) } })
  else s.failPeer part n
/-- SUBLINK_FAILURE (R409): entries switch paths, and the delayed requests that came on it are discarded without effect. -/
def execSublinkFailure (sub : Fin 96) (s : State) : Out :=
  .next (
    let l := linkOf sub
    let bit : BitVec 8 := 1#8 <<< (sub.val % 8)
    let s1 := (((s.modLink l fun k => { k with failed := k.failed ||| bit, up := k.up &&& ~~~bit }).modSub sub fun k =>
      { k with fails := k.fails + 1, waiting := [] }).logIt (.subFailed sub.val)).modPkg fun k => { k with
        delayed := k.delayed.filter fun q => q.sub != some sub }
    (List.range 64).foldl (fun s p => (List.finRange 64).foldl (fun s i => s.switchPath (BitVec.ofNat 6 p) i sub.val) s) s1)
/-- TIME_MESSAGE: on a port that the service has enabled; with lock fabric time is the grandmaster's, without it runs on from die time
(R416). -/
def execTimeMessage (m : TimeMessage) (lock : Bool) (time : Word) (s : State) : Out :=
  .next (if s.pkg.timePorts.getLsbD m.port.toNat then
    s.modPkg fun k => { k with offs := m.offs, locked := lock, fabricTime := if lock then time else k.fabricTime }
  else s)

/-! ## Die-to-die pairs (R361) -/

def execDieToDieFlit (pair : Fin 6) (crcOk : Bool) (s : State) : Out :=
  .next (s.modPkg fun k => { k with pairs := k.pairs.set pair.val (
    let p := k.pairs[pair.val]
    if p.failed then p else if crcOk then { p with rx := p.rx + 1 } else { p with resent := p.resent + 1 }) })
def execPairFailure (pair : Fin 6) (s : State) : Out :=
  .next ((s.modPkg fun k => { k with pairs := k.pairs.set pair.val { k.pairs[pair.val] with
    failed := true, fails := k.pairs[pair.val].fails + 1 } }).logIt (.pairFailed pair.val))

end Sys2Proof.Machine
end

