-- ==== Sys2Proof/Machine/Scheduler.lean ====
section
/-! DEFINITION. The command processor of a die: doorbells, control blocks, slots, ring entries and packets (R331-R346). -/
namespace Sys2Proof.Machine

/-! ## Doorbells and control blocks (R332, R334, R419) -/

/-- The functions that reach a queue's doorbells: the physical function every one, a virtual function that is bound to a partition
those of its own (R334, R365). -/
def State.bellOf (s : State) (fn : Func) (d : DieId) (n : BitVec 12) : Option Queue :=
  match s.queue? d n with
  | none => none
  | some q =>
    let own : Bool := match fn, q.copy with
      | .pf, _ => true
      | .vf v, some c => c.vf == v && q.bell.isSome && (s.partOfVf v).isSome
      | .vf v, none => (qcbOf (s.mem.read q.qcb.toNat qcbBytes)).vf == v && q.bell.isSome && (s.partOfVf v).isSome
    if q.v && own then some q else none
/-- The count of a queue's doorbell: out of its range it stops the queue with 0x02. -/
def State.ring (s : State) (d : DieId) (n : BitVec 12) (count : Word) : State :=
  match s.queue? d n with
  | none => s
  | some q =>
    let far : Bool := match q.copy with
      | some c => q.rd + c.entries < count.toNat
      | none => false
    if count.toNat < q.rd || far then s.queueError d n 0x02
    else s.modQueue d n fun q => { q with count := count, ended := false }
/-- The queue of a function that holds a doorbell index (R419). -/
def State.withBell (s : State) (fn : Func) (k : BitVec 10) : Option (DieId × BitVec 12) :=
  allDies.findSome? fun d => (((s.die d).queues.map (·.num)).find? fun n =>
    (s.bellOf fn d n).any fun q => q.bell == some k).map fun n => (d, n)
/-- The queue whose doorbell lies at an offset of a function's BAR0; none where no queue has it (R419). -/
def State.rung (s : State) (fn : Func) (page : BitVec 14) (off : BitVec 12) : Option (DieId × BitVec 12) :=
  match bar0At fn (4096 * page.toNat + off.toNat) with
  | .bell d n => (s.bellOf fn d n).map fun _ => (d, n)
  | .bellOf k => s.withBell fn k
  | _ => none
/-- The same of a reload doorbell. -/
def State.rungReload (s : State) (fn : Func) (page : BitVec 14) (off : BitVec 12) : Option (DieId × BitVec 12) :=
  match bar0At fn (4096 * page.toNat + off.toNat) with
  | .reload d n => (s.bellOf fn d n).map fun _ => (d, n)
  | .reloadOf k => s.withBell fn k
  | _ => none
/-- DOORBELL: a write at a page and offset of a function's BAR0; the service cores and Sorrel reach the doorbells of all queues as the
physical function does (R334). -/
def execDoorbell (fn : Func) (page : BitVec 14) (off : BitVec 12) (count : Word) (s : State) : Out :=
  .next (match s.rung fn page off with
    | some (d, n) => s.ring d n count
    | none => s)
/-- RELOAD_DOORBELL: the block is read, and adopted when it is closed and valid (R332). -/
def execReloadDoorbell (fn : Func) (page : BitVec 14) (off : BitVec 12) (s : State) : Out :=
  .next (match s.rungReload fn page off with
    | some (d, n) => (s.adopt d n).leaveSlots d
    | none => s)
/-- QCB_REREAD: a block that was not adopted is read again (R332). -/
def execQcbReread (d : DieId) (n : BitVec 12) (s : State) : Out :=
  .next (match s.queue? d n with
    | some q => if q.v && q.reread then (s.adopt d n).leaveSlots d else s
    | none => s)

/-! ## Slots (R331) -/

def slotCount : Nat := 64
/-- Round-robin distance of a queue behind the one mapped last. -/
def rrDistance (last n : BitVec 12) : Nat := (n - last - 1).toNat
/-- The better of two by a rule, the earlier of a list where they are equal. -/
def best {α : Type} (lt : α → α → Bool) : List α → Option α
  | [] => none
  | a :: r => match best lt r with
    | none => some a
    | some b => if lt b a then some b else some a
/-- The ready queue to be mapped next: highest priority, then round-robin in runlist order. -/
def State.nextToMap (s : State) (d : DieId) : Option Queue :=
  best (fun a b => s.queuePrio b < s.queuePrio a ||
      (s.queuePrio a == s.queuePrio b && rrDistance (s.die d).lastMapped a.num < rrDistance (s.die d).lastMapped b.num))
    ((s.die d).queues.filter fun q => q.slot.isNone && s.queueReady q)
/-- The mapped queue that leaves for a ready one of higher priority: the lowest priority, the one mapped longest. -/
def State.displaced (s : State) (d : DieId) (prio : Nat) : Option Queue :=
  let age (q : Queue) : Nat := match q.slot with
    | some (_, k) => k
    | none => 0
  best (fun a b => s.queuePrio a < s.queuePrio b || (s.queuePrio a == s.queuePrio b && age a < age b))
    ((s.die d).queues.filter fun q => q.slot.isSome && s.queuePrio q < prio)
def State.freeSlot (s : State) (d : DieId) : Option Nat :=
  (List.range slotCount).find? fun i => !(s.die d).queues.any fun q => match q.slot with
    | some (j, _) => j == i
    | none => false
def State.mapInto (s : State) (d : DieId) (q : Queue) (slot : Nat) : State :=
  let k := (s.die d).mappings
  ((s.modDie d fun e => { e with lastMapped := q.num, mappings := k + 1 }).modQueue d q.num fun q =>
    { q with slot := some (slot, k), held := none, fetched := [], ended := false }).adopt d q.num
/-- QUEUE_MAP: queues that are not ready leave; the next ready queue takes a free slot, or that of a queue of strictly lower
priority once that stands at a packet boundary. Read-index words still owed are written. -/
def execQueueMap (d : DieId) (s : State) : Out :=
  .next (
    let s := ((s.die d).queues.filter (·.owed)).foldl (fun s q => s.writeIndex d q.num) s
    let s := s.leaveSlots d
    match s.nextToMap d with
    | none => s
    | some q => match s.freeSlot d with
      | some i => s.mapInto d q i
      | none => match s.displaced d (s.queuePrio q) with
        | none => s
        | some v => match v.slot with
          | some (i, _) => if v.atBoundary then (s.unslot d v.num).mapInto d q i else s
          | none => s)

/-! ## Ring entries (R335, R336) -/

def aheadMax : Nat := 16
def entryWord (b : BitVec 512) (i : Nat) : Word := b.extractLsb' (64 * i) 64
def headerType (h : Word) : Nat := h.toNat % 256
def headerBarrier (h : Word) : Bool := h.getLsbD 8
def headerIrq (h : Word) : Bool := h.getLsbD 9
/-- Virtual address of entry `i` of a ring. -/
def Qcb.entryAddr (c : Qcb) (i : Nat) : Word := word57 c.rbase + BitVec.ofNat 64 (entryBytes * (i % c.entries))
/-- The entry at `i` is the second of a LAUNCH. -/
def secondEntry : List RingEntry → Bool
  | [] => false
  | [e] => headerType (entryWord e.bits 0) == 1
  | e :: f :: t => if headerType (entryWord e.bits 0) == 1 then secondEntry t else secondEntry (f :: t)
/-- Fetches entries until 16 are held, the count is reached, or an entry's PSEQ is not its index. -/
def State.fetchN (s : State) (d : DieId) (n : BitVec 12) : Nat → State
  | 0 => s
  | fuel + 1 => match s.queue? d n with
    | none => s
    | some q => match q.copy with
      | none => s
      | some c =>
        let i := q.rd + q.fetched.length
        if q.ended || i ≥ q.count.toNat || q.fetched.length ≥ aheadMax then s
        else match s.queueAccess c (c.entryAddr i) needRd with
          | .prot => s.queueError d n 0x09
          | .absent s1 => s1.holdQueue d n (s.queueRoot c) (addr57 (c.entryAddr i))
          | .ok s1 pa =>
            let b := BitVec.ofNat 512 (s1.mem.read pa entryBytes)
            if secondEntry q.fetched || (entryWord b 0).toNat / 2 ^ 32 == i % 2 ^ 32 then
              (s1.modQueue d n fun q => { q with fetched := q.fetched ++ [⟨i, b⟩] }).fetchN d n fuel
            else s1.modQueue d n fun q => { q with ended := true }
def execPacketFetch (d : DieId) (n : BitVec 12) (s : State) : Out :=
  .next (match s.queue? d n with
    | some q => if q.slot.isSome && s.queueReady q then s.fetchN d n aheadMax else s
    | none => s)

/-! ## Starting and completing packets (R336, R337) -/

/-- A packet that may start: its queue, block, index, words and second entry. -/
structure Packet where
  q : Queue
  c : Qcb
  index : Nat
  w : BitVec 512
  args : BitVec 512
def Packet.word (k : Packet) (i : Nat) : Word := entryWord k.w i
/-- SIGNAL, COPY and MARK wait as if BARRIER were 1. -/
def barrierType (t : Nat) : Bool := t == 3 || t == 4 || t == 5
/-- The packet at the head of a queue, when it is of type `ty`, may start, and its header reads as it was fetched; a header that
differs discards what has been fetched. -/
def State.headPacket (s : State) (d : DieId) (n : BitVec 12) (ty : Nat) : State × Option Packet :=
  match s.queue? d n with
  | none => (s, none)
  | some q => match q.copy, q.fetched with
    | some c, e :: r =>
      let h := entryWord e.bits 0
      let second := match r with
        | f :: _ => some f.bits
        | [] => if headerType h == 1 then none else some 0
      match second with
      | none => (s, none)
      | some args =>
        if q.slot.isNone || !q.atBoundary || !s.queueReady q then (s, none)
        else if (headerBarrier h || barrierType (headerType h)) && !q.started.isEmpty then (s, none)
        else match s.queueAccess c (c.entryAddr q.rd) needRd with
          | .prot => (s.queueError d n 0x09, none)
          | .absent s1 => (s1.holdQueue d n (s.queueRoot c) (addr57 (c.entryAddr q.rd)), none)
          | .ok s1 pa =>
            if s1.mem.read pa 8 != h.toNat then ((s1.dropQWait d n).modQueue d n fun q => { q with fetched := [], ended := false, resend := false }, none)
            else if headerType h > 5 || h.toNat / 2 ^ 10 % 2 ^ 22 != 0 then (s1.queueError d n 0x01, none)
            else if headerType h != ty then (s, none)
            else (s1, some ⟨q, c, q.rd, e.bits, args⟩)
    | _, _ => (s, none)
/-- Words from the `i`-th to the seventh of the packet are zero. -/
def Packet.zeroFrom (k : Packet) (i : Nat) : Bool := k.w.toNat / 2 ^ (64 * i) == 0
/-- The packet has started: RDIDX passes its entries, and the queue stands at a packet boundary. -/
def State.passed (s : State) (d : DieId) (n : BitVec 12) (entries : Nat) : State :=
  ((s.modQueue d n fun q => { q with rd := q.rd + entries, fetched := q.fetched.drop entries }).writeIndex d n).leaveSlots d
/-- The packet completes: its vector is sent when IRQ is set. -/
def State.completed (s : State) (k : Packet) : State := if headerIrq (k.word 0) then s.queueVec k.c else s
/-- NOP: it starts and completes at once. -/
def execNop (d : DieId) (n : BitVec 12) (s : State) : Out :=
  .next (match s.headPacket d n 0 with
    | (s1, none) => s1
    | (s1, some k) => if !k.zeroFrom 1 then s1.queueError d n 0x01 else (s1.passed d n 1).completed k)

/-! ## WAIT (R345) -/

/-- A waiting WAIT takes an entry of the wait table of its word's die, or is to be sent again. -/
def State.waitAt (s : State) (d : DieId) (n : BitVec 12) (k : Packet) (pa : Nat) : State :=
  let home := dieOfPa pa
  let part := (s.queuePart k.c).getD 0
  if (s.die home).qwaits.any fun w => w.die == d && w.queue == n then s
  else if s.tableRoom home part then
    s.modDie home fun e => { e with qwaits := e.qwaits ++ [⟨d, n, e.arrivals, pa, k.word 2, part⟩], arrivals := e.arrivals + 1 }
  else s.modQueue d n fun q => { q with resend := true }
/-- The WAIT at the head of a queue reads its signal: it starts and completes, waits, or stops the queue. -/
def State.tryWait (s : State) (d : DieId) (n : BitVec 12) : State :=
  match s.headPacket d n 2 with
  | (s1, none) => s1
  | (s1, some k) =>
    let va := k.word 1
    if !k.zeroFrom 3 then s1.queueError d n 0x01
    else if va.toNat % 8 != 0 then s1.queueError d n 0x07
    else match s1.queueAccess k.c va needRd with
      | .prot => s1.queueError d n 0x09
      | .absent s2 => s2.holdQueue d n (s2.queueRoot k.c) (addr57 va)
      | .ok s2 pa =>
        let s2 := { s2 with hbm := s2.hbm.touch pa 8 false }
        if s2.mem.poisoned pa || s2.hbm.badPoison pa 8 then s2.queueError d n 0x0A
        else if (k.word 2).toNat ≤ s2.mem.read pa 8 then ((s2.dropQWait d n).passed d n 1).completed k
        else s2.waitAt d n k pa
def execWait (d : DieId) (n : BitVec 12) (s : State) : Out :=
  .next (match s.queue? d n with
    | some q => if q.resend then s else s.tryWait d n
    | none => s)
/-- WAIT_RESEND: a WAIT that found the table full is sent again (R345). -/
def execWaitResend (d : DieId) (n : BitVec 12) (s : State) : Out :=
  .next (match s.queue? d n with
    | some q => if q.resend then (s.modQueue d n fun q => { q with resend := false }).tryWait d n else s
    | none => s)

/-! ## SIGNAL, COPY, MARK (R337, R385) -/

/-- Translates every page of a range, and marks it; the first failure counts. -/
def State.copyPages (s : State) (c : Qcb) (n : Need) : List Word → QAccess
  | [] => .ok s 0
  | a :: r => match s.queueAccess c a n with
    | .ok s1 _ => s1.copyPages c n r
    | f => f
/-- Where a resident page puts an address. -/
def State.paOf (s : State) (root : Addr) (va : Nat) : Nat := match walk s.mem root va with
  | .page _ _ _ pa => pa
  | _ => 0
/-- Element `i` of the copy: data, F by mode, and what its line takes of poison. -/
def State.copyElem (root : Addr) (dst src mode : Nat) (r : State × List (Place × ElemWrite)) (i : Nat) :
    State × List (Place × ElemWrite) :=
  let s := r.1
  let f := s.paOf root (src + 4 * i)
  let t := s.paOf root (dst + 4 * i)
  let v := s.mem.read f 4
  let fl := s.mem.fbit f
  let po := s.mem.poisoned f
  let s1 := { s with hbm := s.hbm.touch f 4 false }.writePlace (.dev t) 4 v
  let s2 := match mode with
    | 1 => s1.setFPlace (.dev t) 4 fl
    | 2 => s1.setFPlace (.dev t) 4 true
    | 3 => s1.setFPlace (.dev t) 4 false
    | _ => s1
  (s2, r.2 ++ [(.dev t, { seg := none, addr := t, bytes := 4, val := v, bit := 0, width := 0, poison := po })])
/-- An element of a COPY meets an uncorrectable error of its line's poison bit, or of its F bits where the mode needs them (R280). -/
def State.unreadable (s : State) (needF : Bool) (pa : Nat) : Bool := s.hbm.badPoison pa 4 || (needF && s.hbm.badF pa 4)
/-- How far the accesses of a started packet have come. -/
inductive Perform where
  /-- A protection failure or poison: the code of the error. -/
  | fails (s : State) (code : BitVec 8)
  /-- An absent page. -/
  | waits (s : State) (va : Addr)
  | done (s : State)
/-- The accesses of a SIGNAL: it sets the word or adds to it, with F unchanged, as a release (R337, R346). -/
def State.performSignal (s : State) (c : Qcb) (w : BitVec 512) : Perform :=
  let va := entryWord w 1
  let add := entryWord w 3 == 1
  match s.queueAccess c va (if add then needRmw else needFill) with
  | .prot => .fails s 0x09
  | .absent s1 => .waits s1 (addr57 va)
  | .ok s1 pa =>
    if add && (s1.mem.poisoned pa || s1.hbm.badPoison pa 8) then .fails s1 0x0A
    else .done ((s1.dirtyPages (s.queueRoot c) [va.toNat]).cpWrite pa 8 (((if add then s1.mem.read pa 8 else 0) + (entryWord w 2).toNat) % 2 ^ 64))
/-- The first address of a list whose page is absent. -/
def State.firstAbsent (s : State) (root : Addr) (l : List Word) : Addr :=
  match l.find? fun a => !s.unitResident root (a.toNat / frameBytes) with
  | some a => addr57 a
  | none => 0
/-- The accesses of a COPY: 4-byte elements in ascending order with their F mode, performed whole at package scope (R337, R185,
R186). An uncorrectable error ends it at that element; the code of that error is the model's choice, log 73. -/
def State.performCopy (s : State) (c : Qcb) (w : BitVec 512) : Perform :=
  let dst := entryWord w 1
  let src := entryWord w 2
  let len := (entryWord w 3).toNat
  let root := s.queueRoot c
  if len != 0 && (dst.toNat + len > 2 ^ 57 || src.toNat + len > 2 ^ 57) then .fails s 0x09
  else match s.copyPages c needRd (pagesOf src len) with
    | .prot => .fails s 0x09
    | .absent s1 => .waits s1 (s1.firstAbsent root (pagesOf src len))
    | .ok s1 _ => match s1.copyPages c needFill (pagesOf dst len) with
      | .prot => .fails s1 0x09
      | .absent s2 => .waits s2 (s2.firstAbsent root (pagesOf dst len))
      | .ok s2 _ =>
        let mode := (entryWord w 4).toNat
        let bad (i : Nat) : Bool := s2.unreadable (mode == 1) (s2.paOf root (src.toNat + 4 * i)) || s2.unreadable (mode != 0) (s2.paOf root (dst.toNat + 4 * i))
        let n := ((List.range (len / 4)).find? bad).getD (len / 4)
        let (s3, ws) := (List.range n).foldl (State.copyElem root dst.toNat src.toNat mode)
          (s2.dirtyPages root ((pagesOf dst (4 * n)).map (·.toNat)), [])
        let s4 := (s3.poisonLines ws).rescanDies
        if n < len / 4 then .fails s4 0x0A else .done s4
/-- A started packet of a queue is no longer under way. -/
def State.dropStarted (s : State) (d : DieId) (n : BitVec 12) (index : Nat) : State :=
  s.modQueue d n fun q => { q with started := q.started.filter (·.index != index) }
/-- The accesses of a started SIGNAL or COPY are performed, and it completes; one that meets an absent page waits for it (R288). -/
def State.performPacket (s : State) (d : DieId) (n : BitVec 12) (c : Qcb) (e : Started) (w : BitVec 512) : State :=
  match (if headerType (entryWord w 0) == 3 then s.performSignal c w else s.performCopy c w) with
  | .fails s1 code => (s1.dropStarted d n e.index).queueError d n code
  | .waits s1 va => s1.modQueue d n fun q => { q with started := q.started.map fun f =>
      if f.index == e.index then { f with access := some (w, va) } else f }
  | .done s1 =>
    let s2 := s1.dropStarted d n e.index
    if e.irq then s2.queueVec c else s2
/-- A SIGNAL or COPY starts: RDIDX passes its entry, and it is performed. -/
def State.startAccess (s : State) (d : DieId) (n : BitVec 12) (k : Packet) : State :=
  let e : Started := ⟨k.index, headerIrq (k.word 0), none, some (k.w, 0)⟩
  ((s.modQueue d n fun q => { q with started := q.started ++ [e] }).passed d n 1).performPacket d n k.c e k.w
/-- SIGNAL (R337). -/
def execSignal (d : DieId) (n : BitVec 12) (s : State) : Out :=
  .next (match s.headPacket d n 3 with
    | (s1, none) => s1
    | (s1, some k) =>
      if !k.zeroFrom 4 || (k.word 3).toNat > 1 then s1.queueError d n 0x01
      else if (k.word 1).toNat % 8 != 0 then s1.queueError d n 0x07
      else s1.startAccess d n k)
/-- COPY (R337). -/
def execCopy (d : DieId) (n : BitVec 12) (s : State) : Out :=
  .next (match s.headPacket d n 4 with
    | (s1, none) => s1
    | (s1, some k) =>
      if !k.zeroFrom 5 || (k.word 4).toNat > 3 then s1.queueError d n 0x01
      else if (k.word 1).toNat % 4 != 0 || (k.word 2).toNat % 4 != 0 || (k.word 3).toNat % 4 != 0 then s1.queueError d n 0x07
      else s1.startAccess d n k)
/-- PACKET_COMPLETE: a LAUNCH completes when its last task has ended, a SIGNAL or COPY when its page is there and it has been
performed. -/
def execPacketComplete (d : DieId) (n : BitVec 12) (index : Nat) (s : State) : Out :=
  .next (match s.queue? d n with
    | none => s
    | some q => match q.started.find? (·.index == index) with
      | none => s
      | some e =>
        match e.launch, e.access, q.copy with
        | some id, _, _ =>
          if s.pkg.launches.any fun l => l.id == id && l.live != 0 then s
          else
            let s1 := (s.dropStarted d n index).modPkg fun k => { k with launches := k.launches.filter (·.id != id) }
            match q.copy with
            | some c => if e.irq then s1.queueVec c else s1
            | none => s1
        | none, some (w, _), some c => s.performPacket d n c e w
        | none, _, _ => s.dropStarted d n index)
/-- MARK: captures the counters of the partition and of the queue's region path; it waits while the mark log is full (R385). -/
def execMark (d : DieId) (n : BitVec 12) (s : State) : Out :=
  .next (match s.headPacket d n 5 with
    | (s1, none) => s1
    | (s1, some k) =>
      let p := (s1.queuePart k.c).getD 0
      if !k.zeroFrom 2 || (k.word 1).toNat ≥ 2 ^ 32 then s1.queueError d n 0x01
      else if s1.marksFull p then s1
      else ((s1.passed d n 1).capture p k.c.vf k.c.region d ((k.word 1).setWidth 32)).completed k)

/-! ## LAUNCH (R338, R339, R349) -/

def Packet.slot (k : Packet) : BitVec 8 := (k.word 1).setWidth 8
def Packet.tasks (k : Packet) : Nat := ((k.word 1).extractLsb' 8 16).toNat + 1
def Packet.gang (k : Packet) : BitVec 2 := (k.word 1).extractLsb' 24 2
def Packet.debug (k : Packet) : Bool := (k.word 1).getLsbD 26
/-- Every reserved field and type rule is met. -/
def Packet.launchOk (k : Packet) : Bool :=
  (k.word 1).toNat / 2 ^ 27 == 0 && (k.word 2).toNat / 2 ^ 57 == 0 && (k.word 2).toNat % 256 == 0 &&
    (k.word 3).toNat / 2 ^ 57 == 0 && (k.word 3).toNat % 65536 == 0 && (k.word 4).toNat / 2 ^ 57 == 0 &&
    (k.word 4).toNat % 64 == 0 && k.zeroFrom 5 && (k.c.pkg || (k.gang != 3 && k.word 4 == 0))
/-- A gang fits its kind and the cores that the partition has in that scope. -/
def State.gangFits (s : State) (p : PartId) (d : DieId) (pkg : Bool) (gang : BitVec 2) (n : Nat) : Bool :=
  let dies := if pkg then allDies else [d]
  match gang.toNat with
  | 0 => true
  | 1 => n ≤ 4 && dies.any fun e => (List.range 12).any fun k =>
      n ≤ ((s.coresOf p e).filter fun c => dieLocal c / 4 == k).length
  | 2 => n ≤ 48 && dies.any fun e => n ≤ (s.coresOf p e).length
  | _ => n ≤ 192 && n ≤ ((allDies.map fun e => (s.coresOf p e).length).foldl (· + ·) 0)
def State.loadedSlot (s : State) (p : PartId) (n : BitVec 8) : Option ObjSlot :=
  (s.part p).slots.find? fun o => o.num == n && o.st == .loaded
/-- The checks of a LAUNCH, in their order; the first that fails gives its code. -/
def State.launchCheck (s : State) (d : DieId) (k : Packet) : Except (BitVec 8) ObjSlot :=
  let p := (s.queuePart k.c).getD 0
  let rcb : Addr := addr57 (k.word 2)
  if !k.launchOk then .error 0x01
  else match s.loadedSlot p k.slot with
    | none => .error 0x03
    | some o =>
      if !rcbValid (s.rcb rcb) || s.rootOf rcb != s.rootOf k.c.region then .error 0x04
      else if (k.word 3).toNat + k.tasks * o.scrsz > 2 ^ 57 then .error 0x07
      else if !s.gangFits p d k.c.pkg k.gang k.tasks then .error 0x08
      else .ok o
/-- A region has reached its energy budget: the queue's vector is sent once, and the partition's functions hear of it. -/
def State.tellBudget (s : State) (l : Launch) : State :=
  if (s.pkg.region l.rcb).told then s
  else
    let s1 := s.modPkg fun k => k.modRegion l.rcb fun r => { r with told := true }
    let s2 := match (s1.queue? l.die l.queue).bind (·.copy) with
      | some c => s1.queueVec c
      | none => s1
    s2.serviceEvent l.part
/-- The launch goes to the dispatchers when the budgets of its region allow it. -/
def State.openLaunch (s : State) (id : Nat) : State :=
  match s.pkg.launches.find? (·.id == id) with
  | none => s
  | some l =>
    if l.open_ then s
    else if s.energySpent l.rcb then s.tellBudget l
    else if s.coreSpent l.rcb then s
    else s.modPkg fun k => { k with launches := k.launches.map fun l => if l.id == id then { l with open_ := true } else l }
/-- LAUNCH: the packet is checked, and its launch waits for its budgets (R339, R349). -/
def execLaunch (d : DieId) (n : BitVec 12) (s : State) : Out :=
  .next (match (s.queue? d n).bind (·.opening) with
    | some id => s.openLaunch id
    | none => match s.headPacket d n 1 with
      | (s1, none) => s1
      | (s1, some k) => match s1.launchCheck d k with
        | .error e => s1.queueError d n e
        | .ok _ =>
          let id := s1.pkg.nextLaunch
          let l : Launch := { id := id, die := d, queue := n, index := k.index, lser := k.q.lser, slot := k.slot, rcb := addr57 (k.word 2)
                              scratch := addr57 (k.word 3), pmap := addr57 (k.word 4), dbg := k.debug, gang := k.gang
                              args := Vector.ofFn fun i => entryWord k.args i.val, vf := k.c.vf, part := (s1.queuePart k.c).getD 0
                              irq := headerIrq (k.word 0), open_ := false, todo := List.range k.tasks, live := k.tasks }
          let s2 := s1.modPkg fun p => { p with launches := p.launches ++ [l], nextLaunch := id + 1 }
          (s2.modQueue d n fun q => { q with opening := some id, lser := q.lser + 1 }).openLaunch id)

end Sys2Proof.Machine
end

