-- ==== Sys2Proof/Machine/Placement.lean ====
section
/-! DEFINITION. Placing tasks (R343, R344), budgets (R349), fault domains (R350, R371), gang ticks (R352, R353, R416) and messages
(R391). -/
namespace Sys2Proof.Machine

/-! ## Die of a task (R344) -/

/-- Units of a placement record that lie on a die: four ranges of base and length in units of 64 KiB. -/
def State.unitsOn (s : State) (root : Addr) (rec : Nat) (d : DieId) : Nat :=
  ([0, 1, 2, 3].map fun i =>
    let base := field rec (64 * i + 16) 41
    ((List.range (field rec (64 * i) 16)).filter fun u => match walk s.mem root ((base + u) * frameBytes) with
      | .page _ _ _ pa => dieOfPa pa == d
      | _ => false).length).foldl (· + ·) 0
/-- The placement record of task `t`; an unreadable one counts as empty. -/
def State.record (s : State) (root : Addr) (l : Launch) (t : Nat) : Nat :=
  match walk s.mem root (l.pmap.toNat + 32 * t) with
  | .page _ pte _ pa => if permitted pte needRd then s.mem.read pa 32 else 0
  | _ => 0
/-- Die of a set of tasks of a launch: most resident units; ties and none go to the queue's die. -/
def State.targetDie (s : State) (l : Launch) (ts : List Nat) : DieId :=
  if l.pmap = 0 then l.die
  else match (s.queue? l.die l.queue).bind (·.copy) with
    | none => l.die
    | some c =>
      let root := s.queueRoot c
      let n (d : DieId) : Nat := (ts.map fun t => s.unitsOn root (s.record root l t) d).foldl (· + ·) 0
      let most := (allDies.map n).foldl max 0
      match allDies.filter fun d => n d == most with
      | [d] => if most = 0 then l.die else d
      | _ => l.die

/-! ## Placing (R340, R343) -/

/-- Places a list of tasks on candidates, at most one on each core. -/
def State.pickMany (s : State) (d : DieId) (cand : List CoreId) : List Nat → Option (State × List (Nat × CoreId))
  | [] => some (s, [])
  | t :: r => match s.pick d cand with
    | none => none
    | some (s1, c) => (s1.pickMany d (cand.filter (· != c)) r).map fun (q : State × List (Nat × CoreId)) => (q.1, (t, c) :: q.2)
/-- A package gang: members in order on the dies from die `d` on, as many on each as it has free cores. -/
def State.pickDies (s : State) (p : PartId) (ts : List Nat) : List DieId → Option (State × List (Nat × CoreId))
  | [] => if ts.isEmpty then some (s, []) else none
  | d :: r =>
    let cand := s.openCores p d
    match s.pickMany d cand (ts.take cand.length) with
    | none => none
    | some (s1, l) => (s1.pickDies p (ts.drop cand.length) r).map fun (q : State × List (Nat × CoreId)) => (q.1, l ++ q.2)
/-- Where a launch's next task, or its whole gang, goes from the dispatcher of die `d`; none while it does not fit. -/
def State.choose (s : State) (d : DieId) (l : Launch) : Option (State × List (Nat × CoreId)) :=
  let cand := s.openCores l.part d
  let n := l.todo.length
  match l.gang.toNat with
  | 0 => s.pickMany d cand (l.todo.take 1)
  | 1 =>
    let p := (s.die d).pointer / 4
    ((List.range 12).map fun k => cand.filter fun c => dieLocal c / 4 == (p + k) % 12).findSome? fun cl =>
      if n ≤ cl.length then s.pickMany d cl l.todo else none
  | 2 => if n ≤ cand.length then s.pickMany d cand l.todo else none
  | _ => s.pickDies l.part l.todo ([0, 1, 2, 3].map fun (i : Fin 4) => d + i)
/-- The tasks that the dispatcher of a die places next of a launch. -/
def Launch.set (l : Launch) : List Nat := if l.gang = 0 then l.todo.take 1 else l.todo
/-- Its last task is placed: the LAUNCH has started (R337). -/
def State.launchStarted (s : State) (l : Launch) : State :=
  match s.queue? l.die l.queue with
  | none => s
  | some _ =>
    (s.modQueue l.die l.queue fun q => { q with opening := none, started := q.started ++ [⟨l.index, l.irq, some l.id, none⟩] }).passed
      l.die l.queue 2
/-- Creates the placed tasks. -/
def State.createAll (s : State) (l : Launch) (o : ObjSlot) (at_ : List (Nat × CoreId)) : State :=
  let s1 := at_.foldl (fun s q => match s.freeCtx q.2 with
    | some x => s.createTask q.2 x l o q.1
    | none => s) s
  let left := l.todo.filter fun t => !(at_.any (·.1 == t))
  let s2 := s1.modPkg fun k => { k with launches := k.launches.map fun m => if m.id == l.id then { m with todo := left } else m }
  if left.isEmpty then s2.launchStarted l else s2
/-- Places the next task or gang of a launch, when there is room for it. -/
def State.placeLaunch (s : State) (d : DieId) (l : Launch) : Option State :=
  match (s.part l.part).slots.find? (·.num == l.slot), s.choose d l with
  | some o, some (s1, at_) => some (s1.createAll l o at_)
  | _, _ => none
/-- Launches in the order in which a die places them: higher priority first, then the older (R349). -/
def State.insertLaunch (s : State) (l : Launch) : List Launch → List Launch
  | [] => [l]
  | m :: r => if s.effPrio m.rcb < s.effPrio l.rcb then l :: m :: r else m :: s.insertLaunch l r
def State.waitingLaunches (s : State) (d : DieId) : List Launch :=
  (s.pkg.launches.filter fun l => l.open_ && !l.todo.isEmpty && !s.coreSpent l.rcb && s.targetDie l l.set == d &&
    !allDies.any (s.unsaved l.part)).foldl (fun r l => s.insertLaunch l r) []
/-- The first launch that can be placed; one that finds no room holds back the later ones of its partition. -/
def State.placeFirst (s : State) (d : DieId) (full : List PartId) : List Launch → Option State
  | [] => none
  | l :: r =>
    if full.contains l.part then s.placeFirst d full r
    else match s.placeLaunch d l with
      | some s1 => some s1
      | none => s.placeFirst d (l.part :: full) r
/-- The placed tasks of a die whose copying can go on. -/
def State.copiesReady (s : State) (d : DieId) : List (CoreId × Ctx) :=
  ((coresOfDie d).flatMap fun c => [(c, Ctx.t0), (c, .t1)]).filter fun q => s.copyReady q.1 q.2
/-- TASK_PLACEMENT (R343); the copying of the tasks placed before goes on first (R340). -/
def execTaskPlacement (d : DieId) (s : State) : Out :=
  let s1 := (s.copiesReady d).foldl (fun s q => s.finishCopy q.1 q.2) s
  .next ((s1.placeFirst d [] (s1.waitingLaunches d)).getD s1)
/-- CORE_TIME_WINDOW_END: the core-time budget of a node is renewed (R349). -/
def execCoreTimeWindowEnd (region : Addr) (s : State) : Out :=
  .next (s.modPkg fun k => k.modRegion region fun r => { r with core := 0 })
/-- VOLTAGE_DROOP: counted for 1 ms (R343). -/
def execVoltageDroop (c : CoreId) (s : State) : Out :=
  let now := (s.die (dieOf c)).time
  .next (s.modCore c fun k => { k with droops := now :: k.droops.filter fun t => now.toNat < t.toNat + 1000000 })

/-! ## Fault domains (R350, R371) -/

/-- A task is ended without save: a command past its commit point takes effect first. -/
def State.endTask (s : State) (c : CoreId) (x : Ctx) : State :=
  (if (s.ctx c x).mx.any (·.phase == .committed) then s.completeMatrix c x else s).dropTask c x
def taskContexts : List (CoreId × Ctx) := allCores.flatMap fun c => [(c, .t0), (c, .t1)]
/-- The tasks of a partition that a test picks. -/
def State.tasksOf (s : State) (p : PartId) (f : Context → Bool) : List (CoreId × Ctx) :=
  taskContexts.filter fun q => (s.ctx q.1 q.2).busy && (s.ctx q.1 q.2).part == p && f (s.ctx q.1 q.2)
/-- The three contexts of a core whose firmware has faulted are reset when no task is left on it, and its segments are loaded again. -/
def State.resetFirmware (s : State) (c : CoreId) : State :=
  let k := s.core c
  if !k.fwHalted || (k.ctx .t0).busy || (k.ctx .t1).busy then s
  else s.modCore c fun k =>
    let fw := k.ctx .fw
    let fresh := { Context.reset .running with root := fw.root, region := fw.region, part := fw.part, vf := fw.vf }
    ({ k with ctxs := ⟨(k.ctx .t0).emptied, (k.ctx .t1).emptied, fresh⟩, serving := ⟨none, none, none, none⟩, trapQueue := []
              fwHalted := false, save := none, later := none } : CoreSt).loadFirmware s.pkg.firmware
/-- The domain stops: its tasks end, its saved ones too, its queues stop with 0x06, vector 0 is sent (R350). -/
def State.stopDomain (s : State) (p : PartId) (fdom : BitVec 16) : State :=
  let s1 := (s.tasksOf p fun k => k.fdom == fdom).foldl (fun s q => s.endTask q.1 q.2) s
  let s3 := s1.dropImages fun k => k.part == p && k.fdom == fdom
  let s4 := allDies.foldl (fun s d => ((s.die d).queues.filter fun q => match q.copy with
      | some c => s.queuePart c == some p && s.effFdom c.region == fdom
      | none => false).foldl (fun s q => s.queueError d q.num 0x06) s) s3
  (allCores.filter fun c => (s4.core c).fwHalted).foldl (fun s c => s.resetFirmware c) (s4.serviceEvent p)
/-- A task that stands in a trap, or on a core whose firmware has faulted: firmware may end it as a failure. -/
def State.failing (s : State) (c : CoreId) (x : Ctx) : Bool :=
  (s.core c).fwHalted || Strand.all.any fun p => (s.strand c x p).life == .trapped
/-- Firmware ends failing tasks of a domain; with TRIAGE = 1 they are held stopped for the host instead (R350, R371). -/
def State.failDomain (s : State) (p : PartId) (fdom : BitVec 16) : State :=
  let held := (s.tasksOf p fun k => k.fdom == fdom && !k.triage).filter fun q => s.failing q.1 q.2
  if (s.part p).split.getLsbD 3 && !held.isEmpty then
    held.foldl (fun s q => s.modCtx q.1 q.2 fun k => { k with triage := true }) s
  else s.stopDomain p fdom
/-- FAULT_DOMAIN_STOP. -/
def execFaultDomainStop (p : PartId) (fdom : BitVec 16) (s : State) : Out := .next (s.failDomain p fdom)
/-- The domains of the tasks on a core, each once. -/
def State.domainsOn (s : State) (c : CoreId) : List (PartId × BitVec 16) :=
  (([Ctx.t0, .t1].filter fun x => (s.ctx c x).busy).map fun x => ((s.ctx c x).part, (s.ctx c x).fdom)).eraseDups
/-- A fault of the firmware of a core, once it has halted (R114, R350): every task on the core is a failure of its domain, and the core is
reset. -/
def State.firmwareFault (s : State) (c : CoreId) : State :=
  if (s.core c).fwHalted then
    ((s.domainsOn c).foldl (fun s q => s.failDomain q.1 q.2) (s.logIt (.coreFault c))).resetFirmware c
  else s

/-! ## The handlers of the resident firmware (R351) -/

/-- The FEBUDGET handler: a budget of the region's FEB and return, always or once for a task, or the task fails. -/
def State.budgetHandler (s : State) (c : CoreId) (p : Strand) (x : Ctx) (q : Strand) : State :=
  let k := s.ctx c x
  if k.terms.febPol = 1 || (k.terms.febPol = 2 && !k.refilled) then
    ((s.modCtx c x fun k => { k with refilled := true }).modStrand c x q fun t => { t with feb := k.terms.feb }).returnFrom c p
  else s.failDomain k.part k.fdom
/-- The EXITQ handler: the vector of the task's queue is sent with the discard count, and the strand ends. -/
def State.exitHandler (s : State) (c : CoreId) (p : Strand) (x : Ctx) (q : Strand) : State :=
  let k := s.ctx c x
  let s1 := s.logIt (.discarded c k.task.word (s.strand c x q).eval)
  (match (s.queue? ⟨k.task.die.toNat, k.task.die.isLt⟩ k.task.queue).bind (·.copy) with
    | some b => s1.queueVec b
    | none => s1).returnFrom c p
/-- The firmware has no image in this model: its context has no memory map, so its handlers act whole (log 75). -/
def State.noImage (s : State) (c : CoreId) : Bool := (s.ctx c .fw).root == 0
/-- TRIAGE_RELEASE: the host ends a task that is held, as a failure of its domain, or lets it go on (R371). -/
def execTriageRelease (p : PartId) (task : Word) (finish : Bool) (s : State) : Out :=
  .next (match s.tasksOf p fun k => k.triage && k.task.word == task with
    | [] => s
    | q :: _ =>
      let s1 := s.modCtx q.1 q.2 fun k => { k with triage := false }
      if finish then s1.stopDomain p (s.ctx q.1 q.2).fdom else s1)

/-! ## Gang ticks (R352, R353, R416) -/

/-- A task of a gang: its priority, its die, its core when it is on one or was saved there, whether it is on it. -/
structure Member where
  prio : Nat
  die : DieId
  core : Option CoreId
  on : Bool
/-- A gang that may have cores: number, kind, effective priority, turn (ticks since it last had them, 0 for never), tasks. -/
structure GangCand where
  id : Nat
  kind : BitVec 2
  prio : Nat
  turn : Nat
  tasks : List Member
def turnOf (ran : List Nat) (id : Nat) (on : Bool) : Nat :=
  match ran.findIdx? (· == id) with
  | some i => i + 1
  | none => if on then ran.length + 1 else 0
/-- The gangs of a partition: on cores, saved, and in launches that wait to be placed. -/
def State.gangs (s : State) (p : PartId) : List GangCand :=
  let ran := (s.part p).ran
  let on := (s.tasksOf p fun _ => true).map fun q =>
    let k := s.ctx q.1 q.2
    (k.gangId, k.gang, (⟨k.terms.prio.toNat, dieOf q.1, some q.1, true⟩ : Member))
  let off := (s.pkg.saved.filter (·.k.part == p)).map fun g =>
    (g.k.gangId, g.k.gang, (⟨g.k.terms.prio.toNat, dieOf g.core, some g.core, false⟩ : Member))
  let new := (s.pkg.launches.filter fun l => l.part == p && l.open_).flatMap fun l =>
    l.todo.map fun t => (gangNumber l t, l.gang, (⟨s.effPrio l.rcb, s.targetDie l (if l.gang = 0 then [t] else l.todo), none, false⟩ : Member))
  let all := on ++ off ++ new
  (all.map (·.1)).eraseDups.map fun id =>
    let mine := all.filter (·.1 == id)
    let (kind, prio) := match mine with
      | m :: _ => (m.2.1, m.2.2.prio)
      | [] => (0, 0)
    ⟨id, kind, prio, turnOf ran id (mine.any (·.2.2.on)), mine.map (·.2.2)⟩
/-- Higher priority first, then the gang whose turn is longest ago. -/
def GangCand.before (a b : GangCand) : Bool := b.prio < a.prio || (a.prio == b.prio && a.turn < b.turn)
def insertGang (g : GangCand) : List GangCand → List GangCand
  | [] => [g]
  | h :: r => if g.before h then g :: h :: r else h :: insertGang g r
/-- A core with the number of its task contexts that are left. -/
abbrev Room := List (CoreId × Nat)
def takeCore (r : Room) (c : CoreId) : Room := r.map fun q => if q.1 == c then (q.1, q.2 - 1) else q
/-- Room for tasks on cores that satisfy a test, a core of its own for each: their own core where that has a context left, else the
first that has. -/
def fitTasks (may : Member → CoreId → Bool) (used : List CoreId) (r : Room) : List Member → Option Room
  | [] => some r
  | m :: rest =>
    let free := r.filter fun q => q.2 != 0 && !used.contains q.1 && may m q.1
    match (match m.core with
      | some c => if free.any (·.1 == c) then some c else if m.on then none else (free.head?).map (·.1)
      | none => (free.head?).map (·.1)) with
    | none => none
    | some c => fitTasks may (c :: used) (takeCore r c) rest
/-- Room for a gang: a core for each of its tasks on their die; the new tasks of a cluster gang in one cluster, those of a package gang
on any die (R343, R352). -/
def GangCand.fit (g : GangCand) (r : Room) : Option Room :=
  let at_ (m : Member) (c : CoreId) : Bool := dieOf c == m.die
  if g.kind == 1 && g.tasks.all (·.core.isNone) then
    (List.range 12).findSome? fun n => fitTasks (fun m c => at_ m c && dieLocal c / 4 == n) [] r g.tasks
  else if g.kind == 3 && g.tasks.all (·.core.isNone) then fitTasks (fun _ _ => true) [] r g.tasks
  else fitTasks at_ [] r g.tasks
/-- Takes gangs in order while there is room for the whole of them. -/
def takeGangs (r : Room) : List GangCand → List GangCand
  | [] => []
  | g :: rest => match g.fit r with
    | some r1 => g :: takeGangs r1 rest
    | none => takeGangs r rest
/-- The gangs that have cores after the tick. -/
def State.chosen (s : State) (p : PartId) : List GangCand :=
  takeGangs ((allDies.flatMap (s.coresOf p)).map fun c => (c, 2)) ((s.gangs p).foldl (fun r g => insertGang g r) [])
/-- Cycles that the service gives an epilogue: R353 ends it at its limit. -/
def saveCycles : Nat := 2 ^ 32 - 1
/-- An outgoing task is saved: with PMODE = 0 and an active level its outermost level is clamped and its epilogue runs; else it
stops hard. -/
def State.saveOut (s : State) (c : CoreId) (x : Ctx) : State :=
  let k := s.ctx c x
  let outer := k.activeLevels.getLast?
  match outer with
  | some n =>
    if k.terms.hard then s.startSave c ⟨x, 0, 0, true, none, 0⟩
    else (s.modCtx c x (·.clampTo (BitVec.ofNat 3 n.val) 0)).startSave c ⟨x, 0, saveCycles, true, none, 0⟩
  | none => s.startSave c ⟨x, 0, 0, true, none, 0⟩
/-- A core is already saving this context. -/
def CoreSt.saving (k : CoreSt) (x : Ctx) : Bool :=
  (k.save.map (·.ctx)) == some x || (k.later.map (·.ctx)) == some x
/-- Fabric time stands at a multiple of the partition's TICK, within the microsecond in which it counts (R416); a partition without a root
has no ticks. -/
def State.tickDue (s : State) (p : PartId) : Bool := s.tickPeriod p != 0 && s.pkg.fabricTime.toNat % s.tickPeriod p < 1000
/-- GANG_TICK, where fabric time is a multiple of TICK: the incoming gangs are picked and the outgoing tasks are saved; a tick that finds
the last switch unfinished changes nothing. -/
def execGangTick (p : PartId) (s : State) : Out :=
  .next (if !s.tickDue p then s else
    let s := if s.pkg.locked then s else (s.modPkg fun k => { k with freeTicks := k.freeTicks + 1 }).logIt (.freeTick p)
    if allDies.any (s.unsaved p) then s
    else
      let sel := s.chosen p
      let ids := sel.map (·.id)
      let out := s.tasksOf p fun k => !ids.contains k.gangId
      let come := (s.pkg.saved.filter fun g => g.k.part == p && ids.contains g.k.gangId).map (·.k.gangId)
      let s1 := s.modPart p fun t => { t with ran := t.ran.filter (fun n => !ids.contains n) ++ ids, tick := (s.die 0).time }
      let s2 := s1.modPkg fun k => { k with incoming := (k.incoming ++ come).eraseDups }
      let s3 := out.foldl (fun s q => if (s.core q.1).saving q.2 then s else s.saveOut q.1 q.2) s2
      if allDies.any (s3.unsaved p) then s3 else s3.loadIncoming p)
/-- Nanoseconds of die time since the last tick of a partition. -/
def State.sinceTick (s : State) (p : PartId) : Nat := (s.die 0).time.toNat - (s.part p).tick.toNat
/-- The miss of a die at the last tick of a partition has been recorded. -/
def State.missed (s : State) (p : PartId) (d : DieId) : Bool := s.pkg.log.any fun e => match e with
  | .tickMiss q e t _ => q == p && e == d && t == (s.part p).tick
  | _ => false
/-- TICK_MISS: a die that has not saved 250 µs after a partition's tick has missed (R353). -/
def execTickMiss (d : DieId) (s : State) : Out :=
  .next (allParts.foldl (fun s p =>
    if s.unsaved p d && 250000 ≤ s.sinceTick p && !s.missed p d then
      (s.modPart p fun t => { t with misses := t.misses + 1 }).logIt (.tickMiss p d (s.part p).tick none)
    else s) s)
/-- EPILOGUE_LIMIT: every epilogue that a tick started 300 µs ago ends in a hard stop (R353). -/
def execEpilogueLimit (s : State) : Out :=
  .next (allCores.foldl (fun s c =>
    let k := s.core c
    let tick : Bool := match k.save with
      | some sv => sv.service && sv.move.isNone && 300000 ≤ s.sinceTick (s.ctx c sv.ctx).part
      | none => false
    if !tick then s
    else
      let s1 := s.modCore c fun k => { k with later := k.later.map fun sv => { sv with left := 0 } }
      let s2 := s1.endEpilogue c
      if (s2.core c).save.isSome && !(s.core c).later.isNone then s2.endEpilogue c else s2) s)

/-! ## Messages (R391) -/

/-- A plain write of bytes at a virtual address whose pages are resident; waiters are scanned. -/
def State.plainWrite (s : State) (root : Addr) (va : Nat) (bs : List Byte) : State :=
  let ws := (bs.zip (List.range bs.length)).map fun (q : Byte × Nat) =>
    let a := s.paOf root (va + q.2)
    (Place.dev a, ({ seg := none, addr := a, bytes := 1, val := q.1.toNat, bit := 0, width := 0, poison := false } : ElemWrite))
  (s.writeElems ws).rescanDies
/-- Every page of a range may be written or read; the walker's marks go into the state. -/
def State.mayAccess (s : State) (root : Addr) (n : Need) : List Word → Option State
  | [] => some s
  | a :: r => match s.translate root a n with
    | .ok _ m => { s with mem := m }.mayAccess root n r
    | _ => none
def listWord (l : List Byte) (i n : Nat) : Nat := ofBytes ((l.drop i).take n)
def bytesOf (n v : Nat) : List Byte := (List.range n).map fun i => BitVec.ofNat 8 (v / 256 ^ i)
/-- Die of an entry's queue; a number that no die has stands for a die without it. -/
def Service.home (e : Service) : DieId := ⟨e.die.toNat % 4, Nat.mod_lt _ (by decide)⟩
/-- Queue of an entry. -/
def State.serviceQueue (s : State) (e : Service) : Option Queue := if e.die.toNat < 4 then s.queue? e.home e.queue else none
/-- The two entries of the LAUNCH that Sorrel writes for a message. -/
def sorrelEntries (e : Service) (index scratch buf len arrival : Nat) (src : BitVec 32) : Nat × Nat :=
  (pack [(8, 1), (24, 0), (32, index % 2 ^ 32), (8, e.slot.toNat), (18, 0), (1, e.dbg.toNat), (37, 0), (64, e.rcb.toNat), (64, scratch)],
   pack [(64, buf), (64, len), (64, e.args[0].toNat), (64, e.args[1].toNat), (64, e.args[2].toNat), (64, e.args[3].toNat),
     (64, arrival), (64, src.toNat)])
/-- Takes a record of the entry's ring: buffer, scratch base, and the head after it; none when the ring is empty. -/
def State.bufRecord (s : State) (root : Addr) (e : Service) : Option (State × Nat × Nat) :=
  let ring := e.bufring
  match s.translate root ring needRW with
  | .ok pa m =>
    let s := { s with mem := m }
    let head := s.mem.read pa 8
    let tail := s.mem.read (pa + 8) 8
    if head == tail then none
    else
      let r := ring.toNat + 16 + 16 * head
      match s.mayAccess root needRd [BitVec.ofNat 64 r] with
      | none => none
      | some s1 =>
        let a := s1.paOf root r
        some ({ s1 with mem := s1.mem.write pa 8 (head + 1) }, s1.mem.read a 8, s1.mem.read (a + 8) 8)
  | _ => none
/-- The message as a launch: record, payload, ring entries with the header last, doorbell; none when it is declined. -/
def State.receive (s : State) (e : Service) (src : BitVec 32) (payload : List Byte) : Option State :=
  match s.serviceQueue e with
  | none => none
  | some q => match q.copy with
    | none => none
    | some c =>
      let root := s.queueRoot c
      let i := q.count.toNat
      if !q.v || payload.length > e.maxlen.toNat || i + 2 > q.rd + c.entries then none
      else match s.bufRecord root e with
        | none => none
        | some (s1, buf, scratch) =>
          let rest := payload.drop 16
          match s1.mayAccess root needWr (pagesOf (BitVec.ofNat 64 buf) rest.length ++ [c.entryAddr i, c.entryAddr (i + 1)]) with
          | none => none
          | some s2 =>
            let (e0, e1) := sorrelEntries e i scratch buf payload.length s2.pkg.arrivals src
            let s3 := s2.plainWrite root buf rest
            let s4 := s3.plainWrite root (c.entryAddr (i + 1)).toNat (bytesOf 64 e1)
            let s5 := s4.plainWrite root (c.entryAddr i).toNat (bytesOf 64 e0)
            some ((s5.modPkg fun k => { k with arrivals := k.arrivals + 1 }).ring e.home e.queue (BitVec.ofNat 64 (i + 2)))
/-- SEND_MESSAGE: a message that matches a service entry becomes a one-task LAUNCH or is declined; one without a match goes to
the service or the host (R391). -/
def execSendMessage (port : BitVec 3) (src : BitVec 32) (payload : List Byte) (s : State) : Out :=
  .next (
    let svc := listWord payload 0 4
    let toHost := s.parts.any fun p => p.made && p.split.getLsbD 2
    match s.pkg.services.find? fun e => e.v && e.svc.toNat == svc && e.ports.getLsbD port.toNat && 16 ≤ payload.length with
    | none => s.logIt (.unmatched port toHost)
    | some e =>
      let p := ((s.serviceQueue e).bind (·.copy)).bind s.queuePart
      let ingress : Bool := match p with
        | some p => (s.part p).split.getLsbD 2
        | none => false
      if ingress then s.logIt (.unmatched port true)
      else match s.receive e src payload with
        | some s1 => s1
        | none => s.logIt (.declined port))

end Sys2Proof.Machine
end

