-- ==== Sys2Proof/Machine/Shake.lean ====
section
/-! DEFINITION. SHAKE256 (FIPS 202), which R387 names for the digest of a record; the function itself is PRESUMED, log 15. -/
namespace Sys2Proof.Machine

/-- Rotation of each lane, by x + 5 y. -/
def keccakRot : List Nat :=
  [0, 1, 62, 28, 27, 36, 44, 6, 55, 20, 3, 10, 43, 25, 39, 41, 45, 15, 21, 8, 18, 2, 61, 56, 14]
/-- Round constants. -/
def keccakRc : List Word :=
  [0x0000000000000001, 0x0000000000008082, 0x800000000000808A, 0x8000000080008000, 0x000000000000808B, 0x0000000080000001,
   0x8000000080008081, 0x8000000000008009, 0x000000000000008A, 0x0000000000000088, 0x0000000080008009, 0x000000008000000A,
   0x000000008000808B, 0x800000000000008B, 0x8000000000008089, 0x8000000000008003, 0x8000000000008002, 0x8000000000000080,
   0x000000000000800A, 0x800000008000000A, 0x8000000080008081, 0x8000000000008080, 0x0000000080000001, 0x8000000080008008]
/-- The 25 lanes, lane (x, y) at x + 5 y. -/
abbrev Lanes := List Word
def Lanes.at (l : Lanes) (x y : Nat) : Word := l.getD (x % 5 + 5 * (y % 5)) 0
/-- The lane at which each place comes out. -/
def lanesOf (f : Nat → Nat → Word) : Lanes := (List.range 25).map fun i => f (i % 5) (i / 5)
/-- One round of Keccak-f[1600]: θ, ρ and π, χ, ι. -/
def keccakRound (a : Lanes) (rc : Word) : Lanes :=
  let c := (List.range 5).map fun x => (List.range 5).foldl (fun v y => v ^^^ a.at x y) 0
  let d := (List.range 5).map fun x => c.getD ((x + 4) % 5) 0 ^^^ (c.getD ((x + 1) % 5) 0).rotateLeft 1
  let t := lanesOf fun x y => (a.at x y ^^^ d.getD x 0).rotateLeft (keccakRot.getD (x + 5 * y) 0)
  let b := lanesOf fun x y => t.at (x + 3 * y) x
  let r := lanesOf fun x y => b.at x y ^^^ (~~~(b.at (x + 1) y) &&& b.at (x + 2) y)
  match r with
  | v :: l => (v ^^^ rc) :: l
  | [] => []
def keccak (a : Lanes) : Lanes := keccakRc.foldl keccakRound a
/-- Bytes in a block of SHAKE256. -/
def shakeRate : Nat := 136
/-- A block joins the lanes. -/
def absorb (a : Lanes) (block : List Byte) : Lanes :=
  lanesOf fun x y => a.at x y ^^^ (((block.drop (8 * (x + 5 * y))).take 8).foldr (fun b (v : Word) => v <<< 8 ||| b.setWidth 64) 0)
/-- The message in whole blocks: its bytes, the suffix 1111 and the padding 10*1. -/
def shakeBlocks (m : List Byte) : List (List Byte) :=
  let n := m.length / shakeRate + 1
  let p := n * shakeRate - m.length
  let pad : List Byte := if p = 1 then [0x9F] else 0x1F :: (List.replicate (p - 2) 0 ++ [0x80])
  (List.range n).map fun i => ((m ++ pad).drop (i * shakeRate)).take shakeRate
/-- SHAKE256 of a message, taken to 64 bytes, the first in bits 7:0. -/
def shake256 (m : List Byte) : BitVec 512 :=
  let a := (shakeBlocks m).foldl (fun a b => keccak (absorb a b)) (List.replicate 25 (0 : Word))
  ((a.take 8).foldr (fun v (n : BitVec 512) => n <<< 64 ||| v.setWidth 512) 0)

end Sys2Proof.Machine
end

