-- ==== Sys2Proof/Machine/Energy.lean ====
section
/-! DEFINITION. Heat, bandwidth and energy: tokens (R366, R367), sensors and the thermal window (R375-R379), the measured periods
(R380-R384), records and checkpoints (R385-R389). -/
namespace Sys2Proof.Machine

/-! ## Bandwidth (R366) -/

def refillTokens : Nat := 57344
def sumBy {α : Type} (l : List α) (f : α → Nat) : Nat := (l.map f).foldl (· + ·) 0
/-- BWSHARE and BWCAP of a partition's root. -/
def State.shareOf (s : State) (p : PartId) : Nat := field (s.rcb (s.part p).root) 395 11
def State.capOf (s : State) (p : PartId) : Nat := field (s.rcb (s.part p).root) 406 11
/-- The guaranteed tokens of a partition. -/
def State.baseOf (s : State) (p : PartId) : Nat := refillTokens * s.shareOf p / 1024
/-- The tokens of a partition at a refill with these active partitions. With no guaranteed token among them its part of the spare
ones is not stated: a free value (log 24). -/
def State.grant (s : State) (active : List PartId) (p : PartId) : Nat :=
  let room := refillTokens * s.capOf p / 1024 - s.baseOf p
  let sum := sumBy active s.baseOf
  s.baseOf p + min room (if sum = 0 then Config.freeGrant s.draws p.toNat else (refillTokens - sum) * s.baseOf p / sum)
/-- Partitions of a die that spent a token in the period just ended. -/
def State.spenders (s : State) (d : DieId) : List PartId := allParts.filter fun p => (s.coresOf p d).any fun c => (s.core c).drew
/-- BANDWIDTH_REFILL: each core of an active partition gets its share, the lowest-numbered the remainder; the rest lapse. Active are the
partitions that spent a token and those of which, as the event says, a request waits. -/
def execBandwidthRefill (d : DieId) (waiting : List PartId) (s : State) : Out :=
  .next (
    let act := ((s.spenders d ++ waiting).eraseDups).filter fun p => !(s.coresOf p d).isEmpty
    let s0 := (coresOfDie d).foldl (fun s c => s.modCore c fun k => { k with tokens := 0, drew := false }) s
    let s1 := act.foldl (fun t p =>
      let cs := s.coresOf p d
      let g := s.grant act p
      (cs.zip (List.range cs.length)).foldl (fun t (q : CoreId × Nat) => t.modCore q.1 fun k =>
        { k with tokens := g / cs.length + (if q.2 < g % cs.length then 1 else 0) }) t) s0
    if sumBy act s.baseOf = 0 then { s1 with draws := s1.draws + 1 } else s1)

/-! ## Sensors and the thermal window (R375-R379) -/

/-- Functions of a core's partition hear of a thermal event (R368). -/
def State.thermalEvent (s : State) (c : CoreId) : State :=
  match s.pkg.coreOwner[c.val] with
  | some p => s.serviceEvent p
  | none => s
/-- JUNCTION_SENSOR: above 102 °C the core stops until the sensor reads 100 °C. -/
def execJunctionSensor (c : CoreId) (temp : BitVec 16) (s : State) : Out :=
  .next (
    let k := s.core c
    let hot := if temp.toInt > 102 * 64 then true else if temp.toInt ≤ 100 * 64 then false else k.hot
    let s1 := s.modCore c fun k => { k with temp := temp, hot := hot }
    if hot != k.hot || warm temp != warm k.temp then s1.thermalEvent c else s1)
/-- A task of a gang of one whose region lets it be pre-empted by epilogue: it may be moved (R376). -/
def State.movable (s : State) (c : CoreId) (x : Ctx) : Bool :=
  (s.ctx c x).busy && (s.ctx c x).gang == 0 && !(s.ctx c x).terms.hard
/-- Ecore of a position. -/
def heatEcore (h : HeatInput) (p : Nat) : Nat := match p with
  | 0 => h.ecore.K
  | 1 => h.ecore.L
  | 2 => h.ecore.X
  | _ => h.ecore.S
/-- Cycles of 100 µs. -/
def moveCycles : Nat := 175000
/-- The task of a spent core is moved to a core that is not spent; MOVE_TIMEOUT finds one that has not left. -/
def State.moveTask (s : State) (c : CoreId) (x : Ctx) : State :=
  let p := (s.ctx c x).part
  let d := dieOf c
  let s1 := s.modCore c fun k => { k with moving := true }
  if (s.core c).saving x then s
  else match s1.pick d ((s1.openCores p d).filter fun e => e != c && !(s1.core e).tar.spent) with
    | none => s1
    | some (s2, e) =>
      let s3 := match ((s2.ctx c x).activeLevels).getLast? with
        | some n => s2.modCtx c x (·.clampTo (BitVec.ofNat 3 n.val) 0)
        | none => s2
      s3.startSave c ⟨x, 0, moveCycles, true, some e, 0⟩
/-- Adds to the core-time of a node, in core cycles. -/
def State.addCoreTime (s : State) (a : Addr) (v : Int) : State :=
  if a = 0 then s else s.modPkg fun k => k.modRegion a fun r => { r with core := r.core + v }
/-- Charges an amount of energy in units of 2^-16 nJ to counter n of a partition and of the nodes of a region path, the root of
the partition among them (R381, R384). -/
def State.charge' (s : State) (p : PartId) (n : Fin 12) (v : Int) (region : Addr) : State :=
  let add (k : Counters) : Counters := k.set n.val (k[n.val] + v)
  let s1 := s.modPart p fun t => { t with counters := add t.counters }
  let nodes := (((if region = 0 then [] else s.path region) ++ [(s.part p).root]).eraseDups).filter (· != 0)
  s1.modPkg fun k => nodes.foldl (fun k a => k.modRegion a fun r => { r with counters := add r.counters, energy := r.energy + v }) k
/-- Takes what heaters have paid for from the owner of a position, the house where it has none: refresh and stall energy, core-time. -/
def State.heatCredit (s : State) (owner : Option PartId) (vx vs t : Nat) : State :=
  match owner with
  | some o => ((s.charge' o 5 (-(vx : Int)) 0).charge' o 1 (-(vs : Int)) 0).addCoreTime (s.part o).root (-(t : Int))
  | none => s.modPkg fun k => { k with house := k.house - (vx : Int) - (vs : Int) }
/-- One owner's share of the heat charge of a position, `x` of its `dn` parts for refresh, each a `den`-th of a unit (R379). Where
no core of the cluster has used energy the split of a charge is not stated: a free value (log 24). -/
def State.heatShare (s : State) (h : HeatInput) (x dn den stalls : Nat) (owner : Option PartId) : State :=
  let ps : List (Fin 4) := [0, 1, 2, 3]
  let w (p : Fin 4) : Nat := coupling h.cluster p.val h.pos.toNat * heatEcore h p.val
  let sum := sumBy ps w
  let s1 := ps.foldl (fun s p =>
    let part := s.pkg.coreOwner[(coreAt h.cluster p).val]
    if part == owner then s
    else
      let v := if dn = 0 then 0 else if sum = 0 then (Config.freeHeat s.draws p.val).1 else dn * w p / (den * sum)
      let vx := v * x / dn
      let t := if stalls = 0 then 0 else if sum = 0 then (Config.freeHeat s.draws p.val).2 else stalls * w p / sum
      let s1 := s.heatCredit owner vx (v - vx) t
      match part with
      | some q => (s1.charge' q 11 (v : Int) 0).addCoreTime (s.part q).root (t : Int)
      | none => s1.modPkg fun k => { k with house := k.house + v }) s
  if sum = 0 then { s1 with draws := s1.draws + 1 } else s1
/-- The owner of a quarter. -/
def Quarter.holder (q : Quarter) : Option PartId := if q.valid then some q.owner else none
/-- The heat charge of a position of a HOT cluster: split between the halves when their owners differ, the house among them (R363). -/
def State.heatCharge (s : State) (h : HeatInput) : State :=
  let q := (s.cluster h.cluster).pos[h.pos.toNat]
  let x := h.refresh * 875000
  let dn := x + h.stalls * heatEcore h h.pos.toNat
  if !(s.cluster h.cluster).hot then s
  else if q.half0.holder == q.half1.holder then s.heatShare h x dn 1750000 h.stalls q.half0.holder
  else [q.half0.holder, q.half1.holder].foldl (fun s o => s.heatShare h x dn 3500000 (h.stalls / 2) o) s
/-- THERMAL_WINDOW_END: the tasks of spent cores that may be moved are moved; SPENT and USED start again; heat charges are
split (R376, R378, R379). -/
def execThermalWindowEnd (heat : List HeatInput) (s : State) : Out :=
  .next (
    let s1 := allCores.foldl (fun s c =>
      if !(s.core c).tar.spent then s
      else [Ctx.t0, .t1].foldl (fun s x => if s.movable c x then s.moveTask c x else s) s) s
    let s2 := allCores.foldl (fun s c => s.modCore c fun k =>
      { k with tar := { k.tar with spent := false, used := 0 }, energy := 0, throttled := false }) s1
    let s3 := heat.foldl (fun s h => s.heatCharge h) s2
    (List.finRange 48).foldl (fun s k => s.setHeaters k) s3)
/-- MOVE_TIMEOUT: a task that has not left its spent core within 100 µs: the core is throttled until the window ends (R376). -/
def execMoveTimeout (c : CoreId) (s : State) : Out :=
  .next (if (s.core c).moving then s.modCore c fun k => { k with throttled := true, moving := k.save.isSome } else s)

/-! ## The measured periods (R380-R384) -/

/-- A charge of a domain: partition, none for the house; counter, amount, region. -/
structure Charge where
  part : Option PartId
  n : Fin 12
  amt : Nat
  region : Addr
/-- The charge of an operation: of a packet's, to the partition of its queue's region (R2). -/
def State.chargeOf (s : State) (q : Requester) (n : Fin 12) (amt : Nat) : Charge :=
  match q with
  | .task p a => ⟨some p, n, amt, a⟩
  | .queue d i => match (s.queue? d i).bind (·.copy) with
    | some c => ⟨s.queuePart c, n, amt, c.region⟩
    | none => ⟨none, n, amt, 0⟩
  | .house => ⟨none, n, amt, 0⟩
/-- Charges of one domain: by coefficients, scaled to what was measured when they exceed it, and shares of what is left, each a
number of parts of a whole (R382). -/
def domainCharges (measured : Nat) (coef : List Charge) (shares : List Charge) (whole : Nat) : List Charge :=
  let sum := sumBy coef (·.amt)
  if measured < sum then coef.map fun q => { q with amt := q.amt * measured / sum }
  else coef ++ shares.map fun q => { q with amt := (measured - sum) * q.amt / whole }
def stackFrames : Nat := 946044
/-- Frames that a partition holds in a stack. -/
def State.framesIn (s : State) (p : PartId) (stack : Nat) : Nat :=
  sumBy (s.pkg.frames.filter (·.part == p)) fun r =>
    let lo := max r.first (stack * 2 ^ 20)
    let hi := min (r.first + r.count) ((stack + 1) * 2 ^ 20)
    hi - lo
/-- Quarters that a partition holds on a die. -/
def State.quartersOn (s : State) (p : PartId) (d : DieId) : Nat :=
  sumBy ((List.finRange 48).filter fun k => k.val / 12 == d.val) fun k =>
    sumBy (s.cluster k).pos.toList fun q => (if q.half0.owned p then 1 else 0) + (if q.half1.owned p then 1 else 0)
/-- Lane pairs of the sub-links that a partition owns, of 96 (R400). -/
def State.pairsOwned (s : State) (p : PartId) : Nat :=
  sumBy s.pkg.links.toList fun l => sumBy (List.range 8) fun j =>
    match subWidth l.split j with
    | some w => if bitOf l.owner.toNat (8 * j + 7) && field l.owner.toNat (8 * j) 6 == p.toNat then w else 0
    | none => 0
/-- The region to which a core's energy goes: that of the task it runs. -/
def State.runningRegion (s : State) (c : CoreId) : Addr :=
  let k := s.core c
  if (k.ctx k.active).busy then (k.ctx k.active).region
  else if (k.ctx k.active.sibling).busy then (k.ctx k.active.sibling).region else 0
/-- A saved task of which a segment is on its way home from a core (R148). -/
def State.leavingTask (s : State) (c : CoreId) : Option Image := (s.savedAt c).find? fun i => i.k.segs.any (·.moving == some .pushOut)
/-- The task whose context save a core's energy is in a period: one that is being saved, or has been saved or had a segment pushed out
in it, or of which a segment is on its way home (R148, R382). -/
def State.outgoingTask (s : State) (c : CoreId) : Option (PartId × Addr) :=
  match (s.core c).save, (s.core c).outgoing, s.leavingTask c with
  | some sv, _, _ => some ((s.ctx c sv.ctx).part, (s.ctx c sv.ctx).region)
  | none, some o, _ => some o
  | none, none, l => l.map fun i => (i.k.part, i.k.region)
/-- What a core is charged: a save, and the push-outs that it has left behind, to the outgoing task, a load to the incoming one. -/
def State.coreCharge (s : State) (c : CoreId) (p : PartId) (v : Nat) : Charge :=
  match s.outgoingTask c, (s.core c).restored with
  | some (q, a), _ => ⟨some q, 9, v, a⟩
  | none, some (q, a) => ⟨some q, 10, v, a⟩
  | none, none => ⟨some p, 1, v, s.runningRegion c⟩
/-- What one domain is charged in a period. -/
def State.charges (s : State) (r : DomainReading) : List Charge :=
  match r.dom with
  | .core c => (match s.pkg.coreOwner[c.val] with
    | some p => [s.coreCharge c p r.measured]
    | none => [])
  | .stack n =>
    let rd := r.reads.map fun q => s.chargeOf q.1 2 (q.2 * 589824 / 10)
    let wr := r.writes.map fun q => s.chargeOf q.1 2 (q.2 * 65536)
    domainCharges r.measured (rd ++ wr) (allParts.map fun p => ⟨some p, 3, s.framesIn p n.toNat, 0⟩) stackFrames
  | .weight d =>
    let rd := r.reads.map fun q => s.chargeOf q.1 4 (q.2 * 49152)
    let ref : List Charge := r.refreshes.flatMap fun q =>
      let pos := (s.cluster q.1).pos[q.2.1.toNat]
      [⟨pos.half0.holder, 5, q.2.2 * 131072, 0⟩, ⟨pos.half1.holder, 5, q.2.2 * 131072, 0⟩]
    domainCharges r.measured (rd ++ ref) (allParts.map fun p => ⟨some p, 7, s.quartersOn p d, 0⟩) 96
  | .serdes => domainCharges r.measured (r.reads.map fun q => s.chargeOf q.1 6 (q.2 * 589824 / 10))
      (allParts.map fun p => ⟨some p, 6, s.pairsOwned p, 0⟩) 96
  | .d2d => domainCharges r.measured (r.reads.map fun q => s.chargeOf q.1 6 (q.2 * 98304 / 10)) [] 1
  | .base d => domainCharges r.measured [] (allParts.map fun p => ⟨some p, 7, (s.coresOf p d).length, 0⟩) 48
  | .service _ => domainCharges r.measured [] (r.reads.map fun q => s.chargeOf q.1 8 q.2) 1024
/-- The effective allowance of a core (R375). -/
def Tar.limit (t : Tar) : Nat := if t.heater then t.allow.toNat / 2 else t.allow.toNat
/-- A core's energy is added to USED; at its allowance SPENT is set, and a task that may not be moved is throttled (R375, R376). -/
def State.spend (s : State) (c : CoreId) (v : Nat) : State :=
  let k := s.core c
  let e := k.energy + v
  let used := min 65535 (e / 65536000)
  let spent := k.tar.spent || (k.tar.allow != 0 && k.tar.limit ≤ used)
  let still := [Ctx.t0, .t1].any fun x => (s.ctx c x).busy && !s.movable c x
  s.modCore c fun k => { k with energy := e, tar := { k.tar with used := BitVec.ofNat 16 used, spent := spent }
                                throttled := k.throttled || (spent && still) }
/-- The charges of a domain, and the rest to the house, so that the sum is what was measured (R380). -/
def State.chargeDomain (s : State) (r : DomainReading) : State :=
  let l := s.charges r
  let s1 := l.foldl (fun s q => match q.part with
    | some p => s.charge' p q.n q.amt q.region
    | none => s.modPkg fun k => { k with house := k.house + (q.amt : Int) }) s
  let s2 := s1.modPkg fun k => { k with house := k.house + ((r.measured : Int) - (sumBy l (·.amt) : Nat)) }
  match r.dom with
  | .core c => (s2.modCore c fun k => { k with restored := none, outgoing := none }).spend c r.measured
  | _ => s2
/-- ENERGY_PERIOD: one microsecond of die time: every domain is charged, and cores that run tasks use core-time (R349, R382). -/
def execEnergyPeriod (readings : List DomainReading) (s : State) : Out :=
  .next (
    let s1 := readings.foldl (fun s r => s.chargeDomain r) s
    let s2 := allCores.foldl (fun s c =>
      let a := s.runningRegion c
      if a = 0 then s else (s.path a).foldl (fun s n => s.addCoreTime n 1750) s) s1
    { s2 with dies := s2.dies.map fun d => { d with time := d.time + 1000 }
              pkg := { s2.pkg with fabricTime := s2.pkg.fabricTime + 1000 } })

/-! ## Records and checkpoints (R385-R389) -/

/-- FLAGS of a record. -/
def flagGap : Nat := 1
def flagMark : Nat := 2
def flagWindow : Nat := 4
def flagRequest : Nat := 8
/-- The 256 bytes of a record's body (R386). -/
def recordBody (flags : Nat) (epoch seq : Word) (p : PartId) (markNo : BitVec 32) (t0 t1 : Word) (path : List Addr)
    (ks : Vector Word 12) : BitVec 2048 :=
  BitVec.ofNat 2048 (pack ([(32, 0x4552564C), (16, 1), (16, flags), (64, Config.deviceSerial.toNat), (256, Config.keyId.toNat),
    (64, epoch.toNat), (64, seq.toNat), (8, p.toNat), (8, path.length - 1), (16, 0), (32, markNo.toNat), (64, t0.toNat), (64, t1.toNat)] ++
    (List.range 8).map (fun i => (64, (path.getD i 0).toNat)) ++ ks.toList.map fun v => (64, v.toNat)))
/-- T1 of the last record of a partition and path (R386). -/
def Pkg.last (k : Pkg) (p : PartId) (path : List Addr) : Word :=
  ((k.lasts.find? fun e => e.1 == p && e.2.1 == path).map (·.2.2)).getD 0
/-- Produces a signed record for a region path, root first, and delivers it to the record rings of functions (R387, R388). -/
def State.produce (s : State) (p : PartId) (flags : Nat) (markNo : BitVec 32) (path : List Addr) (ks : Counters) (t1 : Word)
    (fns : List VfId) : State :=
  let k := s.pkg
  let first := k.gap.isSome && !k.gapDone.contains (p, path)
  let t0 := if first then k.gap.getD 0 else k.last p path
  let fl := flags + (if first then flagGap else 0)
  let vals : Vector Word 12 := Vector.ofFn fun i => ks.read i.val
  let r : Record := { flags := BitVec.ofNat 16 fl, epoch := k.epoch, seq := k.seq, part := p, markNo := markNo, t0 := t0, t1 := t1
                      path := path, counters := vals
                      sig := Config.freeSignature k.seq.toNat (shake256 (bytesOf 256 (recordBody fl k.epoch k.seq p markNo t0 t1 path vals).toNat)) }
  s.modPkg fun k => { k with
    records := k.records ++ [r], rings := k.rings ++ fns.map fun v => (v, r), seq := k.seq + 1
    lasts := k.lasts.filter (fun e => !(e.1 == p && e.2.1 == path)) ++ [(p, path, t1)]
    gapDone := if first then (p, path) :: k.gapDone else k.gapDone }
/-- ACCOUNTING_WINDOW_END: a record of every partition; the energy budgets start again (R384, R387). -/
def execAccountingWindowEnd (s : State) : Out :=
  .next (
    let s1 := (allParts.filter fun p => (s.part p).made).foldl (fun s p =>
      (s.produce p flagWindow 0 [(s.part p).root] (s.part p).counters (s.die 0).time (s.pkg.fnsOf p)).serviceEvent p) s
    s1.modPkg fun k => { k with regions := k.regions.map fun r => { r with energy := 0, told := false } })
/-- MARK_RECORD: the oldest mark of a partition becomes a record, announced on vector 0 of its function (R387). -/
def execMarkRecord (p : PartId) (s : State) : Out :=
  .next (match (s.part p).marks with
    | [] => s
    | m :: r =>
      let ks := match m.path.getLast? with
        | some (_, ks) => ks
        | none => m.counters
      ((s.modPart p fun t => { t with marks := r }).produce p flagMark m.number (m.path.map (·.1)) ks m.time [m.vf]).sendVec (.vf m.vf) 0)
/-- Writes a sealed checkpoint, the newest (R389). -/
def State.checkpoint (s : State) (final : Bool) : State :=
  let k := s.pkg
  let f : Checkpoint := ⟨s.parts.map (·.counters), k.regions, k.house, k.seq, k.epoch, (s.die 0).time, k.lasts, final⟩
  s.modPkg fun k => { k with flash := f :: k.flash }
def execCheckpoint (s : State) : Out := .next (s.checkpoint false)
/-- MODULE_INPUT_FAILURE: the final checkpoint, on the hold-up energy; then the service serves no request (R389). -/
def execModuleInputFailure (s : State) : Out := .next ((s.checkpoint true).modPkg fun k => { k with running := false })

end Sys2Proof.Machine
end

