-- ==== Sys2Proof/Machine/Boot.lean ====
section
/-! DEFINITION. Resets of a function (R369, R418), of the package (R370, R388-R390), recovery of control blocks (R333), and host
accesses through BAR2 and plain registers (R400, R419). -/
namespace Sys2Proof.Machine

/-! ## Function reset (R369) -/

/-- A queue stops without an error: it starts nothing more, and its read index stays. -/
def State.stopQueue (s : State) (d : DieId) (n : BitVec 12) : State :=
  let s1 := match (s.queue? d n).bind (·.opening) with
    | some id => s.closeLaunch id
    | none => s
  (s1.unslot d n).modQueue d n fun q =>
    { q with opening := none, held := none, started := [], copy := q.copy.map fun c => { c with state := 0 } }
/-- The keys of every quarter of a partition rotate (R260). -/
def State.rotateKeys (s : State) (p : PartId) : State :=
  let f (q : Quarter) : Quarter := if q.owned p then q.newKey else q
  { s with clusters := s.clusters.map fun k => { k with pos := k.pos.map fun q => { q with half0 := f q.half0, half1 := f q.half1 } } }
def Mail.reset : Mail := ⟨Store.empty, 0, none, 0, 0, 0, []⟩
def State.mail (s : State) (f : Func) : Mail := ((s.pkg.mail.find? (·.1 == f)).map (·.2)).getD Mail.reset
def State.setMail (s : State) (f : Func) (m : Mail) : State :=
  s.modPkg fun k => { k with mail := k.mail.filter (·.1 != f) ++ [(f, m)] }
/-- The registers of a function read as after a reset: WINBASE, the mailbox but for its request area, the MSI-X table and its pending
bits. -/
def State.resetRegisters (s : State) (v : VfId) : State :=
  (s.modPkg fun k => { k with
    winbase := k.winbase.filter (·.1 != v), vectors := k.vectors.filter (·.1 != .vf v)
    pending := k.pending.filter (·.1 != .vf v) }).setMail (.vf v) { Mail.reset with area := (s.mail (.vf v)).area }
/-- The reset of a virtual function. -/
def State.resetFunction (s0 : State) (v : VfId) : State :=
  let s := s0.resetRegisters v
  let s1 := allDies.foldl (fun s d => ((s.die d).queues.filter fun q => match q.copy with
      | some c => c.vf == v
      | none => (qcbOf (s.mem.read q.qcb.toNat qcbBytes)).vf == v).foldl (fun s q => s.stopQueue d q.num) s) s
  let s2 := (taskContexts.filter fun q => (s1.ctx q.1 q.2).busy && (s1.ctx q.1 q.2).vf == v).foldl (fun s q => s.endTask q.1 q.2) s1
  let s4 := s2.dropImages fun k => k.vf == v
  match s4.partOfVf v with
  | none => s4
  | some p =>
    let s5 := s4.modPart p fun t => { t with bindings := t.bindings.filter (·.vf != v), inen := false }
    ((s5.pkg.frames.filter (·.part == p)).foldl (fun s r => s.unscrubRange r.first r.count) s5).rotateKeys p
/-- FUNCTION_LEVEL_RESET (R418). -/
def execFunctionLevelReset (v : VfId) (s : State) : Out := .next (s.resetFunction v)

/-! ## Recovery (R333) -/

/-- The journal line of a queue: an update that it holds is completed and the queue's reload doorbell rung; then its V is
cleared. -/
def State.recoverQueue (s : State) (d : DieId) (q : Queue) : State :=
  let a := q.qcb.toNat
  let j := (qcbOf (s.mem.read a qcbBytes)).jrnl.toNat
  let w (i : Nat) : Nat := s.mem.read (j + 8 * i) 8
  let s1 := if bitOf (w 0) 0 then
      let seq := w 7
      let odd := (seq + 2 ^ 64 - 1) % 2 ^ 64
      let s1 := (s.cpWrite a 8 odd).cpWrite (a + 56) 8 odd
      let s2 := ([1, 2, 3, 4, 5, 6] : List Nat).foldl (fun s i => s.cpWrite (a + 8 * i) 8 (w i)) s1
      ((s2.cpWrite (a + 56) 8 seq).cpWrite a 8 seq).adopt d q.num
    else s
  s1.cpWrite j 8 0
def State.recover (s : State) : State :=
  allDies.foldl (fun s d => ((s.die d).queues.filter (·.v)).foldl (fun s q => s.recoverQueue d q) s) s
/-- SERVICE_WATCHDOG_EXPIRY: the service core runs its recovery code. -/
def execServiceWatchdogExpiry (_svc : BitVec 4) (s : State) : Out := .next s.recover

/-! ## Package resets (R370, R388-R390) -/

/-- After a boot a quarter holds no line written since its new key, and KEYEP is 0 (R260). -/
def Quarter.boot (q : Quarter) : Quarter := { Quarter.reset with key := q.key + 1 }
def Cluster.boot (k : Cluster) : Cluster :=
  { Cluster.reset with pos := k.pos.map fun p => { Position.reset with half0 := p.half0.boot, half1 := p.half1.boot } }
/-- What no reset of the package touches: what the host has received, host memory, and the order of free values. -/
def State.booted (s : State) : State :=
  { State.reset with
    clusters := s.clusters.map (·.boot), draws := s.draws, hbm := { HbmSt.reset with host := s.hbm.host }
    pkg := { Pkg.reset with msix := s.pkg.msix, log := s.pkg.log, records := s.pkg.records, rings := s.pkg.rings, flash := s.pkg.flash, bar2 := s.pkg.bar2 } }
/-- The firmware image that runs brings its segments to every core. -/
def State.startFirmware (s : State) (l : List FwSeg) : State :=
  { s with cores := s.cores.map fun k => k.loadFirmware l, pkg := { s.pkg with firmware := l } }
/-- The newest checkpoint whose seal verifies, by what the checks of the seals give, and those older than it. -/
def newestSealed : List Checkpoint → List Bool → Option (Checkpoint × List Checkpoint)
  | [], _ => none
  | f :: r, [] => some (f, r)
  | f :: r, b :: bs => if b then some (f, r) else newestSealed r bs
/-- COLD_BOOT: the image is verified and started; counters, SEQ and EPOCH come from the newest checkpoint whose seal verifies, and
control blocks are recovered. A failure leaves the package in recovery. -/
def execColdBoot (boot : BootInput) (s : State) : Out :=
  .next (
    let b0 := s.booted
    let b := if boot.verified then b0.startFirmware (fwSegs boot.firmware) else b0
    if !boot.verified then b.modPkg fun k => { k with running := false }
    else match newestSealed s.pkg.flash boot.seals with
      | none => (b.modPkg fun k => { k with epoch := 1, gap := some 0 }).recover
      | some (f, older) =>
        let regs := f.regions.map fun r => { r with core := 0, energy := 0, told := false }
        let f1 : Checkpoint := { f with final := false }
        let b1 := { b with parts := Vector.ofFn fun i => { Partition.reset with counters := f.counters[i.val] } }
        (b1.modPkg fun k => { k with
          house := f.house, regions := regs, lasts := f.lasts, seq := f.seq, epoch := f.epoch + 1, flash := f1 :: older
          gap := if f.final then none else some f.time }).recover)
/-- WARM_RESET: every domain but the always-on one is reset, and EPOCH increments; die time and the error counts, which only a
cold boot clears, go on (R362, R370, R374). -/
def execWarmReset (s : State) : Out :=
  .next (
    let k := s.pkg
    let b := s.booted.startFirmware k.firmware
    { b with
      cores := b.cores.zipWith (fun a c => { a with freezeCount := c.freezeCount }) s.cores
      hbm := { b.hbm with corrected := s.hbm.corrected }
      parts := s.parts.map fun t => { Partition.reset with counters := t.counters, misses := t.misses }
      dies := s.dies.map fun d => { Die.reset with time := d.time }
      pkg := { b.pkg with
        running := k.running, house := k.house, regions := k.regions, seq := k.seq, epoch := k.epoch + 1, gap := k.gap
        lasts := k.lasts, gapDone := k.gapDone, freeTicks := k.freeTicks, fabricTime := k.fabricTime
        subs := b.pkg.subs.zipWith (fun a c => { a with fails := c.fails }) k.subs
        pairs := b.pkg.pairs.zipWith (fun a c => { a with fails := c.fails }) k.pairs } })

/-! ## The host's window and plain registers (R400, R419) -/

def State.winBase (s : State) (v : VfId) : Addr := match s.pkg.winbase.find? (·.1 == v) with
  | some (_, a) => a
  | none => 0
/-- Root of the translation of a function's BAR2: that of its partition's root region. -/
def State.bar2Root (s : State) (v : VfId) : Option Addr :=
  (s.partOfVf v).bind fun p => if (s.part p).root = 0 then none else some (s.effRoot (s.part p).root)
/-- BAR2_READ: a plain read without page-fault service; all ones and an AER entry when the translation fails or a line is
poisoned or unreadable. -/
def execBar2Read (v : VfId) (off : BitVec 36) (bytes : Nat) (s : State) : Out :=
  .next (
    let va := (s.winBase v).toNat + off.toNat
    let fail : State := (s.modPkg fun k => { k with bar2 := List.replicate bytes 0xFF }).logIt (.unsupported v)
    match s.bar2Root v with
    | none => fail
    | some root => match s.mayAccess root needRd (pagesOf (BitVec.ofNat 64 va) bytes) with
      | none => fail
      | some s1 =>
        let pas := (List.range bytes).map fun i => s1.paOf root (va + i)
        if pas.any fun a => s1.mem.poisoned a || s1.hbm.badPoison a 1 then fail
        else
          let s2 := pas.foldl (fun s a => { s with hbm := s.hbm.touch a 1 false }) s1
          s2.modPkg fun k => { k with bar2 := pas.map s1.mem.byte })
/-- BAR2_WRITE: a plain write without page-fault service; dropped with an AER entry when the translation fails. -/
def execBar2Write (v : VfId) (off : BitVec 36) (data : List Byte) (s : State) : Out :=
  .next (
    let va := (s.winBase v).toNat + off.toNat
    match s.bar2Root v with
    | none => s.logIt (.unsupported v)
    | some root => match s.mayAccess root needWr (pagesOf (BitVec.ofNat 64 va) data.length) with
      | none => s.logIt (.unsupported v)
      | some s1 => s1.plainWrite root va data)
/-- A function reaches more than its mailbox: the physical function, and one that is bound to a partition (R365). -/
def State.reaches (s : State) : Func → Bool
  | .pf => true
  | .vf v => (s.partOfVf v).isSome
/-- Half of an MSI-X table entry is written; an entry that is not masked has no pending vector (log 84). -/
def Pkg.setVector (k : Pkg) (f : Func) (v : BitVec 11) (high : Bool) (val : Word) : Pkg :=
  let e := k.vector f v
  let e' := if high then val ++ e.setWidth 64 else (e.extractLsb' 64 64) ++ val
  { k with vectors := k.vectors.filter (fun q => !(q.1 == f && q.2.1 == v)) ++ [(f, v, e')]
           pending := if e'.getLsbD 96 then k.pending else k.pending.filter (· != (f, v)) }
/-- REGISTER_WRITE: WINBASE takes bits 56:36; the request area and the MSI-X table take all; doorbells and REQDB have events of their
own; the FAILED bits of a link's status are cleared by ones (R14). -/
def execRegisterWrite (r : PlainReg) (val : Word) (s : State) : Out :=
  .next (match r with
    | .bar0 fn off => match fn, bar0At fn off.toNat with
      | fn, .request o =>
        let m := s.mail fn
        s.setMail fn { m with area := m.area.write o 8 val.toNat }
      | .vf v, .winbase =>
        let a : Addr := (val.extractLsb' 36 21).setWidth 57 <<< 36
        if !s.reaches (.vf v) then s
        else s.modPkg fun k => { k with winbase := (k.winbase.filter (·.1 != v)) ++ (if a = 0 then [] else [(v, a)]) }
      | fn, .vector n high => if s.reaches fn then s.modPkg (·.setVector fn n high val) else s
      | _, _ => s
    | .linkStatus l => s.modLink l fun k => { k with failed := k.failed &&& ~~~(val.extractLsb' 24 8) })

end Sys2Proof.Machine
end

