-- ==== Sys2Proof/Machine/CoreEvents.lean ====
section
/-! DEFINITION. The events of a core (R103, R105, R111, R112, R134-R136, R157, R158, R161) and of the waiting accesses (R310-R317):
landing, interlocked results, traps, context switches, freezes, errors, completions, wakes and charges. -/
namespace Sys2Proof.Machine

/-! ## Results (R103, R105) -/

/-- RESULT_LANDING: the oldest result of the strand that is at its cycle is written. -/
def execResultLanding (c : CoreId) (x : Ctx) (p : Strand) (s : State) : Out := 
  .next (s.unlessFrozen c ((s.landNext c x p).rescanLanded c x (s.strand c x p).landDue.toList))
/-- The oldest interlocked result that is ready is written, and its register is free again. -/
def StrandSt.takeResult (t : StrandSt) : StrandSt :=
  match t.pend.find? (·.val.isSome) with
  | none => t
  | some q => match q.val with
    | none => t
    | some v => { t.write q.d v with pend := t.pend.erase q }
/-- INTERLOCKED_RESULT. A save that has come to its end answers firmware K first (R355). -/
def execInterlockedResult (c : CoreId) (x : Ctx) (p : Strand) (s : State) : Out :=
  .next (s.unlessFrozen c ((if x == .fw && p == .K then s.trySave c else s).modStrand c x p (·.takeResult)))

/-! ## Traps (R111, R112) -/

/-- The strand stands at a bundle boundary: it issues or stalls, and no bubble of its pipeline is left. -/
def StrandSt.atBoundary (t : StrandSt) : Bool :=
  t.bubble == 0 && (match t.life with
    | .running => true
    | .waiting (.join _) => false
    | .waiting _ => true
    | _ => false)
/-- A strand that stops together with strand `p` waits in a join: the address of the next bundle is open until the rendezvous (R99). -/
def Context.inJoin (k : Context) (p : Strand) : Bool := (k.stopGroup p).any fun q => match (k.strand q).life with
  | .waiting (.join _) => true
  | _ => false
/-- COMPLETION_FAULT: the oldest fault that is due is taken before the bundle at the boundary issues (R112). -/
def execCompletionFault (c : CoreId) (x : Ctx) (p : Strand) (s : State) : Out :=
  .next (s.unlessFrozen c (
    let t := s.strand c x p
    match t.atBoundary && !(s.ctx c x).inJoin p, t.due with
    | true, f :: rest =>
      (((s.modStrand c x p fun t => { t with due := rest }).modCore c fun k =>
        k.takeTrap x p f.cause f.slot true (s.lenAt c x p t.pc) t.pc f.eval).unparkTrapped c x).firmwareFault c
    | _, _ => s))
/-- FIRMWARE_TRAP_ENTRY: the idle firmware strand of a letter takes the oldest trap that waits for it (R111). Where the firmware's words
are not in the model, what the spec says that its handlers of FEBUDGET and EXITQ do is done at once (R351). -/
def execFirmwareTrapEntry (c : CoreId) (p : Strand) (s : State) : Out :=
  .next (s.unlessFrozen c (match (s.core c).serving.get p, (s.core c).trapQueue.find? (·.2 == p) with
    | none, some (x, q) =>
      if (s.core c).fwHalted then s
      else
        let t := s.strand c x q
        let s1 := (s.modCore c fun k => { k with serving := k.serving.set p (some (x, q)), trapQueue := k.trapQueue.erase (x, q) }).modStrand c .fw p
          fun u => { u with code := t.code, slot := t.slot, late := t.late, len := t.len, epc := t.epc, eval := t.eval
                            pc := s.pkg.trapEntry, joined := false, life := .running, bubble := 0, delayed := false }
        if s.noImage c && t.code == Cause.febudget.code then s1.budgetHandler c p x q
        else if s.noImage c && t.code == Cause.exitq.code then s1.exitHandler c p x q
        else s1
    | _, _ => s))

/-! ## Sharing the core (R118, R134-R136) -/

/-- The core stalls in every second cycle (R376, R377). -/
def CoreSt.slow (k : CoreSt) : Bool := k.throttled || warm k.temp

/-- Cycles of a core in which no bundle issues: every loaded context counts them (R95, R157). -/
def Context.count (k : Context) (n : Nat) : Context :=
  { k with cycle := k.cycle + BitVec.ofNat 64 n, febDue := k.febDue || k.cycle.toNat / 1024 != (k.cycle.toNat + n) / 1024 }
def CoreSt.count (k : CoreSt) (n : Nat) : CoreSt :=
  { k with ctxs := ⟨if k.ctxs.t0.busy then k.ctxs.t0.count n else k.ctxs.t0, if k.ctxs.t1.busy then k.ctxs.t1.count n else k.ctxs.t1,
             k.ctxs.fw.count n⟩
           now := k.now + n }
/-- CONTEXT_SWITCH: 8 cycles, when the active context waits or has ended and its sibling can go on. A sibling that has yielded
comes back then, and a yield to a sibling that waits by now ends (R118, R136). -/
def execContextSwitch (c : CoreId) (s : State) : Out :=
  .next (s.unlessFrozen c (
    let k := s.core c
    let a := k.active
    if (k.ctx a).runnable then s
    else
      let s1 := s.modCtx c a.sibling fun m => { m with yielding := false }
      if (s1.ctx c a.sibling).runnable then s1.modCore c fun k => { k.count 8 with active := a.sibling }
      else s.modCtx c a fun m => { m with yielding := false }))
/-- FIRMWARE_CREDIT: one credit more, at most four. -/
def execFirmwareCredit (c : CoreId) (s : State) : Out :=
  .next (s.modCore c fun k => { k with fwCredit := if k.fwCredit.toNat < 4 then k.fwCredit + 1 else 4 })

/-! ## Errors (R157, R158, R245, R253) -/

/-- CORRECTABLE_ERROR: the value is corrected; the core stands still for 24 cycles from the next one. An error detected in a freeze
extends it to 24 cycles after that detection, so by 1 to 24 cycles; in which of its cycles that is, is a free value (log 74). -/
def execCorrectableError (c : CoreId) (s : State) : Out :=
  .next (
    if (s.core c).freeze = 0 then s.modCore c fun k => { k with
      freeze := 24, freezeCount := if k.freezeCount.toNat + 1 < 2 ^ 32 then k.freezeCount + 1 else k.freezeCount }
    else { s.modCore c fun k => { k with freeze := k.freeze + 1 + (Config.freeFreeze s.draws).val } with draws := s.draws + 1 })
/-- FREEZE_END: the cycles have passed; %cycle has counted them. -/
def execFreezeEnd (c : CoreId) (s : State) : Out :=
  .next (s.modCore c fun k => { k.count k.freeze with freeze := 0 })
/-- The register that a landing entry writes. -/
def LandWhat.target : LandWhat → LandDst
  | .reg d _ | .bit d _ _ => .g d
  | .vec d _ _ _ => .v d
  | .fault _ _ d => d
  | _ => .g 0
/-- An ECCUE of no address. -/
def eccFault (p : Strand) : FaultRec := ⟨.eccue, p, BitVec.allOnes 64⟩
def setAt {α : Type} (l : List α) (i : Nat) (f : α → α) : List α := l.mapIdx fun j a => if j = i then f a else a
/-- The granule of a store is dirty in the segment that occupies it (R145). -/
def dirtySegs (acc : Bool) (g : Nat) (l : List Seg) : List Seg := l.map fun s =>
  if s.isAcc == acc && s.base.toNat ≤ g && g ≤ s.base.toNat + s.len.toNat then { s with dirty := markPut s.dirty (g - s.base.toNat) true }
  else s
def CoreSt.dirtyGranule (k : CoreSt) (acc : Bool) (g : Nat) : CoreSt :=
  let f := dirtySegs acc g
  { k with ctxs := ⟨{ k.ctxs.t0 with segs := f k.ctxs.t0.segs }, { k.ctxs.t1 with segs := f k.ctxs.t1.segs }, k.ctxs.fw⟩, fwDir := f k.fwDir }
/-- The same for the segments of saved tasks that stay in the core's frames (R148). -/
def State.dirtyStays (s : State) (c : CoreId) (acc : Bool) (g : Nat) : State :=
  (s.savedAt c).foldl (fun s i => s.modImage i fun j => { j with k := { j.k with segs := dirtySegs acc g j.k.segs } }) s
/-- UNCORRECTABLE_ERROR: poison, UE, or ECCUE at what reads the entry; a cache entry is fetched again, and a translation walked again. -/
def execUncorrectableError (c : CoreId) (site : UeSite) (s : State) : Out :=
  .next (match site with
    | .localLine n => if n < 65536 then
        (s.modCore c fun k => ({ k with lstore := k.lstore.setPoison (64 * n) true } : CoreSt).dirtyGranule false (n / 64)).dirtyStays c false (n / 64)
      else s
    | .accLine n => if n < 16384 then
        (s.modCore c fun k => ({ k with astore := k.astore.setPoison (64 * n) true } : CoreSt).dirtyGranule true (n / 64)).dirtyStays c true (n / 64)
      else s
    | .vreg x v g => s.modCtx c x fun k => { k with
        v := k.v.set v.toNat { k.v[v.toNat] with poison := (k.v[v.toNat]).poison ||| (1#8 <<< g.toNat) } }
    | .cells x n => s.modCtx c x fun k => { k with
        acc := k.acc.set (Strand.ofNum n.toNat) { k.acc.get (Strand.ofNum n.toNat) with ue := true } }
    | .cache => s
    | .tlb i => s.modCore c fun k => { k with tlb := k.tlb.eraseIdx i }
    | .queueEntry x q i =>
      let k := s.ctx c x
      let n := if q = 0 then k.qkl.length else if q = 1 then k.qlx.length else if q = 2 then k.qxs.length else 0
      if i < n then s.modCtx c x fun k => { k with qbad := (q.toNat, i) :: k.qbad.filter (· != (q.toNat, i)) } else s
    | .landing x p i => s.modStrand c x p fun t => { t with
        land := setAt t.land i fun e => { e with sat := false, push := 0, what := .fault (eccFault p) false e.what.target } }
    | .lateFault x p i => s.modStrand c x p fun t => { t with lateq := setAt t.lateq i fun f => ⟨.eccue, f.slot, BitVec.allOnes 64⟩ }
    | .matrixWord x i => match (s.ctx c x).mx[i]? with
      | some q => if q.phase == .committed then s else s.endFault c x q.tag .eccue (BitVec.allOnes 64)
      | none => s)

/-! ## Completions (R161) -/

/-- COMMAND_COMPLETION: what a queue has finished completes; a memory-extended queue goes on as far as it can. A save that
waited for the matrix queue or for a fabric command ends (R355, R415). -/
def execCommandCompletion (c : CoreId) (x : Ctx) (e : Engine) (s : State) : Out :=
  .next (s.unlessFrozen c (match e with
    | .copyL => s.completeCopy c x .L
    | .copyS => s.completeCopy c x .S
    | .matrix => (s.completeMatrix c x).trySave c
    | .fabL => (s.completeFab c x .L).trySave c
    | .fabS => (s.completeFab c x .S).trySave c
    | .meL => s.drainMe c x .L
    | .meS => s.drainMe c x .S))
/-- COMPLETION_STAGE_RESUME: held completions take the steps for which there is room now. -/
def execCompletionStageResume (c : CoreId) (x : Ctx) (e : Engine) (s : State) : Out :=
  .next (s.unlessFrozen c (s.runStage c x e ((s.ctx c x).stages e).length))

/-! ## Waiting accesses (R310-R317, R345) -/

/-- The contexts that have waiters in a list, each once. -/
def waitersOf (l : List Waiter) : List (CoreId × Ctx) := (l.map fun w => (w.core, w.ctx)).eraseDups
/-- WAITER_PERFORMED: the waiters of a Sage or local atomic unit whose condition holds are performed in arrival order; a Sage
looks at the WAIT packets it holds as well. What stood behind them in their queues goes on. -/
def execWaiterPerformed (site : SageSite) (s : State) : Out :=
  .next (match site with
    | .core c => s.unlessFrozen c (
        let who := waitersOf (s.core c).waitList
        who.foldl (fun s q => s.drainCtx q.1 q.2) (s.rescan (.seg c .t0 0 0)))
    | .die d =>
      let who := waitersOf (s.die d).waiters
      let s1 := who.foldl (fun s q => s.unlessFrozen q.1 (s.drainCtx q.1 q.2)) (s.rescan (.dev (d.val * 2 ^ 37)))
      (s1.die d).qwaits.foldl (fun s w => s.tryWait w.die w.queue) s1)

/-- A parked waiter that no older one of its word precedes and whose partition may take an entry (R310, R311). -/
def State.wakeable (s : State) (d : DieId) (w : Waiter) : Bool :=
  s.tableRoom d w.part &&
    !(s.die d).parked.any fun v => v.arrival < w.arrival && shareWord v.place v.bytes w.place w.bytes
/-- The eligible head that arrived first. -/
def State.nextWake (s : State) (d : DieId) : Option Waiter :=
  ((s.die d).parked.filter (s.wakeable d)).foldl (fun (r : Option Waiter) w => match r with
    | none => some w
    | some v => if w.arrival < v.arrival then some w else some v) none
/-- PARK_WAKE: the head of the oldest park list moves into the wait table; its record is free. The wake is charged, but to
bar.wait nothing is (R315). -/
def execParkWake (d : DieId) (s : State) : Out :=
  .next (match s.nextWake d with
    | none => s
    | some w =>
      let moved := s.modDie d fun e => { e with parked := e.parked.erase w, waiters := e.waiters ++ [{ w with record := none }] }
      if w.isBarrier then moved
      else match s.meOf w with
        | none => s.modDie d fun e => { e with parked := e.parked.erase w }
        | some q => match moved.charge w.core w.ctx w.strand with
          | none => s.abandon w.core w.ctx q
          | some s1 => (s1.modCtx w.core w.ctx (·.modMe q.tag.serial fun q => { q with phase := .waiting w.arrival })).rescan w.place)
/-- Charges the waiting access at the head of one queue for a 1,024-cycle boundary; one that found no room is sent again
(R313, R315, R317). -/
def State.chargeHead (s : State) (c : CoreId) (x : Ctx) (p : Strand) : State :=
  match (s.ctx c x).meQueue p with
  | [] => s
  | q :: _ => match q.phase with
    | .waiting _ | .parked _ => (match s.charge c x p with
      | some s1 => s1
      | none => s.abandon c x q)
    | .resend => (match s.charge c x p with
      | none => s.abandon c x q
      | some s1 =>
        let s2 := s1.modCtx c x (·.modMe q.tag.serial fun q => { q with phase := .queued })
        match s2.meAttempt c x { q with phase := .queued } true with
        | .gone s3 => s3.drainMe c x p
        | .stays s3 => s3)
    | _ => s
/-- FEB_BOUNDARY_CHARGE: once for each multiple of 1,024 that %cycle has reached; a bar.wait that found no record may be sent again
(R313). -/
def execFebBoundaryCharge (c : CoreId) (x : Ctx) (s : State) : Out :=
  .next (s.unlessFrozen c (
    if !(s.ctx c x).febDue then s
    else ((s.modCtx c x fun k => { k with febDue := false, strands := k.strands.map fun _ t => { t with
      resend := t.resend.map fun r => (r.1, false) } }).chargeHead c x .L).chargeHead c x .S))

end Sys2Proof.Machine
end

