-- ==== Sys2Proof/Machine/MemExt.lean ====
section
/-! DEFINITION. The memory-extended words (R47, R172-R176, R319-R327): they enter the memory-extended queue of their strand,
which performs them in program order. -/
namespace Sys2Proof.Machine

def meDepth : Nat := 16
/-- The registers of a width: a pair for 16 bytes. -/
def regsFor (w : ME) (r : GReg) : List GReg := if w.width == 4 then [r, r + 1] else [r]
/-- Registers that await the command's results. -/
def pendsFor (serial : Nat) (load : Bool) (l : List GReg) : List Pend :=
  match l.filter (· != 0) with
  | [] => []
  | r :: rest => ⟨r, none, load, false, serial⟩ :: rest.map fun q => ⟨q, none, false, false, serial⟩
/-- The command of a word at the issuing slot, with its registers as they stand. -/
def State.meCmd (s : State) (i : WideWord) (w : ME) : MeCmd :=
  { tag := { s.tag false (w.sq == 1) w.pre 0 0 with ticket := some s.cur.ticket }, word := i, w := w
    name := if w.space == 1 then (resolveHandle s.here s.cur.ctx w.handle).getD 0xFFFF else 0xFFFF
    a := s.rd w.a, data := s.rd w.d, data1 := s.rd (w.d + 1), b := s.rd w.b, b1 := s.rd (w.b + 1), c := s.rd w.c
    c1 := s.rd (w.c + 1), phase := .queued, touched := false }
/-- The command enters its queue; its destinations are reserved until it is performed (R105). -/
def State.enqueueMe (s : State) (q : MeCmd) (load : Bool) (dst : List GReg) : State :=
  (s.modHere fun k =>
    let k := k.enqueued false
    match s.cur.strand with
    | .L => { k with meL := k.meL ++ [q] }
    | _ => { k with meS := k.meS ++ [q] }).modMe fun t => { t with pend := t.pend ++ pendsFor q.tag.serial load dst }
/-- A memory-extended word: it stalls while its queue is full (and ldm on the 17th load), pops its tokens, enters the queue,
and the queue goes as far as it can. -/
def meWord (i : WideWord) (w : ME) (rd dst : List GReg) (load : Bool) (s : State) : State :=
  s.issue (.wide i) rd dst fun s =>
    if (s.here.meQueue s.cur.strand).length ≥ meDepth || (load && s.loadsFull) then s.stall .interlock
    else s.popTokens w.pre.tok fun s =>
      (s.enqueueMe (s.meCmd i w) load dst).drainMe s.cur.core s.cur.ctx s.cur.strand

/-- R174. -/
def execLdm (w : ME) (s : State) : Out := .next (meWord (.ldm w) w ([w.a]) (regsFor w w.d) true s)
/-- R174. -/
def execLdmWait (w : ME) (s : State) : Out := .next (meWord (.ldmWait w) w ([w.a]) (regsFor w w.d) true s)
/-- R174. -/
def execLdmCons (w : ME) (s : State) : Out := .next (meWord (.ldmCons w) w ([w.a]) (regsFor w w.d) true s)
/-- R174. -/
def execStm (w : ME) (s : State) : Out := .next (meWord (.stm w) w (w.a :: regsFor w w.d) ([]) false s)
/-- R174. -/
def execStmFill (w : ME) (s : State) : Out := .next (meWord (.stmFill w) w (w.a :: regsFor w w.d) ([]) false s)
/-- R174. -/
def execStmOvf (w : ME) (s : State) : Out := .next (meWord (.stmOvf w) w (w.a :: regsFor w w.d) ([]) false s)
/-- R174. -/
def execStmSete (w : ME) (s : State) : Out := .next (meWord (.stmSete w) w (w.a :: regsFor w w.d) ([]) false s)
/-- R323. -/
def execFeProbe (w : ME) (s : State) : Out := .next (meWord (.feProbe w) w ([w.a]) ([w.d]) false s)
/-- R324. -/
def execFeSet (w : ME) (s : State) : Out := .next (meWord (.feSet w) w ([w.a]) ([]) false s)
/-- R320. -/
def execAtAdd (w : ME) (s : State) : Out := .next (meWord (.atAdd w) w (w.a :: regsFor w w.b) (regsFor w w.d) false s)
/-- R320. -/
def execAtSub (w : ME) (s : State) : Out := .next (meWord (.atSub w) w (w.a :: regsFor w w.b) (regsFor w w.d) false s)
/-- R320. -/
def execAtAnd (w : ME) (s : State) : Out := .next (meWord (.atAnd w) w (w.a :: regsFor w w.b) (regsFor w w.d) false s)
/-- R320. -/
def execAtOr (w : ME) (s : State) : Out := .next (meWord (.atOr w) w (w.a :: regsFor w w.b) (regsFor w w.d) false s)
/-- R320. -/
def execAtXor (w : ME) (s : State) : Out := .next (meWord (.atXor w) w (w.a :: regsFor w w.b) (regsFor w w.d) false s)
/-- R320. -/
def execAtMin (w : ME) (s : State) : Out := .next (meWord (.atMin w) w (w.a :: regsFor w w.b) (regsFor w w.d) false s)
/-- R320. -/
def execAtMax (w : ME) (s : State) : Out := .next (meWord (.atMax w) w (w.a :: regsFor w w.b) (regsFor w w.d) false s)
/-- R320. -/
def execAtMinn (w : ME) (s : State) : Out := .next (meWord (.atMinn w) w (w.a :: regsFor w w.b) (regsFor w w.d) false s)
/-- R320. -/
def execAtMaxn (w : ME) (s : State) : Out := .next (meWord (.atMaxn w) w (w.a :: regsFor w w.b) (regsFor w w.d) false s)
/-- R320. -/
def execAtXchg (w : ME) (s : State) : Out := .next (meWord (.atXchg w) w (w.a :: regsFor w w.b) (regsFor w w.d) false s)
/-- R320. -/
def execAtCas (w : ME) (s : State) : Out := .next (meWord (.atCas w) w (w.a :: (regsFor w w.b ++ regsFor w w.c)) (regsFor w w.d) false s)
/-- R321. -/
def execAtFadd (w : ME) (s : State) : Out := .next (meWord (.atFadd w) w ([w.a, w.b]) ([w.d]) false s)
/-- R320. -/
def execAtInc (w : ME) (s : State) : Out := .next (meWord (.atInc w) w (w.a :: regsFor w w.b) (regsFor w w.d) false s)
/-- R325. -/
def execAcq (w : ME) (s : State) : Out := .next (meWord (.acq w) w ([w.a, w.b]) ([w.d]) false s)
/-- R326. -/
def execRel (w : ME) (s : State) : Out := .next (meWord (.rel w) w ([w.a]) ([w.d]) false s)
/-- R327. -/
def execSyncBind (w : ME) (s : State) : Out := .next (meWord (.syncBind w) w ([w.a, w.b, w.c]) ([]) false s)
/-- R327. -/
def execSyncUnbind (w : ME) (s : State) : Out := .next (meWord (.syncUnbind w) w ([w.a]) ([]) false s)
/-- R176. -/
def execPrefetch (w : ME) (s : State) : Out := .next (meWord (.prefetch w) w ([w.a]) ([]) false s)

end Sys2Proof.Machine
end

