-- ==== Sys2Proof/Machine/ScalarAlu.lean ====
section
/-! DEFINITION. Scalar words that write one register of their own strand (R119-R124): ALU-register, ALU-unary, immediates
and constants, bit fields, compares into a bit, predicate bits. Latencies are those of R103 and R105. -/
namespace Sys2Proof.Machine

/-- A word that writes a function of two registers to g[d] at an exposed latency. -/
def aluRR (i : ScalarWord) (w : SR) (n : Nat) (f : Word → Word → Word) (s : State) : State :=
  s.issue (.scalar i) [w.a, w.b] [w.d] fun s => s.landReg w.d n (f (s.rd w.a) (s.rd w.b))
/-- Divisions: DIVZ with the dividend when the divisor is 0, else an interlocked result (R105, R119). -/
def aluDiv (i : ScalarWord) (w : SR) (f : Word → Word → Word) (s : State) : State :=
  s.issue (.scalar i) [w.a, w.b] [w.d] fun s =>
    if s.rd w.b = 0 then s.trap .divz (s.rd w.a) else s.answer w.d (f (s.rd w.a) (s.rd w.b)) false
def aluU (i : ScalarWord) (w : SR) (f : Word → Word) (s : State) : State :=
  s.issue (.scalar i) [w.a] [w.d] fun s => s.landReg w.d 1 (f (s.rd w.a))
def aluI (i : ScalarWord) (w : SI) (n : Nat) (f : Word → Word) (s : State) : State :=
  s.issue (.scalar i) [w.a] [w.d] fun s => s.landReg w.d n (f (s.rd w.a))
/-- A compare of two registers into bit g[d].bit (R123). -/
def cmpRR (i : ScalarWord) (w : SC) (f : Word → Word → Bool) (s : State) : State :=
  s.issue (.scalar i) (if w.comb = 1 then [w.a, w.b, w.d] else [w.a, w.b]) [w.d] fun s =>
    s.landBit w.d w.bit (combined w.comb (bitAt (s.rd w.d) w.bit) (f (s.rd w.a) (s.rd w.b)))
/-- A compare of a register with a signed imm6 (R123). -/
def cmpRI (i : ScalarWord) (w : SCI) (f : Word → Word → Bool) (s : State) : State :=
  s.issue (.scalar i) [w.a] [w.d] fun s => s.landBit w.d w.bit (f (s.rd w.a) (imm6s w.imm))

/-! ## ALU-register (R119) -/

def execAdd (w : SR) (s : State) : Out := .next (aluRR (.add w) w 1 (fun a b => a + b) s)
def execSub (w : SR) (s : State) : Out := .next (aluRR (.sub w) w 1 (fun a b => a - b) s)
def execMul (w : SR) (s : State) : Out := .next (aluRR (.mul w) w 3 (fun a b => a * b) s)
def execMulh (w : SR) (s : State) : Out := .next (aluRR (.mulh w) w 3 (fun a b => mulHighS a b) s)
def execMulhn (w : SR) (s : State) : Out := .next (aluRR (.mulhn w) w 3 (fun a b => mulHighU a b) s)
def execDiv (w : SR) (s : State) : Out := .next (aluDiv (.div w) w (fun a b => divS a b) s)
def execDivn (w : SR) (s : State) : Out := .next (aluDiv (.divn w) w (fun a b => a / b) s)
def execRem (w : SR) (s : State) : Out := .next (aluDiv (.rem w) w (fun a b => remS a b) s)
def execRemn (w : SR) (s : State) : Out := .next (aluDiv (.remn w) w (fun a b => a % b) s)
def execAnd (w : SR) (s : State) : Out := .next (aluRR (.and w) w 1 (fun a b => a &&& b) s)
def execOr (w : SR) (s : State) : Out := .next (aluRR (.or w) w 1 (fun a b => a ||| b) s)
def execXor (w : SR) (s : State) : Out := .next (aluRR (.xor w) w 1 (fun a b => a ^^^ b) s)
def execAndn (w : SR) (s : State) : Out := .next (aluRR (.andn w) w 1 (fun a b => a &&& ~~~b) s)
def execOrn (w : SR) (s : State) : Out := .next (aluRR (.orn w) w 1 (fun a b => a ||| ~~~b) s)
def execShl (w : SR) (s : State) : Out := .next (aluRR (.shl w) w 1 (fun a b => a <<< sh6 b) s)
def execShr (w : SR) (s : State) : Out := .next (aluRR (.shr w) w 1 (fun a b => a >>> sh6 b) s)
def execSar (w : SR) (s : State) : Out := .next (aluRR (.sar w) w 1 (fun a b => a.sshiftRight (sh6 b)) s)
def execRol (w : SR) (s : State) : Out := .next (aluRR (.rol w) w 1 (fun a b => a.rotateLeft (sh6 b)) s)
def execRor (w : SR) (s : State) : Out := .next (aluRR (.ror w) w 1 (fun a b => a.rotateRight (sh6 b)) s)
def execMin (w : SR) (s : State) : Out := .next (aluRR (.min w) w 1 (fun a b => minS a b) s)
def execMax (w : SR) (s : State) : Out := .next (aluRR (.max w) w 1 (fun a b => maxS a b) s)
def execMinn (w : SR) (s : State) : Out := .next (aluRR (.minn w) w 1 (fun a b => minU a b) s)
def execMaxn (w : SR) (s : State) : Out := .next (aluRR (.maxn w) w 1 (fun a b => maxU a b) s)
def execAddw (w : SR) (s : State) : Out := .next (aluRR (.addw w) w 1 (fun a b => sxw32 (a + b)) s)
def execSubw (w : SR) (s : State) : Out := .next (aluRR (.subw w) w 1 (fun a b => sxw32 (a - b)) s)
def execMulw (w : SR) (s : State) : Out := .next (aluRR (.mulw w) w 3 (fun a b => sxw32 (a * b)) s)
def execShlw (w : SR) (s : State) : Out := .next (aluRR (.shlw w) w 1 (fun a b => shlw a b) s)
def execShrw (w : SR) (s : State) : Out := .next (aluRR (.shrw w) w 1 (fun a b => shrw a b) s)
def execSarw (w : SR) (s : State) : Out := .next (aluRR (.sarw w) w 1 (fun a b => sarw a b) s)

/-! ## ALU-unary (R120) -/

def execMov (w : SR) (s : State) : Out := .next (aluU (.mov w) w (fun a => a) s)
def execNot (w : SR) (s : State) : Out := .next (aluU (.not w) w (fun a => ~~~a) s)
def execNeg (w : SR) (s : State) : Out := .next (aluU (.neg w) w (fun a => 0 - a) s)
def execAbs (w : SR) (s : State) : Out := .next (aluU (.abs w) w (fun a => absS a) s)
def execClz (w : SR) (s : State) : Out := .next (aluU (.clz w) w (fun a => clz64 a) s)
def execCtz (w : SR) (s : State) : Out := .next (aluU (.ctz w) w (fun a => ctz64 a) s)
def execPopc (w : SR) (s : State) : Out := .next (aluU (.popc w) w (fun a => popc64 a) s)
def execBrev (w : SR) (s : State) : Out := .next (aluU (.brev w) w (fun a => brev64 a) s)
def execBswap (w : SR) (s : State) : Out := .next (aluU (.bswap w) w (fun a => bswap64 a) s)
def execSxb (w : SR) (s : State) : Out := .next (aluU (.sxb w) w (fun a => sx a 8) s)
def execSxh (w : SR) (s : State) : Out := .next (aluU (.sxh w) w (fun a => sx a 16) s)
def execSxw (w : SR) (s : State) : Out := .next (aluU (.sxw w) w (fun a => sx a 32) s)
def execZxb (w : SR) (s : State) : Out := .next (aluU (.zxb w) w (fun a => zx a 8) s)
def execZxh (w : SR) (s : State) : Out := .next (aluU (.zxh w) w (fun a => zx a 16) s)
def execZxw (w : SR) (s : State) : Out := .next (aluU (.zxw w) w (fun a => zx a 32) s)

/-! ## Immediates and constants (R121) -/

def execAddi (w : SI) (s : State) : Out := .next (aluI (.addi w) w 1 (fun a => a + imm12 w.imm) s)
def execAndi (w : SI) (s : State) : Out := .next (aluI (.andi w) w 1 (fun a => a &&& imm12 w.imm) s)
def execOri (w : SI) (s : State) : Out := .next (aluI (.ori w) w 1 (fun a => a ||| imm12 w.imm) s)
def execXori (w : SI) (s : State) : Out := .next (aluI (.xori w) w 1 (fun a => a ^^^ imm12 w.imm) s)
def execShli (w : SI) (s : State) : Out := .next (aluI (.shli w) w 1 (fun a => a <<< immShift w.imm) s)
def execShri (w : SI) (s : State) : Out := .next (aluI (.shri w) w 1 (fun a => a >>> immShift w.imm) s)
def execSari (w : SI) (s : State) : Out := .next (aluI (.sari w) w 1 (fun a => a.sshiftRight (immShift w.imm)) s)
def execMuli (w : SI) (s : State) : Out := .next (aluI (.muli w) w 3 (fun a => a * imm12 w.imm) s)
def execAddwi (w : SI) (s : State) : Out := .next (aluI (.addwi w) w 1 (fun a => sxw32 (a + imm12 w.imm)) s)
def execLui (w : SU) (s : State) : Out :=
  .next (s.issue (.scalar (.lui w)) [] [w.d] fun s => s.landReg w.d 1 (w.imm.signExtend 64))
def execLih (w : SU) (s : State) : Out :=
  .next (s.issue (.scalar (.lih w)) [w.d] [w.d] fun s => s.landReg w.d 1 (lihVal (s.rd w.d) w.imm))
def execPca (w : SU) (s : State) : Out :=
  .next (s.issue (.scalar (.pca w)) [] [w.d] fun s =>
    s.landReg w.d 1 (word57 s.cur.hdr + (w.imm.signExtend 64) * 4))

/-! ## Bit fields (R122) -/

def execBfx (w : SF) (s : State) : Out :=
  .next (s.issue (.scalar (.bfx w)) [w.a] [w.d] fun s =>
    s.landReg w.d 1 (bfxS (s.rd w.a) w.pos.toNat (w.len1.toNat + 1)))
def execBfxn (w : SF) (s : State) : Out :=
  .next (s.issue (.scalar (.bfxn w)) [w.a] [w.d] fun s =>
    s.landReg w.d 1 (bfxU (s.rd w.a) w.pos.toNat (w.len1.toNat + 1)))
def execBfi (w : SF) (s : State) : Out :=
  .next (s.issue (.scalar (.bfi w)) [w.a, w.d] [w.d] fun s =>
    s.landReg w.d 1 (bfins (s.rd w.d) (s.rd w.a) w.pos.toNat (w.len1.toNat + 1)))

/-! ## Compares into a bit (R123) -/

def execCeq (w : SC) (s : State) : Out := .next (cmpRR (.ceq w) w (fun a b => a == b) s)
def execCne (w : SC) (s : State) : Out := .next (cmpRR (.cne w) w (fun a b => a != b) s)
def execClt (w : SC) (s : State) : Out := .next (cmpRR (.clt w) w (fun a b => a.slt b) s)
def execCle (w : SC) (s : State) : Out := .next (cmpRR (.cle w) w (fun a b => a.sle b) s)
def execCltn (w : SC) (s : State) : Out := .next (cmpRR (.cltn w) w (fun a b => a.ult b) s)
def execClen (w : SC) (s : State) : Out := .next (cmpRR (.clen w) w (fun a b => a.ule b) s)
def execCeqi (w : SCI) (s : State) : Out := .next (cmpRI (.ceqi w) w (fun a b => a == b) s)
def execCnei (w : SCI) (s : State) : Out := .next (cmpRI (.cnei w) w (fun a b => a != b) s)
def execClti (w : SCI) (s : State) : Out := .next (cmpRI (.clti w) w (fun a b => a.slt b) s)
def execCgti (w : SCI) (s : State) : Out := .next (cmpRI (.cgti w) w (fun a b => b.slt a) s)

/-! ## Predicate bits (R124) -/

def execBset (w : SCI) (s : State) : Out :=
  .next (s.issue (.scalar (.bset w)) [] [w.d] fun s => s.landBit w.d w.bit true)
def execBclr (w : SCI) (s : State) : Out :=
  .next (s.issue (.scalar (.bclr w)) [] [w.d] fun s => s.landBit w.d w.bit false)
def execBnot (w : SCI) (s : State) : Out :=
  .next (s.issue (.scalar (.bnot w)) [w.d] [w.d] fun s => s.landBit w.d w.bit (!bitAt (s.rd w.d) w.bit))

end Sys2Proof.Machine
end

