-- ==== Sys2Proof/Machine/Stores.lean ====
section
/-! DEFINITION. Scalar stores (R129-R131, R289): their data are seen at once by the accesses that wait at the word's home (R312). -/
namespace Sys2Proof.Machine

/-- stl (R129): every fault is an issue fault; F and poison bits unchanged (R68); waiters look again (R312). -/
def storeLocal (i : ScalarWord) (w : SL) (n : Nat) (s : State) : State :=
  s.issue (.scalar i) [w.a, w.d] [] fun s =>
    if s.myLocalHeld w n then s.stall .interlock
    else match s.myLocal w n with
    | .fault c e => s.trap c e
    | .stalls s1 => s1.stall .segment
    | .ok s1 p => ((s1.taint p n).writePlace p n (s.rd w.d).toNat).rescan p

/-- stg (R130); waiters look again (R312). -/
def storeGlobal (i : ScalarWord) (w : SG) (n : Nat) (s : State) : State :=
  s.issue (.scalar i) [w.a, w.d] [] fun s =>
    let addr := globalAddr s w
    let v := (s.rd w.d).toNat % 2 ^ (8 * n)
    if inPort addr.toNat then portPush w n addr s
    else if addr.toNat % n != 0 then s.trap .align addr
    else if s.queuedDevice s.cur.strand addr.toNat n then s.stall .interlock
    else if s.here.replayHolds s.cur.strand addr.toNat then
      (if s.here.replay.length ≥ replayDepth then s.stall .page else s.parkStore (addr57 addr) n v)
    else match s.xlat s.cur.core .scalar s.here.root addr needFill with
      | .prot => s.landFault 1 true true .prot addr
      | .absent pte =>
        if s.pageRefused (addr57 addr) then s.clearRefused.landFault 1 true true .page addr
        else match s.awaitMine (addr57 addr) pte with
          | none => s.landFault 1 true true .prot addr
          | some s1 =>
            if s.cur.ctx == .fw || s.here.replay.length ≥ replayDepth then s1.stall .page
            else s1.parkStore (addr57 addr) n v
      | .ok pa m =>
        let s1 := { (s.keepTlb s.cur.core .scalar s.here.root addr.toNat).spendToken s.cur.core with mem := m }
        if s.hbm.badPoison pa n then s1.landFault 1 true true .eccue addr
        else
          let old := s.oldPage s.cur.core .scalar s.here.root addr.toNat
          (({ s1 with mem := s1.dirtyBy old s.here.root addr.toNat }).writePlace (.dev pa) n v).rescan (.dev pa)


def execStlB (w : SL) (s : State) : Out := .next (storeLocal (.stlB w) w 1 s)
def execStlH (w : SL) (s : State) : Out := .next (storeLocal (.stlH w) w 2 s)
def execStlW (w : SL) (s : State) : Out := .next (storeLocal (.stlW w) w 4 s)
def execStlD (w : SL) (s : State) : Out := .next (storeLocal (.stlD w) w 8 s)
def execStgB (w : SG) (s : State) : Out := .next (storeGlobal (.stgB w) w 1 s)
def execStgH (w : SG) (s : State) : Out := .next (storeGlobal (.stgH w) w 2 s)
def execStgW (w : SG) (s : State) : Out := .next (storeGlobal (.stgW w) w 4 s)
def execStgD (w : SG) (s : State) : Out := .next (storeGlobal (.stgD w) w 8 s)

end Sys2Proof.Machine
end

