-- ==== Sys2Proof/Machine/Vector.lean ====
section
/-! DEFINITION. The vector words of X (R198-R227): operands, destinations, and one meaning for each word. -/
namespace Sys2Proof.Machine

/-! ## Operands (R198, R201, R202, R207) -/

/-- Elements `k .. k+n-1` of a vector register in a width of `w` bits. -/
def VReg.elems (r : VReg) (w k n : Nat) : List Elem :=
  (List.range n).map fun i => ⟨r.val.toNat / 2 ^ (w * (k + i)) % 2 ^ w, r.poison.getLsbD (w * (k + i) / 512)⟩
def Context.vreg (k : Context) (v : BitVec 4) : VReg := k.v[v.toNat]

/-- What an operand gives: its elements, and the lowest line of a poisoned one (all ones for a register). -/
inductive Taken where
  | fault (c : Cause) (eval : Word)
  | stalls (s : State) (w : Wait)
  | ok (s : State) (es : List Elem) (line : Word)
/-- The lowest line address among poisoned elements of a stream. -/
def poisonLine : List (Spot × Elem) → Word
  | [] => BitVec.allOnes 64
  | (p, e) :: r =>
    let rest := poisonLine r
    if e.poison then
      let a := BitVec.ofNat 64 (p.eval.toNat / 64 * 64)
      if a.toNat < rest.toNat then a else rest
    else rest
/-- A stream read of `n` elements of width `w` by the issuing word: the stream advances (R202). -/
def State.streamIn (s : State) (t : BitVec 5) (w n : Nat) (ov : Int) : Taken :=
  let sn := s.here.snap s.cur.ctx t
  let r := sn.reg
  let ks := r.indices r.pos n
  let es := ks.map (r.spot w ov)
  match s.reach s.cur.core s.cur.ctx .X none s.cur.ticket sn needRd false es with
  | .fault c e => .fault c e
  | .stalls s1 w => .stalls s1 w
  | .ok s1 ps =>
    let (vs, ahead) := s1.takeElems w (ov == 0) (ks.zip (es.zip ps)) r.ahead
    .ok (s1.setStream t fun r => { r.advance n with ahead := ahead }) vs (poisonLine (es.zip vs))
/-- A source operand of `n` elements of width `w`, element `k` first for a vector register. -/
def State.source (s : State) (o : VOp) (w k n : Nat) : Taken :=
  match o.kind.toNat with
  | 0 => .ok s ((s.here.vreg (o.index.setWidth 4)).elems w k n) (BitVec.allOnes 64)
  | 1 => s.streamIn (o.index.setWidth 5) w n o.stride.toInt
  | 2 =>
    if o.index != 1 then .fault .queue (o.index.setWidth 64)
    else match s.here.qlx with
      | [] => .stalls s .queueReg
      | v :: r => if s.here.headBad 1 then .fault .eccue (BitVec.allOnes 64) else .ok (s.modHere (·.popQueue 1 r)) (List.replicate n ⟨v.toNat % 2 ^ w, false⟩) (BitVec.allOnes 64)
  | _ => .ok s (List.replicate n ⟨(s.rd (o.index.setWidth 5)).toNat % 2 ^ w, false⟩) (BitVec.allOnes 64)

/-- Where the elements of a stream destination go: its stream advances at issue, its elements are written later. -/
inductive Dest where
  | fault (c : Cause) (eval : Word)
  | stalls (s : State) (w : Wait)
  | ok (s : State) (sn : Snap) (spots : List Spot)
def State.streamOut (s : State) (t : BitVec 5) (w n : Nat) (ov : Int) : Dest :=
  let sn := s.here.snap s.cur.ctx t
  let r := sn.reg
  let es := (r.indices r.pos n).map (r.spot w ov)
  match s.reach s.cur.core s.cur.ctx .X none s.cur.ticket sn needFill true es with
  | .fault c e => .fault c e
  | .stalls s1 w => .stalls s1 w
  | .ok s1 _ => .ok (s1.setStream t fun r => { r with pos := (r.pos + n) % r.total, consumed := r.consumed + n }) sn es

/-! ## The shape of a word -/

/-- What a word reads and writes: widths and numbers of elements of its sources and its destination, its auxiliary stream
(read or written, with its width and number), the vector registers that it reads beside its operands, its latency. -/
structure VShape where
  lat : Nat
  w1 : Nat
  k1 : Nat
  n1 : Nat
  w2 : Nat
  n2 : Nat
  two : Bool
  regs : List (BitVec 4)
  auxIn : Option (BitVec 5 × Nat × Nat)
  auxOut : Option (BitVec 5 × Nat × Nat)
  wd : Nat
  nd : Nat

/-- What the word computes from: the state at issue, its sources, its auxiliary elements, the vector generator. -/
structure VIn where
  s : State
  a : List Elem
  b : List Elem
  aux : List Elem
  sr : BitVec 32

def gregsOf (o : VOp) (used : Bool) : List GReg := if used && o.kind == 3 then [o.index.setWidth 5] else []
def vregsOf (o : VOp) (used : Bool) : List (BitVec 4) := if used && o.kind == 0 then [o.index.setWidth 4] else []
/-- Pops and stream positions of an attempt that does not issue are undone. -/
def State.undo (s s0 : State) : State := s.modHere fun k => { k with streams := s0.here.streams, qlx := s0.here.qlx, qbad := s0.here.qbad }
def packElems (w : Nat) (es : List Elem) : BitVec 4096 := BitVec.ofNat 4096 (pack (es.map fun e => (w, e.val)))
/-- Poison of the lane groups that elements of width `w` lie in. -/
def groupsOf (w : Nat) (es : List Elem) : BitVec 8 :=
  BitVec.ofNat 8 ((List.range 8).map fun g =>
    if (es.zip (List.range es.length)).any fun (e, i) => e.poison && w * i / 512 == g then 2 ^ g else 0).sum
/-- A 64-bit scalar result (R205). -/
def scalarOf (f : Option Fmt) (v : Nat) : Word :=
  match f with
  | some f => if f.isSigned then sx (BitVec.ofNat 64 v) f.width else BitVec.ofNat 64 v
  | none => BitVec.ofNat 64 v
/-- The destination's result lands `lat` cycles from now, with the word's SAT and tokens. -/
def State.landVector (s : State) (w : VA) (sh : VShape) (o : VOut) (dst : Option (Snap × List Spot)) (scalar : Option Fmt)
    (line : Word) : State :=
  let tok := w.pre.tok
  match w.op0.kind.toNat with
  | 0 => s.landWith sh.lat o.sat tok
      (.vec (w.op0.index.setWidth 4) (sh.wd * o.outs.length) (packElems sh.wd o.outs) (groupsOf sh.wd o.outs))
  | 1 => (match dst with
    | some (sn, es) => s.landWith sh.lat o.sat tok (.elems ((es.zip o.outs).map fun (q : Spot × Elem) => q.1.write sn q.2))
    | none => s)
  | k =>
    match o.outs with
    | [] => s
    | e :: _ =>
      if e.poison then s.landFaultOf (if k = 3 then w.op0.index.setWidth 5 else 0) sh.lat false false .poison line
      else
        let v := scalarOf scalar e.val
        if k = 3 then s.landWith sh.lat o.sat tok (if w.op0.index = 0 then .tokens else .reg (w.op0.index.setWidth 5) v)
        else s.landWith sh.lat o.sat tok (.push v)

/-- In debug mode a read of an operand whose pending bit is set traps STALE, in its turn among the operands (R108, R207). -/
def State.staleOperand (s : State) (gs : List GReg) (vs : List (BitVec 4)) (k : State) : State :=
  if s.here.dbg then
    match s.me.stale gs, s.me.staleV vs with
    | some r, _ => s.trap .stale (r.setWidth 64)
    | none, some v => s.trap .stale (0x100#64 ||| v.setWidth 64)
    | none, none => k
  else k
/-- A VECTOR WORD: operands are checked in the order 1, 2, auxiliary stream, 0 (R207), each stall and fault before any
effect; then tokens are popped, sources taken, streams advanced and draws made (R208), and the result lands (R204). -/
def vecWord (i : WideWord) (w : VA) (sh : State → VShape) (scalar : Option Fmt) (op : VIn → VOut) (s : State) : State :=
  let two := (sh s).two
  s.issueInOrder (.wide i) (gregsOf w.op1 true ++ gregsOf w.op2 two) (gregsOf w.op0 true) fun s =>
    let h := sh s
    s.staleOperand (gregsOf w.op1 true) (vregsOf w.op1 true) <|
    match s.source w.op1 h.w1 h.k1 h.n1 with
    | .fault c e => s.trap c e
    | .stalls s1 y => (s1.undo s).stall y
    | .ok s1 a line =>
    s.staleOperand (gregsOf w.op2 two) (vregsOf w.op2 two) <|
    match (if two then s1.source w.op2 h.w2 0 h.n2 else .ok s1 [] 0) with
    | .fault c e => s.trap c e
    | .stalls s2 y => (s2.undo s).stall y
    | .ok s2 b _ =>
    s.staleOperand [] h.regs <|
    match (match h.auxIn with
      | some (t, aw, n) => s2.streamIn t aw n 0
      | none => .ok s2 [] 0) with
    | .fault c e => s.trap c e
    | .stalls s3 y => (s3.undo s).stall y
    | .ok s3 aux _ =>
    match (match h.auxOut with
      | some (t, aw, n) => s3.streamOut t aw n 0
      | none => .ok s3 ⟨s.here.streams[0], 0⟩ []) with
    | .fault c e => s.trap c e
    | .stalls s4 y => (s4.undo s).stall y
    | .ok s4 auxSn auxEs =>
    match (if w.op0.kind == 1 then s4.streamOut (w.op0.index.setWidth 5) h.wd h.nd w.op0.stride.toInt
      else .ok s4 ⟨s.here.streams[0], 0⟩ []) with
    | .fault c e => s.trap c e
    | .stalls s5 y => (s5.undo s).stall y
    | .ok s5 dstSn dstEs =>
    if w.op0.kind == 2 && w.op0.index != 2 then s.trap .queue (w.op0.index.setWidth 64)
    else if w.op0.kind == 2 && queueFull s.here 2 then (s5.undo s).stall .queueReg
    else
      let s6 := s5.popTokens w.pre.tok id
      if s6.cur.res != .done then s6.undo s
      else
        let o := op ⟨s, a, b, aux, s.here.srVec⟩
        let s7 := s6.modHere fun k => { k with srVec := o.sr }
        let s8 := match h.auxOut with
          | some _ => s7.landWith h.lat false 0 (.elems ((auxEs.zip o.aux).map fun (q : Spot × Elem) => q.1.write auxSn q.2))
          | none => s7
        s8.landVector w h o (some (dstSn, dstEs)) scalar line

/-! ## Shapes -/

/-- Active elements of a word that works in one width (R200). -/
def State.active (s : State) (w : Nat) : Nat := s.here.vl.toNat * 32 / w
/-- A word of one format and one or two sources. -/
def oneFmt (w : VA) (lat : Nat) (two : Bool) (regs : List (BitVec 4)) (s : State) : VShape :=
  let f := (Fmt.ofCode w.fmt).width
  let e := s.active f
  ⟨lat, f, 0, e, f, e, two, regs, none, none, f, e⟩
def VIn.reg (i : VIn) (v : BitVec 4) (w n : Nat) : List Elem := (i.s.here.vreg v).elems w 0 n

/-- An element-wise word with an exact result, rounded or fitted once. -/
def exactWord (i : WideWord) (w : VA) (lat : Nat) (two : Bool) (op : VIn → List (Val × Bool)) (s : State) : State :=
  vecWord i w (oneFmt w lat two []) none (fun v => mapFit (Fmt.ofCode w.fmt) (Rnd.ofCode w.rnd) (w.sat == 1) v.sr (op v)) s
/-- An element-wise word on patterns. -/
def patternWord (i : WideWord) (w : VA) (two : Bool) (regs : List (BitVec 4)) (op : VIn → List Elem) (s : State) : State :=
  vecWord i w (oneFmt w 4 two regs) none (fun v => plainOut v.sr (op v)) s

/-! ## Element-wise words (R213) -/

def execVadd (w : VA) (s : State) : Out :=
  .next (exactWord (.vadd w) w 4 true (fun v => binaryVal (Fmt.ofCode w.fmt) (addVal (Rnd.ofCode w.rnd)) v.a v.b) s)
def execVsub (w : VA) (s : State) : Out :=
  .next (exactWord (.vsub w) w 4 true (fun v =>
    binaryVal (Fmt.ofCode w.fmt) (fun a b => addVal (Rnd.ofCode w.rnd) a (negVal b)) v.a v.b) s)
def execVmul (w : VA) (s : State) : Out :=
  .next (exactWord (.vmul w) w 6 true (fun v => binaryVal (Fmt.ofCode w.fmt) mulVal v.a v.b) s)
/-- vfma and vfms read their destination as it stands at issue. -/
def fmaWord (i : WideWord) (w : VA) (op : Val → Val → Val → Val) (s : State) : State :=
  let f := Fmt.ofCode w.fmt
  let d : BitVec 4 := w.op0.index.setWidth 4
  vecWord i w (oneFmt w 6 true [d]) none (fun v =>
    mapFit f (Rnd.ofCode w.rnd) (w.sat == 1) v.sr (ternaryVal f op v.a v.b (v.reg d f.width v.a.length))) s
def execVfma (w : VA) (s : State) : Out :=
  .next (fmaWord (.vfma w) w (fun a b d => addVal (Rnd.ofCode w.rnd) (mulVal a b) d) s)
def execVfms (w : VA) (s : State) : Out :=
  .next (fmaWord (.vfms w) w (fun a b d => addVal (Rnd.ofCode w.rnd) d (negVal (mulVal a b))) s)
def execVmin (w : VA) (s : State) : Out :=
  .next (patternWord (.vmin w) w true [] (fun v => minmax (Fmt.ofCode w.fmt) false v.a v.b) s)
def execVmax (w : VA) (s : State) : Out :=
  .next (patternWord (.vmax w) w true [] (fun v => minmax (Fmt.ofCode w.fmt) true v.a v.b) s)
def execVabs (w : VA) (s : State) : Out :=
  .next (exactWord (.vabs w) w 4 false (fun v => unaryVal (Fmt.ofCode w.fmt) absVal v.a) s)
def execVneg (w : VA) (s : State) : Out :=
  .next (exactWord (.vneg w) w 4 false (fun v => unaryVal (Fmt.ofCode w.fmt) negVal v.a) s)
def execVsqr (w : VA) (s : State) : Out :=
  .next (exactWord (.vsqr w) w 6 false (fun v => unaryVal (Fmt.ofCode w.fmt) (fun a => mulVal a a) v.a) s)
def execVrcp (w : VA) (s : State) : Out :=
  .next (exactWord (.vrcp w) w 12 false (fun v => unaryVal (Fmt.ofCode w.fmt) rcpVal v.a) s)
def execVrsqrt (w : VA) (s : State) : Out :=
  .next (exactWord (.vrsqrt w) w 12 false (fun v => unaryVal (Fmt.ofCode w.fmt) rsqrtVal v.a) s)
def execVexp2 (w : VA) (s : State) : Out :=
  .next (exactWord (.vexp2 w) w 12 false (fun v => unaryVal (Fmt.ofCode w.fmt) exp2Val v.a) s)
def execVlog2 (w : VA) (s : State) : Out :=
  .next (exactWord (.vlog2 w) w 12 false (fun v => unaryVal (Fmt.ofCode w.fmt) log2Val v.a) s)
def execVand (w : VA) (s : State) : Out :=
  .next (patternWord (.vand w) w true [] (fun v => bitwise (· &&& ·) v.a v.b) s)
def execVor (w : VA) (s : State) : Out :=
  .next (patternWord (.vor w) w true [] (fun v => bitwise (· ||| ·) v.a v.b) s)
def execVxor (w : VA) (s : State) : Out :=
  .next (patternWord (.vxor w) w true [] (fun v => bitwise (· ^^^ ·) v.a v.b) s)
def execVshl (w : VA) (s : State) : Out :=
  .next (patternWord (.vshl w) w true [] (fun v => bitwise (shiftCode .left (Fmt.ofCode w.fmt).width) v.a v.b) s)
def execVshr (w : VA) (s : State) : Out :=
  .next (patternWord (.vshr w) w true [] (fun v => bitwise (shiftCode .right (Fmt.ofCode w.fmt).width) v.a v.b) s)
def execVsar (w : VA) (s : State) : Out :=
  .next (patternWord (.vsar w) w true [] (fun v => bitwise (shiftCode .arith (Fmt.ofCode w.fmt).width) v.a v.b) s)
def execVmov (w : VA) (s : State) : Out := .next (patternWord (.vmov w) w false [] (fun v => v.a) s)
def execVclamp (w : VA) (s : State) : Out :=
  let f := Fmt.ofCode w.fmt
  let h : BitVec 4 := w.aux.extractLsb' 0 4
  .next (patternWord (.vclamp w) w true [h] (fun v =>
    minmax f false (minmax f true v.a v.b) (v.reg h f.width v.a.length)) s)
def execVscale (w : VA) (s : State) : Out :=
  .next (exactWord (.vscale w) w 4 true (fun v => scaleBy (Fmt.ofCode w.fmt) v.a v.b) s)

/-! ## Compare, select, permute, count (R214-R217) -/

def execVceq (w : VA) (s : State) : Out :=
  .next (patternWord (.vceq w) w true [] (fun v => compare (Fmt.ofCode w.fmt) eqVal v.a v.b) s)
def execVclt (w : VA) (s : State) : Out :=
  .next (patternWord (.vclt w) w true [] (fun v => compare (Fmt.ofCode w.fmt) ltVal v.a v.b) s)
def execVcle (w : VA) (s : State) : Out :=
  .next (patternWord (.vcle w) w true [] (fun v => compare (Fmt.ofCode w.fmt) leVal v.a v.b) s)
def execVsel (w : VA) (s : State) : Out :=
  let m : BitVec 4 := w.aux.extractLsb' 0 4
  .next (patternWord (.vsel w) w true [m] (fun v =>
    select (v.reg m (Fmt.ofCode w.fmt).width v.a.length) v.a v.b) s)
/-- vperm and vbcast read their register source whole (R200, R216). -/
def execVperm (w : VA) (s : State) : Out :=
  let f := (Fmt.ofCode w.fmt).width
  .next (vecWord (.vperm w) w (fun s => { oneFmt w 4 true [] s with n1 := 4096 / f }) none (fun v =>
    plainOut v.sr (v.b.map fun j =>
      let e := v.a.getD (j.val % (4096 / f)) ⟨0, false⟩
      ⟨e.val, e.poison || j.poison⟩)) s)
def execVbcast (w : VA) (s : State) : Out :=
  let f := (Fmt.ofCode w.fmt).width
  .next (vecWord (.vbcast w) w (fun s => { oneFmt w 4 false [] s with n1 := 4096 / f }) none (fun v =>
    plainOut v.sr (List.replicate (v.s.active f) (v.a.getD w.aux.toNat ⟨0, false⟩))) s)
def execVpop (w : VA) (s : State) : Out :=
  .next (vecWord (.vpop w) w (oneFmt w 8 false []) none (fun v =>
    plainOut v.sr [⟨countNonZero (Fmt.ofCode w.fmt) v.a, v.a.any (·.poison)⟩]) s)

/-! ## Reductions and scans (R218, R219) -/

def redWord (i : WideWord) (w : VA) (op : RedOp) (s : State) : State :=
  let f := Fmt.ofCode w.fmt
  vecWord i w (oneFmt w 8 false []) (some f) (fun v =>
    let (r, sat, sr) := reduce f op (Rnd.ofCode w.rnd) (w.sat == 1) v.sr v.a
    ⟨List.replicate v.a.length ⟨r, v.a.any (·.poison)⟩, [], sat, sr⟩) s
def execVredAdd (w : VA) (s : State) : Out := .next (redWord (.vredAdd w) w .add s)
def execVredMax (w : VA) (s : State) : Out := .next (redWord (.vredMax w) w .max s)
def execVredMin (w : VA) (s : State) : Out := .next (redWord (.vredMin w) w .min s)
def execVscanAdd (w : VA) (s : State) : Out :=
  .next (vecWord (.vscanAdd w) w (oneFmt w 8 false []) none (fun v =>
    scanAdd (Fmt.ofCode w.fmt) (Rnd.ofCode w.rnd) (w.sat == 1) v.sr v.a) s)

/-! ## Conversion words (R200, R221-R226) -/

/-- Active elements of a conversion (R200). -/
def convActive (s : State) (ws wd : Nat) : Nat := s.here.vl.toNat * 32 / max (max ws wd) 16
def convShape (ws wd : Nat) (s : State) : VShape :=
  let e := convActive s ws wd
  ⟨6, ws, 0, e, ws, e, false, [], none, none, wd, e⟩
def execVcvt (w : VA) (s : State) : Out :=
  let f := Fmt.ofCode w.fmt
  let g := Fmt.ofCode (w.aux.extractLsb' 0 4)
  .next (vecWord (.vcvt w) w (convShape g.width f.width) none (fun v =>
    convertAll f g (Rnd.ofCode w.rnd) (w.sat == 1) v.sr v.a) s)
def execVq (w : VA) (s : State) : Out :=
  let f := Fmt.ofCode w.fmt
  let g := Fmt.ofCode (w.aux.extractLsb' 5 4)
  .next (vecWord (.vq w) w (fun s =>
      let h := convShape g.width f.width s
      { h with auxOut := some (w.aux.extractLsb' 0 5, 8, (h.n1 + 23) / 24) }) none (fun v =>
    quantise f g (Rnd.ofCode w.rnd) v.sr v.a) s)
def execVdq (w : VA) (s : State) : Out :=
  let f := Fmt.ofCode w.fmt
  let g := Fmt.ofCode (w.aux.extractLsb' 5 4)
  .next (vecWord (.vdq w) w (fun s =>
      let h := convShape g.width f.width s
      { h with auxIn := some (w.aux.extractLsb' 0 5, 8, (h.n1 + 23) / 24) }) none (fun v =>
    dequantise f g (Rnd.ofCode w.rnd) (w.sat == 1) v.sr v.a v.aux) s)
def execVsp (w : VA) (s : State) : Out :=
  let f := Fmt.ofCode w.fmt
  let n := keptOf (w.aux.extractLsb' 5 2)
  .next (vecWord (.vsp w) w (fun s =>
      let g := s.active f.width / 24
      ⟨6, f.width, 0, 24 * g, 0, 0, false, [], none, some (w.aux.extractLsb' 0 5, 32, g), f.width, n * g⟩) none (fun v =>
    compress f n v.sr v.a) s)
def execVdsp (w : VA) (s : State) : Out :=
  let f := Fmt.ofCode w.fmt
  let n := keptOf (w.aux.extractLsb' 5 2)
  .next (vecWord (.vdsp w) w (fun s =>
      let g := s.active f.width / 24
      ⟨6, f.width, 0, n * g, 0, 0, false, [], some (w.aux.extractLsb' 0 5, 32, g), none, f.width, 24 * g⟩) none (fun v =>
    expand n v.sr v.a v.aux) s)
def execVpk (w : VA) (s : State) : Out :=
  let f := Fmt.ofCode w.fmt
  .next (vecWord (.vpk w) w (fun s =>
      let e := s.here.vl.toNat * 32 / (2 * f.width)
      ⟨6, 2 * f.width, 0, e, 2 * f.width, e, true, [], none, none, f.width, 2 * e⟩) none (fun v =>
    let cs := (v.a ++ v.b).map fun e =>
      (f.fit (w.sat == 1) (if f.isSigned then signedOf (2 * f.width) e.val else e.val), e.poison)
    ⟨cs.map fun c => c.1.elem c.2, [], cs.any (·.1.sat), v.sr⟩) s)
def execVupk (w : VA) (s : State) : Out :=
  let f := Fmt.ofCode w.fmt
  .next (vecWord (.vupk w) w (fun s =>
      let e := s.active f.width
      ⟨6, f.width / 2, if w.aux.getLsbD 0 then e else 0, e, 0, 0, false, [], none, none, f.width, e⟩) none (fun v =>
    plainOut v.sr (v.a.map fun e =>
      ⟨if f.isSigned then f.pattern (signedOf (f.width / 2) e.val) else e.val, e.poison⟩)) s)

/-! ## Seeding (R71, R227) -/

/-- No matrix command of firmware stands in the queue of a task context (R231). -/
def CoreSt.noneFor (k : CoreSt) (x : Ctx) : Bool := x == .fw || (k.ctx .fw).mx.all (·.target != x)
/-- vsr.seed: the vector state changes for later words of X, the drain state in the order of the matrix queue. -/
def execVsrSeed (w : VA) (s : State) : Out :=
  .next (s.issue (.wide (.vsrSeed w)) (gregsOf w.op1 true) [] fun s =>
    match s.source w.op1 32 0 1 with
    | .fault c e => s.trap c e
    | .stalls s1 y => (s1.undo s).stall y
    | .ok s1 a _ =>
        let s2 := s1.popTokens w.pre.tok id
        if s2.cur.res != .done then s2.undo s
        else
          let v := s2.seedIn s2.cur.core s2.cur.ctx (BitVec.ofNat 32 ((a.headD ⟨0, false⟩).val))
          let q : MxCmd := { tag := { s2.tag false false w.pre 0 0 with push := 0 }, word := .vsrSeed w, seed := some (seedState (v ^^^ 0x5A5A5A5A))
                             nameA := 0xFFFF, nameB := 0xFFFF, nameD := 0xFFFF, a := none, b := none, sa := none, sb := none
                             md := none, phase := .queued, holds := [], target := s.cur.ctx, ahead := [], wpos := 0, w := MX.zero }
          let s3 := (s2.noteSeed s2.cur.core s2.cur.ctx v).modHere fun k =>
            let k := k.enqueued false
            let idle := k.mx.isEmpty && s.myCore.noneFor s.cur.ctx
            { k with srVec := seedState v
                     srDrain := if idle then seedState (v ^^^ 0x5A5A5A5A) else k.srDrain
                     mx := if idle then k.mx else k.mx ++ [q] }
          if w.pre.tok &&& 12 = 0 then s3 else s3.landWith 1 false w.pre.tok .tokens)

end Sys2Proof.Machine
end

