-- ==== Sys2Proof/Machine/Words.lean ====
section
/-! DEFINITION. What a bundle's slots run: for each word its meaning, the one that the dispatch names for it. -/
namespace Sys2Proof.Machine

def runScalar (i : ScalarWord) (s : State) : Out :=
  match i with
  | .add w => execAdd w s
  | .sub w => execSub w s
  | .mul w => execMul w s
  | .mulh w => execMulh w s
  | .mulhn w => execMulhn w s
  | .div w => execDiv w s
  | .divn w => execDivn w s
  | .rem w => execRem w s
  | .remn w => execRemn w s
  | .and w => execAnd w s
  | .or w => execOr w s
  | .xor w => execXor w s
  | .andn w => execAndn w s
  | .orn w => execOrn w s
  | .shl w => execShl w s
  | .shr w => execShr w s
  | .sar w => execSar w s
  | .rol w => execRol w s
  | .ror w => execRor w s
  | .min w => execMin w s
  | .max w => execMax w s
  | .minn w => execMinn w s
  | .maxn w => execMaxn w s
  | .addw w => execAddw w s
  | .subw w => execSubw w s
  | .mulw w => execMulw w s
  | .shlw w => execShlw w s
  | .shrw w => execShrw w s
  | .sarw w => execSarw w s
  | .mov w => execMov w s
  | .not w => execNot w s
  | .neg w => execNeg w s
  | .abs w => execAbs w s
  | .clz w => execClz w s
  | .ctz w => execCtz w s
  | .popc w => execPopc w s
  | .brev w => execBrev w s
  | .bswap w => execBswap w s
  | .sxb w => execSxb w s
  | .sxh w => execSxh w s
  | .sxw w => execSxw w s
  | .zxb w => execZxb w s
  | .zxh w => execZxh w s
  | .zxw w => execZxw w s
  | .addi w => execAddi w s
  | .andi w => execAndi w s
  | .ori w => execOri w s
  | .xori w => execXori w s
  | .shli w => execShli w s
  | .shri w => execShri w s
  | .sari w => execSari w s
  | .muli w => execMuli w s
  | .addwi w => execAddwi w s
  | .lui w => execLui w s
  | .lih w => execLih w s
  | .pca w => execPca w s
  | .bfx w => execBfx w s
  | .bfxn w => execBfxn w s
  | .bfi w => execBfi w s
  | .ceq w => execCeq w s
  | .cne w => execCne w s
  | .clt w => execClt w s
  | .cle w => execCle w s
  | .cltn w => execCltn w s
  | .clen w => execClen w s
  | .ceqi w => execCeqi w s
  | .cnei w => execCnei w s
  | .clti w => execClti w s
  | .cgti w => execCgti w s
  | .bset w => execBset w s
  | .bclr w => execBclr w s
  | .bnot w => execBnot w s
  | .brT w => execBrT w s
  | .brF w => execBrF w s
  | .jmp w => execJmp w s
  | .call w => execCall w s
  | .jr w => execJr w s
  | .callr w => execCallr w s
  | .fork w => execFork w s
  | .join w => execJoin w s
  | .jbset w => execJbset w s
  | .jbclr w => execJbclr w s
  | .jbwait w => execJbwait w s
  | .exit w => execExit w s
  | .exitAb w => execExitAb w s
  | .yield w => execYield w s
  | .lpSet w => execLpSet w s
  | .lpStride w => execLpStride w s
  | .lpRun w => execLpRun w s
  | .lpBrk w => execLpBrk w s
  | .lpClamp w => execLpClamp w s
  | .trap w => execTrap w s
  | .eret w => execEret w s
  | .rdsr w => execRdsr w s
  | .wrsr w => execWrsr w s
  | .guard w => execGuard w s
  | .brk w => execBrk w s
  | .ccAdd w => execCcAdd w s
  | .ccSet w => execCcSet w s
  | .waitLt w => execWaitLt w s
  | .waitGe w => execWaitGe w s
  | .tokPush w => execTokPush w s
  | .tokPop w => execTokPop w s
  | .fence w => execFence w s
  | .ldlB w => execLdlB w s
  | .ldlH w => execLdlH w s
  | .ldlW w => execLdlW w s
  | .ldlD w => execLdlD w s
  | .stlB w => execStlB w s
  | .stlH w => execStlH w s
  | .stlW w => execStlW w s
  | .stlD w => execStlD w s
  | .ldgB w => execLdgB w s
  | .ldgH w => execLdgH w s
  | .ldgW w => execLdgW w s
  | .ldgD w => execLdgD w s
  | .stgB w => execStgB w s
  | .stgH w => execStgH w s
  | .stgW w => execStgW w s
  | .stgD w => execStgD w s

def runWide (i : WideWord) (s : State) : Out :=
  match i with
  | .vadd w => execVadd w s
  | .vsub w => execVsub w s
  | .vmul w => execVmul w s
  | .vfma w => execVfma w s
  | .vfms w => execVfms w s
  | .vmin w => execVmin w s
  | .vmax w => execVmax w s
  | .vabs w => execVabs w s
  | .vneg w => execVneg w s
  | .vsqr w => execVsqr w s
  | .vrcp w => execVrcp w s
  | .vrsqrt w => execVrsqrt w s
  | .vexp2 w => execVexp2 w s
  | .vlog2 w => execVlog2 w s
  | .vand w => execVand w s
  | .vor w => execVor w s
  | .vxor w => execVxor w s
  | .vshl w => execVshl w s
  | .vshr w => execVshr w s
  | .vsar w => execVsar w s
  | .vceq w => execVceq w s
  | .vclt w => execVclt w s
  | .vcle w => execVcle w s
  | .vsel w => execVsel w s
  | .vperm w => execVperm w s
  | .vbcast w => execVbcast w s
  | .vredAdd w => execVredAdd w s
  | .vredMax w => execVredMax w s
  | .vredMin w => execVredMin w s
  | .vscanAdd w => execVscanAdd w s
  | .vmov w => execVmov w s
  | .vclamp w => execVclamp w s
  | .vscale w => execVscale w s
  | .vpop w => execVpop w s
  | .vcvt w => execVcvt w s
  | .vq w => execVq w s
  | .vdq w => execVdq w s
  | .vsp w => execVsp w s
  | .vdsp w => execVdsp w s
  | .vsrSeed w => execVsrSeed w s
  | .vpk w => execVpk w s
  | .vupk w => execVupk w s
  | .ldm w => execLdm w s
  | .ldmWait w => execLdmWait w s
  | .ldmCons w => execLdmCons w s
  | .stm w => execStm w s
  | .stmFill w => execStmFill w s
  | .stmOvf w => execStmOvf w s
  | .stmSete w => execStmSete w s
  | .feProbe w => execFeProbe w s
  | .feSet w => execFeSet w s
  | .atAdd w => execAtAdd w s
  | .atSub w => execAtSub w s
  | .atAnd w => execAtAnd w s
  | .atOr w => execAtOr w s
  | .atXor w => execAtXor w s
  | .atMin w => execAtMin w s
  | .atMax w => execAtMax w s
  | .atMinn w => execAtMinn w s
  | .atMaxn w => execAtMaxn w s
  | .atXchg w => execAtXchg w s
  | .atCas w => execAtCas w s
  | .atFadd w => execAtFadd w s
  | .atInc w => execAtInc w s
  | .acq w => execAcq w s
  | .rel w => execRel w s
  | .syncBind w => execSyncBind w s
  | .syncUnbind w => execSyncUnbind w s
  | .prefetch w => execPrefetch w s
  | .cp w => execCp w s
  | .cpG w => execCpG w s
  | .cpSc w => execCpSc w s
  | .cpBc w => execCpBc w s
  | .cpRed w => execCpRed w s
  | .cpW w => execCpW w s
  | .cpMm w => execCpMm w s
  | .cpFe w => execCpFe w s
  | .cpZero w => execCpZero w s
  | .asCfg w => execAsCfg w s
  | .asDim w => execAsDim w s
  | .asFmt w => execAsFmt w s
  | .asBindLocal w => execAsBindLocal w s
  | .asBindDevice w => execAsBindDevice w s
  | .asRst w => execAsRst w s
  | .asAdv w => execAsAdv w s
  | .sgBind w => execSgBind w s
  | .sgPin w => execSgPin w s
  | .sgUnpin w => execSgUnpin w s
  | .sgTouch w => execSgTouch w s
  | .sgEvict w => execSgEvict w s
  | .sgInfo w => execSgInfo w s
  | .vlSet w => execVlSet w s
  | .wbSwap w => execWbSwap w s
  | .wbStat w => execWbStat w s
  | .barInit w => execBarInit w s
  | .barArr w => execBarArr w s
  | .barWait w => execBarWait w s
  | .barXferIn w => execBarXferIn w s
  | .barXferOut w => execBarXferOut w s
  | .vbRd w => execVbRd w s
  | .vbWr w => execVbWr w s
  | .clkRatio w => execClkRatio w s
  | .xld w => execXld w s
  | .xst w => execXst w s
  | .xat w => execXat w s
  | .xcpPush w => execXcpPush w s
  | .xcpPull w => execXcpPull w s
  | .xsigSet w => execXsigSet w s
  | .xsigAdd w => execXsigAdd w s
  | .xfence w => execXfence w s
  | .xroute w => execXroute w s
  | .enRd w => execEnRd w s
  | .enMark w => execEnMark w s
  | .partId w => execPartId w s
  | .tlbInv w => execTlbInv w s
  | .tlbInvAll w => execTlbInvAll w s
  | .segInv w => execSegInv w s
  | .tarRd w => execTarRd w s
  | .ctxSv w => execCtxSv w s
  | .ctxSvEpi w => execCtxSvEpi w s
  | .ctxLd w => execCtxLd w s
  | .ctxLdHold w => execCtxLdHold w s
  | .ctxLdGo w => execCtxLdGo w s
  | .mm w => execMm w s
  | .mmSp w => execMmSp w s
  | .mmTn w => execMmTn w s
  | .mdrain w => execMdrain w s
  | .mzero w => execMzero w s
  | .mcorrLd w => execMcorrLd w s
  | .mcorrSt w => execMcorrSt w s
  | .mstat w => execMstat w s

/-- The meaning of a word at the issuing slot. -/
def runWord (i : AnyWord) (s : State) : Out :=
  match i with
  | .scalar w => runScalar w s
  | .wide w => runWide w s
/-- The state after the word: every meaning of a word has one. -/
def State.run (s : State) (i : AnyWord) : State :=
  match runWord i s with
  | .next t => t
  | _ => s

end Sys2Proof.Machine
end

