-- ==== Sys2Proof/Machine/Bundle.lean ====
section
/-! DEFINITION. BUNDLE_ISSUE (R33-R37, R56-R59, R97-R99, R102, R106, R109, R111, R117, R192-R195): a joined group or an apart strand
fetches a bundle, checks it and issues its slots, or spends a pipeline cycle on a delay, a bubble or a stall. -/
namespace Sys2Proof.Machine

/-! ## What may issue (R97, R102, R111, R114, R134, R136, R157, R355, R377) -/

/-- What issues with strand `p`: the joined group, or the apart strand alone. -/
def Context.unit (k : Context) (p : Strand) : List Strand := if (k.strand p).joined then k.group else [p]
/-- The strand issues, or tries to. -/
def StrandSt.goes (t : StrandSt) : Bool :=
  (match t.life with
    | .running => true
    | .waiting (.join _) => false
    | .waiting _ => true
    | _ => false) && t.landDue.isNone && (t.bubble != 0 || t.due.isEmpty)
/-- A save stops the strand: at a hard stop, or when it has replayed the level clamped in this slice to its end. -/
def CoreSt.saveStops (k : CoreSt) (x : Ctx) (p : Strand) : Bool :=
  match k.save with
  | some sv => sv.ctx == x && (sv.left == 0 || (match (k.ctx x).clamp with
    | some (n, _) =>
      let l := (k.ctx x).level (levelNum n)
      !l.active && (if l.joint then ((k.ctx x).strand p).joined else p == .K)
    | none => false))
  | none => false
/-- A memory-extended command of the strand has found its segment absent (R149), or an atomic its page (R320): the strand stalls until
it has been performed. -/
def Context.meStall (k : Context) (p : Strand) : Option Wait :=
  if (k.meQueue p).any fun q => k.touch.any fun u => u.serial == some q.tag.serial && !u.failed then some .segment
  else if (k.meQueue p).any fun q => (match q.kind with
      | .atomic _ => true
      | _ => false) && (k.strand p).pages.any fun w => w.serial == some q.tag.serial && !w.refused then some .page
  else none
/-- Firmware spends a credit on a bundle, but not while it serves a trap (R136). -/
def CoreSt.pays (k : CoreSt) (u : List Strand) : Bool := !u.any fun p => (k.serving.get p).isSome
def CoreSt.mayIssue (k : CoreSt) (x : Ctx) (u : List Strand) : Bool :=
  !u.isEmpty && k.freeze == 0 && !k.hot && !k.fwHalted && u.all (fun p => ((k.ctx x).strand p).goes) &&
    (match x with
    | .fw => !k.pays u || k.fwCredit != 0
    | _ => k.active == x && (k.ctx x).busy && !(k.ctx x).held && !(k.ctx x).triage && !(k.ctx x).copying && !(k.ctx x).yielding &&
      !u.any (k.saveStops x))

/-! ## Cycles (R95, R102, R109, R355) -/

/-- A cycle of the core, with the stalled cycle that follows it in a throttled one: every loaded context counts them, an epilogue save
too (R376, R377). -/
def State.tick (s : State) (c : CoreId) : State :=
  (s.modCore c fun k =>
    let n := if k.slow then 2 else 1
    { k.count n with save := k.save.map fun sv => { sv with left := sv.left - n } }).trySave c
def State.modUnit (s : State) (c : CoreId) (x : Ctx) (u : List Strand) (f : StrandSt → StrandSt) : State :=
  u.foldl (fun s p => s.modStrand c x p f) s
/-- Operations that a taken branch kills: squashable ones that have not written their result by the end of its cycle (R109). -/
def StrandSt.squash (t : StrandSt) : StrandSt :=
  { t with land := t.land.filter fun e => !(e.sqd && (e.left > 1 || (match e.what with
             | .fault _ interlocked _ => interlocked
             | _ => false)))
           pend := t.pend.filter fun q => !q.sqd }

/-! ## The next bundle (R97-R99, R106, R193, R195) -/

/-- Where the unit goes: a sequencer word, a completed rendezvous or a fork sends it, else the lowest taken branch, else the loop
levels that end here; none of the levels moves but for the strands that replay them. -/
def State.goOn (s : State) (c : CoreId) (x : Ctx) (u : List Strand) (hdr next : Addr) (joint : Bool) : State :=
  let k := s.ctx c x
  let replays := joint || u == [.K]
  let grp := u.filter fun p => !joint || (k.strand p).joined
  let forced := grp.findSome? fun p => (k.strand p).forced
  let taken := u.findSome? fun p => (k.strand p).redirect
  let put (s : State) (a : Addr) (bubble : Nat) : State := grp.foldl (fun s p => s.modStrand c x p fun t => { t with
    pc := a, bubble := max t.bubble bubble }) s
  let s1 := match forced, taken with
    | some a, _ => put s a 2
    | none, some a => put ((if replays then s.modCtx c x fun k => k.leaveBodies hdr a joint else s).modUnit c x grp StrandSt.squash) a 2
    | none, none =>
      let (k1, top) := if replays && !grp.isEmpty then k.endIteration hdr joint k.activeLevels else (k, none)
      put (s.modCtx c x fun _ => k1) (top.getD next) 0
  (u.filter fun p => joint && !(k.strand p).joined).foldl (fun s p => s.modStrand c x p fun t => match t.forced with
    | some a => { t with pc := a }
    | none => t) s1

/-! ## Checks of a bundle (R33, R36, R56, R58, R59, R97) -/

/-- A trap at the bundle: which strand takes it, and the slot, LEN and %eval that it records. -/
structure BundleTrap where
  who : Strand
  cause : Cause
  slot : Strand
  len : Nat
  eval : Word
  deriving DecidableEq, Repr
def State.bundleTrap (s : State) (t : BundleTrap) : State :=
  s.modCore s.cur.core fun k => k.takeTrap s.cur.ctx t.who t.cause t.slot false t.len s.cur.hdr t.eval
/-- A failure of the fetch or of the header: the lowest strand of the unit takes it. -/
def headerTrap (lead : Strand) (c : Cause) (len : Nat) (a : Addr) : BundleTrap := ⟨lead, c, lead, len, word57 a⟩

/-- A present slot of the bundle, its word read. -/
structure SlotWord where
  slot : Strand
  at_ : Addr
  word : AnyWord
  deriving DecidableEq, Repr
/-- The matrix-width word in the X slot; one that is no word stands for any, since X then traps. -/
def xWord (ws : List Framed) : Option WideWord :=
  match ws.find? (·.slot == .X) with
  | some ⟨_, _, some n⟩ =>
    if n % 4 != 2 then none
    else match View.read n with
      | .ok v => (match v.anyWord with
        | some (.wide w) => some w
        | _ => some (.mzero MX.zero))
      | .error _ => some (.mzero MX.zero)
  | _ => none
/-- The first word that fails its checks, in the order K, L, X, S; a slot of no strand of the unit fails with SLOT. -/
def checkWords (lead : Strand) (u : List Strand) (x : Ctx) (joint : Bool) (len : Nat) (xw : Option WideWord) :
    List Framed → Except BundleTrap (List SlotWord)
  | [] => .ok []
  | f :: r =>
    let who := if u.contains f.slot then f.slot else lead
    let fail (c : Cause) : Except BundleTrap (List SlotWord) := .error ⟨who, c, f.slot, len, word57 f.at_⟩
    match f.bits with
    | none => fail .illegal
    | some n => match decodeNat n with
      | .error _ => fail .illegal
      | .ok w => match wordCheck w f.slot x joint xw with
        | some .illegal => fail .illegal
        | some c => fail (if u.contains f.slot then c else .slot)
        | none =>
          if !u.contains f.slot then fail .slot
          else match checkWords lead u x joint len xw r with
            | .ok l => .ok (⟨f.slot, f.at_, w⟩ :: l)
            | e => e

/-! ## Issuing the slots (R97, R98, R102, R111) -/

/-- The machine's focus on a slot. -/
def State.atSlot (s : State) (h : Header) (w : SlotWord) : State :=
  { s with cur := { s.cur with strand := w.slot, at_ := w.at_, sqd := maskBit h.sqd w.slot, res := .done } }
/-- An exit.ab: its bundle has issued when it discards, so it waits only in a bundle whose other slots can issue (R111, R117). -/
def isExitAb : AnyWord → Bool
  | .scalar (.exitAb _) => true
  | _ => false
/-- The first slot, in the order K, L, X, S, that does not issue: the state that its trap or its stall leaves. The wait of an exit.ab
comes after every other slot's. -/
def State.blocked? (s : State) (h : Header) : List SlotWord → Option State
  | [] => none
  | w :: r =>
    let s1 := (s.atSlot h w).run w.word
    if s1.cur.res == .done then s.blocked? h r
    else if isExitAb w.word && s1.cur.res == .waits then some ((s.blocked? h r).getD s1)
    else some s1
/-- Words whose wait is for what stood before their bundle: they take effect first. -/
def actsFirst : AnyWord → Bool
  | .scalar (.exit _) | .scalar (.exitAb _) | .scalar (.fence _) | .scalar (.jbwait _) | .scalar (.waitLt _)
  | .scalar (.waitGe _) | .scalar (.tokPush _) | .scalar (.tokPop _) => true
  | _ => false
/-- Words that write a flag of a join bit: in slot order, so that the higher strand's value stands (R126). -/
def setsFlag : AnyWord → Bool
  | .scalar (.jbset _) | .scalar (.jbclr _) => true
  | _ => false
/-- Words whose effect the other words of their cycle do not see (R179, R194). -/
def actsLast : AnyWord → Bool
  | .scalar (.lpSet _) | .scalar (.lpStride _) | .scalar (.lpRun _) => true
  | .wide w => (match w.view with
    | .cf _ _ => true
    | _ => false)
  | _ => false
/-- The order in which the slots of one cycle take effect. -/
def slotOrder (ws : List SlotWord) : List SlotWord :=
  ws.filter (fun w => actsFirst w.word) ++ ws.filter (fun w => setsFlag w.word) ++
    ws.filter (fun w => !actsFirst w.word && !setsFlag w.word && !actsLast w.word) ++ ws.filter fun w => actsLast w.word
/-- Every slot takes effect; a slot that finds no room left by another of its bundle makes the bundle wait. -/
def State.runSlots (s : State) (h : Header) : List SlotWord → Except Strand State
  | [] => .ok s
  | w :: r =>
    let s1 := (s.atSlot h w).run w.word
    if s1.cur.res == .done then s1.runSlots h r else .error w.slot
/-- A stall: the slot's strand says for what; blocked cycles on a queue register or a token are counted (R134). Only a wait for
landing vector results lets the pipeline run (R128). -/
def State.stalled (s : State) (c : CoreId) (x : Ctx) (u : List Strand) : State :=
  let s1 := s.modUnit c x u fun t => match t.life with
    | .waiting .queueReg | .waiting .token => { t with blocked := t.blocked + 1 }
    | _ => { t with blocked := 0 }
  if u.any fun p => (s1.strand c x p).life == .waiting .drain then s1.modUnit c x u StrandSt.cycle else s1
/-- EXITQ of a strand whose exit.ab discarded commands: the bundle has taken effect, the strand is to end (R117). -/
def State.exitTraps (s : State) (c : CoreId) (x : Ctx) (u : List Strand) : State :=
  match u.findSome? fun p => (s.strand c x p).exitq.map fun q => (p, q) with
  | none => s
  | some (p, n, hdr, len) =>
    (s.modStrand c x p fun t => { t with exitq := none, ending := true }).modCore c fun k =>
      k.takeTrap x p .exitq p false len hdr (BitVec.ofNat 64 n)
/-- The bundle's words issue. A matrix word that a cp.mm would carry pops its tokens and starts no command of its own also when the
guard of that cp.mm is false (R188, log 69). -/
def State.issueWords (s : State) (c : CoreId) (x : Ctx) (u : List Strand) (h : Header) (len : Nat) (ws : List SlotWord) : State :=
  let hdr := s.cur.hdr
  let joint := h.sync == 1
  let ws := ws.filter fun w => (s.ctx c x).slotIssues hdr (maskBit h.first w.slot) (maskBit h.last w.slot)
  let carried := ws.any (·.slot == .X) && ws.any fun w => (match w.word with
    | .wide (.cpMm _) => true
    | _ => false)
  let s := { s with cur := { s.cur with carried := carried } }
  match s.blocked? h ws with
  | some s1 => if s1.cur.res == .trapped then s1 else s1.stalled c x u
  | none => match s.runSlots h (slotOrder ws) with
    | .error p => (s.modStrand c x p fun t => { t with life := .waiting .interlock }).stalled c x u
    | .ok s1 =>
      let s2 := s1.modUnit c x u fun t => { t.dropPages none with blocked := 0, delayed := false }
      let s3 := s2.goOn c x u hdr (hdr + BitVec.ofNat 57 (4 * len)) joint
      let s4 := (s3.modUnit c x u StrandSt.cycle).exitTraps c x u
      let s5 := if x == .fw && (s.core c).pays u then s4.modCore c fun k => { k with fwCredit := k.fwCredit - 1 } else s4
      s5.drainCtx c x

/-! ## The event -/

/-- The context at whose boundary firmware issues: the active one, unless it is empty or held, then its sibling, then the one last named
by ctx.sv or ctx.ld (R197, R231, R355). -/
def CoreSt.boundaryNow (k : CoreSt) : Ctx :=
  (([k.active, k.active.sibling].find? fun x => (k.ctx x).busy && !(k.ctx x).held)).getD k.named
/-- The focus moves to the unit's next bundle; what the last bundle of the context left is put away. -/
def State.begin (s : State) (c : CoreId) (x : Ctx) (u : List Strand) (lead : Strand) : State :=
  let s1 := Strand.all.foldl (fun s p => s.modStrand c x p fun t => { t with redirect := none, forced := none }) s
  let s2 := s1.modUnit c x u fun t => { t with life := .running }
  { (s2.modCore c fun k => if x == .fw then { k with boundary := k.boundaryNow } else k) with
    cur := { s.cur with core := c, ctx := x, strand := lead, hdr := (s.strand c x lead).pc, at_ := (s.strand c x lead).pc, len := 0
                        sqd := false, joined := false, ticket := (s.ctx c x).ticket, serial := (s.ctx c x).serial, carried := false, xword := none, res := .done } }
/-- The header's checks, and the cycles of its DLY; then the words (R36, R59, R97). -/
def State.checkHeader (s : State) (c : CoreId) (x : Ctx) (u : List Strand) (lead : Strand) (hdr len : Nat)
    (go : Header → Bool → State) : State :=
  let pc := s.cur.hdr
  match decodeHeader hdr with
  | none => s.bundleTrap (headerTrap lead .illegal 0 pc)
  | some h =>
    let joint := h.sync == 1
    if joint != (s.strand c x lead).joined then s.bundleTrap (headerTrap lead .slot len pc)
    else if h.dly != 0 && !(s.strand c x lead).delayed then
      s.modUnit c x u fun t => { t.cycle with delayed := true, bubble := h.dly.toNat - 1 }
    else go h joint
/-- A bundle that has been framed is checked and issues. -/
def State.issueBundle (s : State) (c : CoreId) (x : Ctx) (u : List Strand) (lead : Strand) (hdr : Nat) (fs : List Framed) (len : Nat) :
    State :=
  s.checkHeader c x u lead hdr len fun h joint => match checkWords lead u x joint len (xWord fs) fs with
    | .error t => s.bundleTrap t
    | .ok ws => ({ s with cur := { s.cur with len := len, joint := joint, xword := xWord fs } }).issueWords c x u h len ws
/-- A fetch of the bundle that gives no parcel: a fault at its address, or a stall. -/
def State.fetchFails (s : State) (c : CoreId) (x : Ctx) (u : List Strand) (lead : Strand) : Fetch → State
  | .ok s1 _ => s1
  | .fault .page a => s.clearRefused.bundleTrap (headerTrap lead .page 0 a)
  | .fault cause a => s.bundleTrap (headerTrap lead cause 0 a)
  | .stalls s1 => (s1.stall .page).stalled c x u
/-- A bundle some of whose words cannot be fetched: the header's checks come first, then those of the words before (R59). A word of X
that is not there stands for any, for the checks of a cp.mm. -/
def State.issueShort (s : State) (c : CoreId) (x : Ctx) (u : List Strand) (lead : Strand) (hdr : Nat) (fs : List Framed) (why : Fetch) :
    State :=
  s.checkHeader c x u lead hdr 0 fun _ joint =>
    let xw := if bitOf hdr (3 + Strand.X.num) && !fs.any (·.slot == .X) then some (.mzero MX.zero) else xWord fs
    match checkWords lead u x joint 0 xw fs with
    | .error t => s.bundleTrap t
    | .ok _ => s.fetchFails c x u lead why
/-- BUNDLE_ISSUE: one cycle of the unit of strand `p`. Nothing happens while the unit may not issue. -/
def execBundleIssue (c : CoreId) (x : Ctx) (p : Strand) (s : State) : Out :=
  .next (
    let u := (s.ctx c x).unit p
    match u with
    | [] => s
    | lead :: _ =>
      if !(s.core c).mayIssue x u then s
      else if (s.strand c x lead).bubble != 0 then
        (s.modUnit c x u fun t => { t.cycle with bubble := t.bubble - 1 }).tick c
      else
        let s0 := s.begin c x u lead
        (((match u.findSome? fun p => ((s.ctx c x).meStall p).map fun w => (p, w) with
        | some (p, w) => ((s0.modStrand c x p fun t => { t with life := .waiting w }).stalled c x u).drainCtx c x
        | none => match s0.frame s0.cur.hdr with
          | .noHeader => s0.bundleTrap (headerTrap lead .illegal 0 s0.cur.hdr)
          | .fault cause a => s0.fetchFails c x u lead (.fault cause a)
          | .stalls s1 => s0.fetchFails c x u lead (.stalls s1)
          | .short hdr fs why => s0.issueShort c x u lead hdr fs why
          | .ok s1 hdr fs len => s1.issueBundle c x u lead hdr fs len).unparkTrapped c x).firmwareFault c).tick c)

end Sys2Proof.Machine
end

