-- ==== Sys2Proof/Machine/Mailbox.lean ====
section
/-! DEFINITION. The mailbox commands of the resident service (R358, R359, R363-R365, R371-R374). -/
namespace Sys2Proof.Machine

/-! ## Requests and responses (R372) -/

/-- What a command answers: the state after it, STATUS and the response body. -/
structure Reply where
  s : State
  status : BitVec 16
  body : List Byte
def done (s : State) (body : List Byte := []) : Reply := ⟨s, 0, body⟩
/-- Refused by a rule. -/
def refused (s : State) : Reply := ⟨s, 1, []⟩
def malformed (s : State) : Reply := ⟨s, 2, []⟩
def forbidden (s : State) : Reply := ⟨s, 3, []⟩
def exhausted (s : State) : Reply := ⟨s, 4, []⟩
def inUse (s : State) : Reply := ⟨s, 5, []⟩
/-- The request area with a request in it (R372). -/
def placeReq (rq : Req) (a : Store) : Store :=
  (a.write 0 16 (pack [(16, rq.op.toNat), (16, 0), (32, rq.seq.toNat), (32, rq.len.toNat), (32, 0)])).writeList 16 (rq.body.take 1968)
/-- A write of REQDB equal to RSPSEQ is ignored, and every one while a request is being served; the service goes on with that request
alone. -/
def Mail.ignores (m : Mail) (rq : Req) : Bool :=
  if rq.again then m.busy != some rq.seq || m.op != rq.op else m.busy.isSome || rq.seq == m.rspseq
/-- Serves a request for the command of an OP; none while the package is in recovery. A header whose OP is another, or whose LEN
exceeds its area, is malformed (R373). A command that answers nothing yet keeps the mailbox busy. -/
def State.serve (s : State) (rq : Req) (op : BitVec 16) (f : State → Except State Reply) : State :=
  let m := { s.mail rq.fn with area := placeReq rq (s.mail rq.fn).area }
  if !s.pkg.running || (s.mail rq.fn).ignores rq then s
  else match (if rq.op != op || 1968 < rq.len.toNat then .ok (malformed s) else f s) with
    | .error s1 => s1.setMail rq.fn { m with busy := some rq.seq, op := op }
    | .ok r =>
      let detail := if r.status == 1 then Config.freeDetail s.draws else 0
      let s1 := if r.status == 1 then { r.s with draws := r.s.draws + 1 } else r.s
      (s1.setMail rq.fn ⟨m.area, rq.seq, none, rq.op, r.status, detail, r.body⟩).sendVec rq.fn 0
def State.serveNow (s : State) (rq : Req) (op : BitVec 16) (f : State → Reply) : State := s.serve rq op fun s => .ok (f s)
/-- A command of the physical function alone. -/
def State.pfOnly (s : State) (rq : Req) (op : BitVec 16) (f : State → Reply) : State :=
  s.serveNow rq op fun s => match rq.fn with
    | .pf => f s
    | .vf _ => forbidden s
/-- The partition of a requesting virtual function. -/
def State.callerPart (s : State) (rq : Req) : Option PartId :=
  match rq.fn with
  | .pf => none
  | .vf v => s.partOfVf v
/-- The physical function, or a virtual function of this partition. -/
def State.mayActOn (s : State) (rq : Req) (p : PartId) : Bool := rq.fn == .pf || s.callerPart rq == some p
def partNum (p : BitVec 8) : Option PartId := if p.toNat < 64 then some (p.setWidth 6) else none

/-! ## Partitions and their resources (R363) -/

/-- The tasks that live in an image: those of the service, and those that firmware has saved and not loaded since. -/
def State.savedTasks (s : State) : List Image := s.pkg.saved ++ s.pkg.images.filter (·.out)
/-- A task of the partition lives, in a context or saved. -/
def State.partLives (s : State) (p : PartId) : Bool :=
  !(s.tasksOf p fun _ => true).isEmpty || s.savedTasks.any fun g => g.k.part == p
/-- PART.CREATE: an empty partition; its counters go on. -/
def execPartCreate (rq : Req) (p : BitVec 8) (s : State) : Out :=
  .next (s.pfOnly rq 0x0001 fun s => match partNum p with
    | none => refused s
    | some q => if (s.part q).made then refused s
      else done (s.modPart q fun t => { Partition.reset with made := true, counters := t.counters, misses := t.misses }))
/-- Ends the ownership of every quarter that a test picks. -/
def State.freeQuarters (s : State) (p : PartId) : State :=
  let f (q : Quarter) : Quarter := if q.owned p then q.assign 0 false else q
  { s with clusters := s.clusters.map fun k => { k with pos := k.pos.map fun q => { q with half0 := f q.half0, half1 := f q.half1 } } }
/-- An owner byte of a link: V and OWNER of a lane pair. -/
def Link.setOwner (l : Link) (j : Nat) (b : Nat) : Link :=
  { l with owner := BitVec.ofNat 64 (l.owner.toNat - field l.owner.toNat (8 * j) 8 * 2 ^ (8 * j) + b * 2 ^ (8 * j)) }
def Link.ownerByte (l : Link) (j : Nat) : Nat := field l.owner.toNat (8 * j) 8
/-- A runlist entry is freed: its queue leaves. -/
def State.dropQueue (s : State) (d : DieId) (n : BitVec 12) : State :=
  (s.stopQueue d n).modDie d fun k => { k with queues := k.queues.filter (·.num != n) }
/-- HEATER of every core, when owners have changed (R378). -/
def State.allHeaters (s : State) : State := (List.finRange 48).foldl (fun s k => s.setHeaters k) s
/-- PART.DESTROY: every resource goes back to the house. -/
def State.destroy (s : State) (p : PartId) : State :=
  let s1 := (s.pkg.frames.filter (·.part == p)).foldl (fun s r => s.unscrubRange r.first r.count) s
  let s2 := (s1.pkg.runOwner.filter (·.2.2 == p)).foldl (fun s r => s.dropQueue r.1 r.2.1) s1
  let s3 := s2.freeQuarters p
  let owns (b : Nat) : Bool := b == 128 + p.toNat
  let s4 := { s3 with dies := s3.dies.map fun (d : Die) => { d with ring := d.ring.map fun (e : Bool × PartId) => if e.1 && e.2 == p then (false, 0) else e } }
  ((s4.modPkg fun k => { k with
    coreOwner := k.coreOwner.map fun o => if o == some p then none else o,
    endpoints := k.endpoints.filter (·.2.2 != p), frames := k.frames.filter (·.part != p), delayed := k.delayed.filter (·.req.dst != p), runOwner := k.runOwner.filter (·.2.2 != p), vfs := k.vfs.filter (·.2 != p)
    services := k.services.filter fun e => !(s.pkg.runOwner.any fun r => r.1.val == e.die.toNat && r.2.1 == e.queue && r.2.2 == p),
    links := k.links.map fun l => (List.range 8).foldl (fun l j => if owns (l.ownerByte j) then l.setOwner j 0 else l) l }).modPart p
      fun t => { Partition.reset with counters := t.counters, misses := t.misses }).allHeaters
def execPartDestroy (rq : Req) (p : BitVec 8) (s : State) : Out :=
  .next (s.pfOnly rq 0x0002 fun s => match partNum p with
    | none => refused s
    | some q =>
      if !(s.part q).made then refused s
      else if s.partLives q then inUse s
      else done (s.destroy q))
/-- What one item of PART.ASSIGN does. -/
inductive Assign where
  | ok (s : State)
  | no
  | live
/-- A resource goes from the house to a partition, or back. -/
def handOver (add : Bool) (p : PartId) (owner : Option PartId) (live : Bool) (s1 : State) : Assign :=
  if owner != (if add then none else some p) then .no else if live then .live else .ok s1
/-- A resource may not go from one partition to another at once: it passes through the house (R363). -/
def steals (old new : Option PartId) : Bool := match old, new with
  | some a, some b => a != b
  | _, _ => false
/-- The partition that an owner byte of a link names: V and OWNER (R400). -/
def byteOwner (b : Nat) : Option PartId := if b / 128 % 2 = 1 then some (BitVec.ofNat 6 b) else none
/-- A task lives at a core position of a cluster. -/
def State.posLives (s : State) (k : ClusterId) (p : Fin 4) : Bool := [Ctx.t0, .t1].any fun x => (s.ctx (coreAt k p) x).busy
/-- What a new state of a cluster's registers does to the owners of its quarters: one that is taken from another partition, or one
that a live task of its position uses. -/
def State.moveQuarters (s : State) (k : ClusterId) (c : Cluster) : Assign :=
  let halves (q : Position) : List (Option PartId) := [q.half0.holder, q.half1.holder]
  let ps := (List.finRange 4).map fun p => (p, halves (s.cluster k).pos[p.val], halves c.pos[p.val])
  if ps.any fun q => (q.2.1.zip q.2.2).any fun o => steals o.1 o.2 then .no
  else if ps.any fun q => q.2.1 != q.2.2 && s.posLives k q.1 then .live
  else .ok ((s.modCluster k fun _ => c).setHeaters k)
/-- A flit brings a command or its answer. -/
def OutFlit.isCommand : OutFlit → Bool
  | .request _ | .answer _ _ => true
  | .ack _ | .replay _ => false
/-- A link carries a command in flight: a request of ours that is not answered, one of another package that waits here, or a flit of
either that is not acknowledged (R400). -/
def State.linkBusy (s : State) (l : Fin 12) : Bool :=
  (s.parts.any fun t => t.peers.any fun p => p.kind == 0 && p.sent.any fun r => r.path.toNat / 8 == l.val) ||
    (s.pkg.delayed.any fun q => q.sub.any fun n => n.val / 8 == l.val) ||
    (List.finRange 96).any fun n => n.val / 8 == l.val && s.subUp n.val && (s.pkg.subs[n.val]).held.any (·.2.isCommand)
def State.assignCore (s : State) (p : PartId) (add : Bool) (v : Nat) : Assign :=
  if h : v < 192 then
    let c : CoreId := ⟨v, h⟩
    handOver add p s.pkg.coreOwner[v] ((s.ctx c .t0).busy || (s.ctx c .t1).busy)
      (s.modPkg fun k => { k with coreOwner := k.coreOwner.set v (if add then some p else none) })
  else .no
def State.assignRing (s : State) (p : PartId) (add : Bool) (v : Nat) : Assign :=
  if h : v < 256 then
    let d : DieId := ⟨v / 64, by omega⟩
    let e := (s.die d).ring[v % 64]
    handOver add p (if e.1 then some e.2 else none) false
      (s.modDie d fun k => { k with ring := k.ring.set (v % 64) (if add then (true, p) else (false, 0)) })
  else .no
def State.assignQuarter (s : State) (p : PartId) (add : Bool) (v : Nat) : Assign :=
  if h : v < 384 then
    let k : ClusterId := ⟨v / 8, by omega⟩
    let q := (s.cluster k).pos[v / 2 % 4]
    let x := if v % 2 = 0 then q.half0 else q.half1
    let live := s.posLives k ⟨v / 2 % 4, Nat.mod_lt _ (by decide)⟩
    let y := if add then x.assign p true else x.assign 0 false
    handOver add p x.holder live
      (s.modCluster k fun c => c.modPos ⟨v / 2 % 4, Nat.mod_lt _ (by decide)⟩ fun q => if v % 2 = 0 then { q with half0 := y } else { q with half1 := y })
  else .no
def State.assignFrames (s : State) (p : PartId) (add : Bool) (v : Nat) : Assign :=
  let first := v % 2 ^ 32
  let count := v / 2 ^ 32
  if add then
    let free := !s.pkg.frames.any fun r => r.first < first + count && first < r.first + r.count
    if count = 0 || !free || !dataArea (first * frameBytes) || !dataArea ((first + count) * frameBytes - 1) ||
        first / 2 ^ 20 != (first + count - 1) / 2 ^ 20 then .no
    else .ok ((s.unscrubRange first count).modPkg fun k => { k with frames := k.frames ++ [⟨first, count, p⟩] })
  else if s.pkg.frames.contains ⟨first, count, p⟩ then
    if s.partLives p then .live
    else .ok ((s.unscrubRange first count).modPkg fun k => { k with frames := k.frames.filter (· != ⟨first, count, p⟩) })
  else .no
def State.assignSub (s : State) (p : PartId) (add : Bool) (v : Nat) : Assign :=
  if h : v < 96 then
    let l : Fin 12 := ⟨v / 8, by omega⟩
    let b := (s.pkg.links[l.val]).ownerByte (v % 8)
    if (subWidth s.pkg.links[l.val].split (v % 8)).isNone || s.linkBusy l then .no
    else handOver add p (byteOwner b) false
      (s.modLink l fun k => k.setOwner (v % 8) (if add then 128 + p.toNat else 0))
  else .no
def State.assignRunlist (s : State) (p : PartId) (add : Bool) (v : Nat) : Assign :=
  if h : v < 16384 then
    let d : DieId := ⟨v / 4096, by omega⟩
    let n : BitVec 12 := BitVec.ofNat 12 v
    let owner := (s.pkg.runOwner.find? fun r => r.1 == d && r.2.1 == n).map (·.2.2)
    let live := taskContexts.any fun q => (s.ctx q.1 q.2).busy && (s.ctx q.1 q.2).task.die.toNat == d.val && (s.ctx q.1 q.2).task.queue == n
    handOver add p owner live
      (if add then s.modPkg fun k => { k with runOwner := k.runOwner ++ [(d, n, p)] }
      else (s.dropQueue d n).modPkg fun k => { k with runOwner := k.runOwner.filter fun r => !(r.1 == d && r.2.1 == n) })
  else .no
def State.assign (s : State) (p : PartId) (kind : Nat) (add : Bool) (v : Nat) : Assign :=
  match kind with
  | 1 => s.assignCore p add v
  | 2 => s.assignRing p add v
  | 3 => s.assignQuarter p add v
  | 4 => s.assignFrames p add v
  | 5 => s.assignSub p add v
  | _ => s.assignRunlist p add v
/-- The items in order, up to the first that is refused; the response counts those done. -/
def State.assignAll (s : State) (p : PartId) (kind : Nat) (add : Bool) (n : Nat) : List Word → Reply
  | [] => done s (bytesOf 8 n)
  | v :: r => match s.assign p kind add v.toNat with
    | .ok s1 => s1.assignAll p kind add (n + 1) r
    | .no => ⟨s, 1, bytesOf 8 n⟩
    | .live => ⟨s, 5, bytesOf 8 n⟩
/-- PART.ASSIGN: an item is a core; 64 × die + ring entry; 8 × cluster + 2 × position + half; first frame in 31:0 and count in
63:32; 8 × link + pair; 4,096 × die + runlist entry (log 23). -/
def execPartAssign (rq : Req) (p : BitVec 8) (kind : BitVec 8) (add : BitVec 8) (items : List Word) (s : State) : Out :=
  .next (s.pfOnly rq 0x0003 fun s => match partNum p with
    | none => refused s
    | some q =>
      if kind.toNat < 1 || 6 < kind.toNat || (add != 1 && add != 2) then malformed s
      else if !(s.part q).made then refused s
      else
        let r := s.assignAll q kind.toNat (add == 1) 0 items
        { r with s := r.s.allHeaters })
/-- VF.BIND (R365). -/
def execVfBind (rq : Req) (v : VfId) (p : BitVec 8) (s : State) : Out :=
  .next (s.pfOnly rq 0x0004 fun s =>
    let live := taskContexts.any fun q => (s.ctx q.1 q.2).busy && (s.ctx q.1 q.2).vf == v
    if p == 0xFF then
      if live then inUse s else done (s.modPkg fun k => { k with vfs := k.vfs.filter (·.1 != v) })
    else match partNum p with
      | none => refused s
      | some q =>
        if !(s.part q).made || (s.partOfVf v).isSome || (s.pkg.vfs.filter (·.2 == q)).length ≥ 16 then refused s
        else done (s.modPkg fun k => { k with vfs := k.vfs ++ [(v, q)] }))

/-! ## Control words (R373) -/

def windowWord (w : Window) : Nat := pack [(12, w.base.toNat), (1, w.valid.toNat), (5, 0), (6, w.size.toNat), (12, w.wtq.toNat)]
def windowOf (v : Nat) : Window := ⟨BitVec.ofNat 12 (v / 2 ^ 24), BitVec.ofNat 6 (v / 2 ^ 18), bitOf v 12, BitVec.ofNat 12 v⟩
def peerWord0 (p : Peer) : Nat :=
  pack [(10, p.rpkg.toNat), (6, p.rpart.toNat), (9, 0), (1, p.v.toNat), (1, p.sel.toNat), (1, p.p1v.toNat), (7, p.path0.toNat),
    (7, p.path1.toNat), (1, p.kind.toNat)]
/-- Windows may not overlap, and the quotas of a die sum to at most 4,096 (R308, R311). -/
def State.windowOk (s : State) (p : PartId) (d : DieId) (w : Window) : Bool :=
  let others := (allParts.filter (· != p)).map fun q => (s.part q).window[d.val]
  (!w.valid || (w.base.toNat + w.size.toNat + 1 ≤ 4096 && others.all fun o =>
    !o.valid || !overlaps o.base.toNat (o.size.toNat + 1) w.base.toNat (w.size.toNat + 1))) &&
    w.wtq.toNat + sumBy others (·.wtq.toNat) ≤ 4096
/-- A 4 KiB unit of the window space lies in a window. -/
def Window.has (w : Window) (u : Nat) : Bool := w.valid && w.base.toNat ≤ u && u ≤ w.base.toNat + w.size.toNat
/-- A window word says where the window lies, its quota apart. -/
def Window.same (v w : Window) : Bool := v.valid == w.valid && v.base == w.base && v.size == w.size
/-- A sync window word; the units that come to the partition are zeroed. -/
def State.setWindow (s : State) (p : PartId) (d : DieId) (w : Window) : State :=
  let old := (s.part p).window[d.val]
  let units := ((List.range (w.size.toNat + 1)).map fun i => w.base.toNat + i).filter fun u => w.has u && !old.has u
  (s.modPart p fun t => { t with window := t.window.set d.val w }).modDie d fun k =>
    { k with window := units.foldl (fun m u => m.clear (u * 4096) 4096) k.window }
/-- A park area overlaps that of another partition. -/
def State.parkTaken (s : State) (p : PartId) (base size : Nat) : Bool :=
  base != 0 && (allParts.filter fun q => q != p && (s.part q).made && (s.part q).parkBase != 0).any fun q =>
    overlaps (s.part q).parkBase.toNat ((s.part q).parkSize.toNat + 1) base (size + 1)
/-- The endpoint of an Ethernet port that a partition has, or the lowest-numbered that is free (R417, log 77). -/
def State.endpointFor (s : State) (p : PartId) (port : BitVec 3) : Option (BitVec 8) :=
  let l := s.pkg.endpoints.filter (·.1 == port)
  match l.find? (·.2.2 == p) with
  | some e => some e.2.1
  | none => ((List.range 256).map (BitVec.ofNat 8)).find? fun n => !l.any (·.2.1 == n)
/-- Ethernet ports that a partition's peers name. -/
def Partition.ports (t : Partition) : List (BitVec 3) :=
  (t.peers.toList.filter fun e => e.v && e.kind == 1).flatMap fun e =>
    e.path0.setWidth 3 :: (if e.p1v then [e.path1.setWidth 3] else [])
/-- Each partition has one endpoint of each port that its peers name, and none of another (R417, log 77). -/
def State.settleEndpoints (s : State) (p : PartId) : State :=
  let ports := (s.part p).ports
  let s1 := s.modPkg fun k => { k with endpoints := k.endpoints.filter fun e => e.2.2 != p || ports.contains e.1 }
  ports.foldl (fun s q => match s.endpointFor p q with
    | some n => s.modPkg fun k => { k with endpoints := if k.endpoints.contains (q, n, p) then k.endpoints else k.endpoints ++ [(q, n, p)] }
    | none => s) s1
/-- A peer entry is refused as R402 says; which ports a partition may use is not said (log 77). -/
def State.peerOk (s : State) (p : PartId) (w : Nat) : Bool :=
  let path (lo : Nat) : Bool :=
    let n := field w lo 7
    if h : n < 96 then
      (subWidth (s.pkg.links[n / 8]).split (n % 8)).isSome && s.subUp n && s.subOwned p n && (s.pkg.subs[n]).pkg.toNat == field w 0 10
    else false
  let port (lo : Nat) : Bool := field w (lo + 3) 4 == 0 && Config.mayUsePort p.toNat (field w lo 3) &&
    (s.endpointFor p (BitVec.ofNat 3 (field w lo 3))).isSome
  if !bitOf w 25 then true
  else if bitOf w 42 then port 28 && (!bitOf w 27 || port 35) && field w 0 10 == 0
  else field w 0 10 != s.pkg.number.toNat && path 28 && (!bitOf w 27 || path 35)
/-- Writes a peer entry: SEL is read-only, and the numbers of its pair start again at 0 (R402, R410); commands that the old entry had not
finished end with ECCUE (log 84). -/
def State.setPeer (s : State) (p : PartId) (n : Fin 64) (w0 w1 : Nat) : State :=
  ((s.failPeer p (BitVec.ofNat 6 n.val)).modPart p fun t => { t with peers := t.peers.set n.val { t.peers[n.val] with
    kind := BitVec.ofNat 1 (w0 / 2 ^ 42), path1 := BitVec.ofNat 7 (w0 / 2 ^ 35), path0 := BitVec.ofNat 7 (w0 / 2 ^ 28)
    p1v := bitOf w0 27, v := bitOf w0 25, rpart := BitVec.ofNat 6 (w0 / 2 ^ 10), rpkg := BitVec.ofNat 10 w0
    remep := BitVec.ofNat 32 w1 } }).modPair p (BitVec.ofNat 6 n.val) fun e => { e with next := 0, high := none, done := [] }
/-- Split and owner register of a link (R400); an owner byte does not take a sub-link from another partition (R363). -/
def State.setLink (s : State) (i v : Nat) : Option State :=
  if h : i / 2 < 12 then
    let l : Fin 12 := ⟨i / 2, h⟩
    let k := s.pkg.links[l.val]
    if s.linkBusy l then none
    else if i % 2 = 0 then
      let sp : BitVec 24 := BitVec.ofNat 24 v
      if !splitOk sp then none else some (s.modLink l fun k => { k with split := sp, up := if sp == k.split then k.up else 0 })
    else
      let bad := (List.range 8).any fun j => ((subWidth k.split j).isNone && (bitOf v (8 * j + 7) || field v (8 * j) 6 != 0)) ||
        steals (byteOwner (k.ownerByte j)) (byteOwner (field v (8 * j) 8))
      if bad then none else some (s.modLink l fun k => { k with owner := BitVec.ofNat 64 v &&& 0xBFBFBFBFBFBFBFBF })
  else none
/-- A service-table entry of eight words (R391). -/
def serviceOf (i : BitVec 10) (m : Nat) : Service :=
  { index := i, svc := BitVec.ofNat 32 m, ports := BitVec.ofNat 8 (m / 2 ^ 32), v := bitOf m 40, dbg := bitOf m 41
    die := BitVec.ofNat 4 (m / 2 ^ 60), queue := BitVec.ofNat 12 (m / 2 ^ 48), rcb := BitVec.ofNat 64 (m / 2 ^ 64)
    slot := BitVec.ofNat 8 (m / 2 ^ 128), maxlen := BitVec.ofNat 32 (m / 2 ^ 160), bufring := BitVec.ofNat 64 (m / 2 ^ 192)
    args := Vector.ofFn fun j => BitVec.ofNat 64 (m / 2 ^ (256 + 64 * j.val)) }
def serviceWord (e : Service) : Nat :=
  pack [(32, e.svc.toNat), (8, e.ports.toNat), (1, e.v.toNat), (1, e.dbg.toNat), (6, 0), (12, e.queue.toNat), (4, e.die.toNat),
    (64, e.rcb.toNat), (8, e.slot.toNat), (24, 0), (32, e.maxlen.toNat), (64, e.bufring.toNat), (64, e.args[0].toNat),
    (64, e.args[1].toNat), (64, e.args[2].toNat), (64, e.args[3].toNat)]
def insertService (e : Service) : List Service → List Service
  | [] => [e]
  | f :: r => if e.index.toNat < f.index.toNat then e :: f :: r else f :: insertService e r
def wordsOfList : List Word → Nat
  | [] => 0
  | w :: r => w.toNat + 2 ^ 64 * wordsOfList r
def ifOk (o : Option State) : Assign := match o with
  | some s => .ok s
  | none => .no
/-- Writes a control word; it is refused, or a live task holds what it would move (R363). -/
def State.writeControl (s : State) (p : PartId) (kind i v : Nat) : Assign :=
  match kind with
  | 1 => if h : i < 4 then
      let w := windowOf v
      if !s.windowOk p ⟨i, h⟩ w then .no
      else if s.partLives p && !w.same ((s.part p).window[i]) then .live
      else .ok (s.setWindow p ⟨i, h⟩ w)
    else .no
  | 2 =>
    let base : BitVec 45 := BitVec.ofNat 45 (v / 4096)
    let size : BitVec 12 := BitVec.ofNat 12 v
    if s.parkTaken p base.toNat size.toNat then .no
    else if s.partLives p && (base != (s.part p).parkBase || size != (s.part p).parkSize) then .live
    else .ok (s.modPart p fun t => { t with parkBase := base, parkSize := size })
  | 3 => .ok (s.modPart p fun t => { t with thr := BitVec.ofNat 8 (v / 256), blk := BitVec.ofNat 4 v })
  | 4 => .ok (s.modPart p fun t => { t with split := BitVec.ofNat 5 v })
  | 5 => if v % 4 = 3 then .no
    else .ok (s.modPart p fun t => { t with
      capBase := BitVec.ofNat 45 (v / 4096), capSize := BitVec.ofNat 8 (v / 16), capMode := BitVec.ofNat 2 v
      cap := if v % 4 = 1 then ⟨[], [], [], []⟩ else t.cap, capFill := if v % 4 = 1 then 0 else t.capFill
      capLeft := if v % 4 = 2 then t.cap else ⟨[], [], [], []⟩ })
  | 6 => .ok (s.modPart p fun t => { t with inroot := BitVec.ofNat 45 (v / 4096), inen := bitOf v 0 })
  | 7 => if h : i < 64 then
      if s.peerOk p (v % 2 ^ 64) then .ok ((s.setPeer p ⟨i, h⟩ (v % 2 ^ 64) (v / 2 ^ 64)).settleEndpoints p) else .no
    else .no
  | 8 => if h : i < 192 then
      .ok (s.modCore ⟨i, h⟩ fun k => { k with tar := { k.tar with allow := BitVec.ofNat 16 v } })
    else .no
  | 9 => if h : i / 65536 < 48 then
      match (s.cluster ⟨i / 65536, h⟩).write (clusterReg (i % 65536)) (BitVec.ofNat 64 v) with
      | some k => s.moveQuarters ⟨i / 65536, h⟩ k
      | none => .no
    else .no
  | 10 => if h : i < 256 then
      let e := (s.die ⟨i / 64, by omega⟩).ring[i % 64]
      if steals (if e.1 then some e.2 else none) (if bitOf v 7 then some (BitVec.ofNat 6 v) else none) then .no
      else .ok (s.modDie ⟨i / 64, by omega⟩ fun k => { k with ring := k.ring.set (i % 64) (bitOf v 7, BitVec.ofNat 6 v) })
    else .no
  | 11 => ifOk (s.setLink i v)
  | 12 =>
    let e := serviceOf (BitVec.ofNat 10 i) v
    if i < 1024 && e.maxlen.toNat ≤ 2 ^ 20 then
      .ok (s.modPkg fun k =>
        let l := k.services.filter (·.index.toNat != i)
        { k with services := if serviceWord e = 0 then l else insertService e l })
    else .no
  | _ => .ok (s.modPkg fun k => { k with timePorts := BitVec.ofNat 8 v })
/-- Words of the value that a kind takes. -/
def controlWords (kind : Nat) : Nat := if kind = 7 then 2 else if kind = 12 then 8 else 1
/-- CTL.WRITE: a window index is a die; a core; 65,536 × cluster + register; 64 × die + ring entry; 2 × link, + 1 for the owner
register; a table index (log 23). -/
def execCtlWrite (rq : Req) (p : BitVec 8) (kind : BitVec 8) (index : Word) (val : List Word) (s : State) : Out :=
  .next (s.pfOnly rq 0x0005 fun s =>
    let k := kind.toNat
    if k < 1 || 13 < k || val.length != controlWords k then malformed s
    else match partNum p with
      | none => refused s
      | some q => match s.writeControl q k index.toNat (wordsOfList val) with
        | .ok s1 => done s1
        | .no => refused s
        | .live => inUse s)
/-- Reads a control word; none where there is none of that index. -/
def State.readControl (s : State) (p : PartId) (kind i : Nat) : Option Nat :=
  let t := s.part p
  match kind with
  | 1 => if h : i < 4 then some (windowWord t.window[i]) else none
  | 2 => some (t.parkBase.toNat * 4096 + t.parkSize.toNat)
  | 3 => some (t.thr.toNat * 256 + t.blk.toNat)
  | 4 => some t.split.toNat
  | 5 => some (t.capBase.toNat * 4096 + t.capSize.toNat * 16 + t.capMode.toNat)
  | 6 => some (t.inroot.toNat * 4096 + t.inen.toNat)
  | 7 => if h : i < 64 then some (peerWord0 t.peers[i] + 2 ^ 64 * (t.peers[i]).remep.toNat) else none
  | 8 => if h : i < 192 then some (s.core ⟨i, h⟩).tar.allow.toNat else none
  | 9 => if h : i / 65536 < 48 then some ((s.cluster ⟨i / 65536, h⟩).read (clusterReg (i % 65536))).toNat else none
  | 10 => if h : i < 256 then
      let e := (s.die ⟨i / 64, by omega⟩).ring[i % 64]
      some (e.2.toNat + 128 * e.1.toNat)
    else none
  | 11 => if h : i / 2 < 12 then
      let l := s.pkg.links[i / 2]
      some (if i % 2 = 0 then l.split.toNat else l.owner.toNat)
    else none
  | 12 => some (match s.pkg.services.find? (·.index.toNat == i) with
    | some e => serviceWord e
    | none => 0)
  | _ => some s.pkg.timePorts.toNat
/-- CTL.READ: the physical function every kind; a virtual function kinds 1 to 8 of its own partition, kind 8 of its cores alone. -/
def execCtlRead (rq : Req) (p : BitVec 8) (kind : BitVec 8) (index : Word) (s : State) : Out :=
  .next (s.serveNow rq 0x0006 fun s =>
    let k := kind.toNat
    match partNum p with
    | none => refused s
    | some q =>
      let foreign : Bool := if h : index.toNat < 192 then s.pkg.coreOwner[index.toNat] != some q else false
      if !s.mayActOn rq q || (rq.fn != .pf && (k > 8 || (k == 8 && foreign))) then forbidden s
      else if k < 1 || 13 < k then malformed s
      else match s.readControl q k index.toNat with
        | some v => done s (bytesOf (8 * controlWords k) v)
        | none => refused s)

/-! ## Regions, page tables and translations (R284-R287, R348) -/

/-- The checks of R348 on a node: fields in their limits, depth below its parent's, effective quotas in their ranges, shares of
the partitions' roots at most the whole. -/
def State.nodeOk (s : State) (node : Addr) (m : Nat) (p : PartId) : Bool :=
  let up := rcbParent m
  let s1 := { s with mem := s.mem.write node.toNat rcbBytes m }
  rcbFieldsOk m && (if rcbDepth m = 0 then up = 0 else rcbValid (s.rcb up) && rcbDepth m == rcbDepth (s.rcb up) + 1) &&
    resctlOk (s1.effResctl node) &&
    (rcbDepth m != 0 || field m 395 11 + sumBy ((allParts.filter fun q => q != p && (s.part q).made)) s.shareOf ≤ 1024)
/-- The partition whose tree a node belongs to: its root's, or for a root the one in whose house area it lies. -/
def State.treeOf (s : State) (node : Addr) (m : Nat) : PartId :=
  if rcbDepth m = 0 then Config.houseArea node
  else match s.rootOf (rcbParent m) with
    | some a => (allParts.find? fun p => (s.part p).root == a).getD (Config.houseArea a)
    | none => 0
/-- RCB.WRITE: a node lies in the house area of its tree's partition (R347), and a virtual function writes those of its own alone. The counters of a partition's root are the
partition's (R384). -/
def execRcbWrite (rq : Req) (node : Addr) (block : BitVec 2048) (s : State) : Out :=
  .next (s.serveNow rq 0x0007 fun s =>
    let m := block.toNat
    let p := s.treeOf node m
    if node.toNat % 256 != 0 then malformed s
    else if !s.mayActOn rq p || !s.mayActOn rq (Config.houseArea node) then forbidden s
    else if Config.houseArea node != p || !s.nodeOk node m p then refused s
    else
      let s1 := s.cpWrite node.toNat rcbBytes m
      if rcbDepth m != 0 then done s1
      else if rcbValid m then
        done ((s1.modPart p fun t => { t with root := node }).modPkg fun k => k.modRegion node fun r => { r with counters := (s.part p).counters })
      else done (s1.modPart p fun t => { t with root := if t.root == node then 0 else t.root }))
/-- Page-table roots of a partition: of its root region, of the regions of its queues, and its inbound root. -/
def State.rootsOf (s : State) (p : PartId) : List Addr :=
  let qs := (s.dies.toList.flatMap (·.queues)).filterMap fun q => q.copy.bind fun c => if s.queuePart c == some p then some (s.queueRoot c) else none
  ((if (s.part p).root = 0 then [] else [s.effRoot (s.part p).root]) ++ (if (s.part p).inroot = 0 then [] else [(s.part p).inroot.setWidth 57 <<< 12]) ++ qs).eraseDups
/-- Tables that a table leads to, by the entries of each level. -/
def tablesUnder (m : Store) : List Nat → Nat → List Nat
  | [], t => [t]
  | n :: r, t => t :: (List.range n).flatMap fun i =>
    let pte := m.read (t + 8 * i) 8
    if bitOf pte 0 && !bitOf pte 7 then tablesUnder m r (entryAddr pte) else []
/-- A range lies in a table of one of the partition's roots. -/
def State.inTables (s : State) (p : PartId) (a n : Nat) : Bool :=
  (s.rootsOf p).any fun r => (tablesUnder s.mem [512, 512, 512, 512] r.toNat).any fun t => t ≤ a && a + n ≤ t + 4096
/-- Frames that an entry maps. -/
def framesOfEntry (pte : Nat) : List Nat :=
  if !bitOf pte 0 then [] else (List.range (if bitOf pte 7 then 32 else 1)).map fun i => entryAddr pte / frameBytes + i
/-- Faults whose pages are present are served. -/
def State.settleFaults (s : State) : State :=
  (s.hbm.faults.filter fun f => s.unitResident f.root (pageOf f.va)).foldl (fun s f => s.restart f.root f.va.toNat ((s.leaf f.root f.va).elim frameBytes (·.2.2))) s
/-- PT.WRITE. -/
def execPtWrite (rq : Req) (house : Addr) (entries : List Word) (s : State) : Out :=
  .next (s.serveNow rq 0x0008 fun s =>
    let a := house.toNat
    if a % 8 != 0 || entries.length > 240 then malformed s
    else
      let may : Bool := match rq.fn with
        | .pf => true
        | .vf _ => match s.callerPart rq with
          | some p => s.inTables p a (8 * entries.length)
          | none => false
      if !may then forbidden s
      else
        let old := (List.range entries.length).flatMap fun i => framesOfEntry (s.mem.read (a + 8 * i) 8)
        let new := entries.flatMap fun e => framesOfEntry e.toNat
        let s1 := (entries.zip (List.range entries.length)).foldl (fun s (q : Word × Nat) => s.cpWrite (a + 8 * q.2) 8 q.1.toNat) s
        let s2 := { s1 with hbm := { s1.hbm with taken := (new ++ s1.hbm.taken.filter (!old.contains ·)).eraseDups } }
        done s2.settleFaults)
/-- TLB.INV: as tlb.inv at package scope, of a root; it completes once no matrix command from phase 3 on and no started remote access of
the range is left. -/
def execTlbInvCommand (rq : Req) (root : Addr) (base count : Word) (all : Bool) (s : State) : Out :=
  .next (s.serve rq 0x0009 fun s =>
    let may : Bool := match rq.fn with
      | .pf => true
      | .vf _ => match s.callerPart rq with
        | some p => (s.rootsOf p).contains root
        | none => false
    if !may then .ok (forbidden s) else 
      match invRange all base count with
      | none => .ok (done s)
      | some (va, size) =>
        let s1 := s.dropTlb fun t => t.root == root && t.va < va + size && va < t.va + t.size
        if s1.holdsPages (fun _ => true) root va size then .error s1 else .ok (done s1))

/-! ## Runlists (R331, R419) -/

/-- The lowest doorbell index that no queue of the function has. -/
def State.freeBell (s : State) (v : VfId) : Option (BitVec 10) :=
  let used := (s.dies.toList.flatMap (·.queues)).filterMap fun q =>
    if (qcbOf (s.mem.read q.qcb.toNat qcbBytes)).vf == v then q.bell else none
  ((List.range 1024).find? fun k => !used.contains (BitVec.ofNat 10 k)).map (BitVec.ofNat 10)
def newQueue (n : BitVec 12) (qcb : Addr) (bell : Option (BitVec 10)) : Queue :=
  { num := n, v := true, qcb := qcb, copy := none, reread := false, count := 0, rd := 0, err := 0, slot := none, fetched := [], ended := false
    started := [], opening := none, resend := false, held := none, lser := 0, bell := bell, owed := false }
def insertQueue (q : Queue) : List Queue → List Queue
  | [] => [q]
  | p :: r => if q.num.toNat < p.num.toNat then q :: p :: r else p :: insertQueue q r
/-- RUNLIST.SET: an entry with V = 1 makes the queue of a control block, with a doorbell index of its function; V = 0 ends it. -/
def execRunlistSet (rq : Req) (d : DieId) (n : BitVec 12) (qcb : Addr) (v : Bool) (s : State) : Out :=
  .next (s.serveNow rq 0x000A fun s =>
    let c := qcbOf (s.mem.read qcb.toNat qcbBytes)
    let owner := (s.pkg.runOwner.find? fun r => r.1 == d && r.2.1 == n).map (·.2.2)
    let mine : Bool := match rq.fn with
      | .pf => true
      | .vf f => c.vf == f && owner == s.callerPart rq && owner.isSome
    if qcb.toNat % 64 != 0 then malformed s
    else if !mine then forbidden s
    else if !v then done (s.dropQueue d n) (bytesOf 8 0)
    else match s.queue? d n with
      | some q => if q.qcb == qcb then done s (bytesOf 8 ((q.bell.map (·.toNat)).getD 0)) else refused s
      | none =>
        if s.dies.any fun k => k.queues.any (·.qcb == qcb) then refused s
        else match s.freeBell c.vf with
          | none => exhausted s
          | some k => done (s.modDie d fun e => { e with queues := insertQueue (newQueue n qcb (some k)) e.queues }) (bytesOf 8 k.toNat))

/-! ## Objects (R358, R359) -/

/-- A section record: type, offset, size; none when a reserved byte is not zero. -/
def sectionAt (image : List Byte) (i : Nat) : Option (Nat × Nat × Nat) :=
  let r := 64 + 32 * i
  if listWord image (r + 4) 4 != 0 || listWord image (r + 24) 8 != 0 then none
  else some (listWord image r 4, listWord image (r + 8) 8, listWord image (r + 16) 8)
/-- Bytes of the sections of a type, in order. -/
def sectionsOf (image : List Byte) (secs : List (Nat × Nat × Nat)) (ty : Nat) : List (List Byte) :=
  (secs.filter (·.1 == ty)).map fun q => (image.drop q.2.1).take q.2.2
/-- Names of the DATA blocks: strings that a zero byte ends. -/
def splitNames : List Byte → List Byte → List (List Byte)
  | acc, [] => if acc.isEmpty then [] else [acc]
  | acc, b :: r => if b = 0 then acc :: splitNames [] r else splitNames (acc ++ [b]) r
/-- The homes of a directory do not overlap one another or the directory and end within the scratch; ACC entries have at most
256 granules. -/
def homesOk (dir : List Byte) (n scrsz : Nat) : Bool :=
  let e (i : Nat) : Nat := listWord dir (16 * i) 16
  let range (i : Nat) : Nat × Nat := (e i % 2 ^ 45 * granule, entryGranules (e i) * granule)
  (List.range n).all fun i =>
    (field (e i) 54 2 != 2 || field (e i) 56 10 ≤ 255) && 16 * n ≤ (range i).1 && (range i).1 + (range i).2 ≤ scrsz &&
      (List.range i).all fun j => !overlaps (range i).1 (range i).2 (range j).1 (range j).2
/-- What the header and sections of an IVO object say; none when it is refused. -/
structure Ivo where
  entry : Nat
  dircnt : Nat
  scrsz : Nat
  text : List Byte
  segdir : List Byte
  segimg : List Byte
  data : List (List Byte)
  names : List (List Byte)
def parseIvo (image : List Byte) : Option Ivo :=
  let nsec := listWord image 18 2
  let secs := (List.range nsec).map (sectionAt image)
  let dircnt := listWord image 16 2
  let scrsz := listWord image 24 8
  if image.length < 64 || listWord image 0 4 != 0x314F5649 || listWord image 10 1 != 1 || listWord image 11 1 != 0 ||
      listWord image 20 4 != 0 || (List.range 32).any (fun i => listWord image (32 + i) 1 != 0) || secs.any Option.isNone || scrsz % 65536 != 0 then none
  else
    let ss := secs.filterMap id
    let dir := (sectionsOf image ss 2).flatten
    if ss.any (fun q => q.1 < 1 || 5 < q.1 || image.length < q.2.1 + q.2.2) || dir.length != 16 * dircnt || !homesOk dir dircnt scrsz then none
    else some ⟨listWord image 12 4, dircnt, scrsz, (sectionsOf image ss 1).flatten, dir, (sectionsOf image ss 3).flatten,
      sectionsOf image ss 4, splitNames [] (sectionsOf image ss 5).flatten⟩
/-- Bytes of a DATA block before its F map of one bit per 4-byte word. -/
def blockBytes (b : List Byte) : Nat := 32 * b.length / 33
/-- Maps the units of a range with permissions and writes bytes and F bits; none where no table reaches the address. -/
def State.placePages (s : State) (root : Addr) (va pa perm : Nat) (bs fm : List Byte) : Option (State × List (Nat × Nat)) :=
  let n := (bs.length + frameBytes - 1) / frameBytes
  let r := (List.range n).foldl (fun (q : Option (State × List (Nat × Nat))) i => q.bind fun (s, l) =>
    (s.leaf root (BitVec.ofNat 57 (va + i * frameBytes))).map fun (e, _, _) =>
      let f := pa / frameBytes + i
      ((s.giveFrame f frameBytes).setEntry e (f * frameBytes + perm + 1), l ++ [(e, f)])) (some (s, []))
  r.map fun (s, l) =>
    let m := s.mem.writeList pa bs
    ({ s with mem := (mapWords fm).foldl (fun m w => m.setF (pa + 4 * w) true) m, hbm := s.hbm.touch pa bs.length true }, l)
def permText : Nat := 64
def permData : Nat := 48
/-- Places TEXT and the DATA blocks by the plan; with CODE = 1 the host has placed them (R371). -/
def State.placeObject (s : State) (p : PartId) (v : Ivo) (plan : LoadPlan) : Option (State × List (Nat × Nat)) :=
  if (s.part p).split.getLsbD 4 then some (s, [])
  else (v.data.zip plan.data).foldl (fun (q : Option (State × List (Nat × Nat))) (b : List Byte × Addr × Addr) => q.bind fun (s, l) =>
      (s.placePages plan.root b.2.1.toNat b.2.2.toNat permData (b.1.take (blockBytes b.1)) (b.1.drop (blockBytes b.1))).map fun (s1, l1) => (s1, l ++ l1))
    (s.placePages plan.root plan.textVa.toNat plan.textPa.toNat permText v.text [])
def State.setSlot (s : State) (p : PartId) (n : BitVec 8) (o : Option ObjSlot) : State :=
  s.modPart p fun t => { t with slots := t.slots.filter (·.num != n) ++ o.toList }
/-- Bytes of host memory. -/
def State.hostBytes (s : State) (a : Word) (n : Nat) : List Byte := (List.range n).map fun i => s.hbm.host.byte (a.toNat + i)
/-- A slot into which an object is being loaded. -/
def loadingSlot (n : BitVec 8) (plan : LoadPlan) : ObjSlot :=
  { num := n, st := .loading, root := plan.root, entry := 0, dircnt := 0, scrsz := 0, segdir := [], segimg := [], data := [], pages := [] }
/-- The slot when the object is in it. -/
def loadedSlotOf (n : BitVec 8) (v : Ivo) (plan : LoadPlan) (pages : List (Nat × Nat)) : ObjSlot :=
  { num := n, st := .loaded, root := plan.root, entry := plan.textVa + BitVec.ofNat 57 (4 * v.entry), dircnt := BitVec.ofNat 16 v.dircnt
    scrsz := v.scrsz, segdir := v.segdir, segimg := v.segimg, pages := pages
    data := (v.names.zip plan.data).map fun (x : List Byte × Addr × Addr) => (x.1, x.2.1) }
/-- The names and addresses of the DATA blocks. -/
def ObjSlot.names (o : ObjSlot) : List Byte := o.data.flatMap fun x => x.1 ++ [0] ++ bytesOf 8 x.2.toNat
/-- Bytes that a response body may hold (R372). -/
def responseBytes : Nat := 2032
/-- The load of a slot that is LOADING ends: LOADED, or EMPTY again; an object whose names and addresses the response area does not
hold is refused (log 84). -/
def State.finishLoad (s : State) (p : PartId) (slot : BitVec 8) (image : List Byte) (plan : LoadPlan) : Reply :=
  let s0 := s.setSlot p slot none
  match parseIvo image with
  | none => refused s0
  | some v => match s0.placeObject p v plan with
    | none => exhausted s0
    | some (s1, pages) =>
      let o := loadedSlotOf slot v plan pages
      if responseBytes < o.names.length then exhausted s0 else done (s1.setSlot p slot (some o)) o.names
/-- OBJ.LOAD: an object at an address of the host goes into an EMPTY slot, which is LOADING until its pages are placed; the response
gives the address of each DATA block. The slot is that of the request: the object's own SLOT is not read (log 69). -/
def execObjLoad (rq : Req) (p : BitVec 8) (slot : BitVec 8) (image : HostImage) (plan : LoadPlan) (s : State) : Out :=
  .next (s.serve rq 0x000B fun s => match partNum p with
    | none => .ok (refused s)
    | some q =>
      if !s.mayActOn rq q then .ok (forbidden s)
      else match (s.part q).slots.find? (·.num == slot) with
        | some o => .ok (if o.st == .loading && rq.again then s.finishLoad q slot (s.hostBytes image.addr image.len) plan
            else refused s)
        | none => match parseIvo (s.hostBytes image.addr image.len) with
          | none => .ok (refused s)
          | some _ => .error (s.setSlot q slot (some (loadingSlot slot plan))))
/-- A task of the slot lives, a saved one too, or a LAUNCH that has been fetched or is being placed names it. -/
def State.slotUsed (s : State) (p : PartId) (n : BitVec 8) : Bool :=
  !(s.tasksOf p fun k => k.task.slot == n).isEmpty || (s.savedTasks.any fun g => g.k.part == p && g.k.task.slot == n) ||
    (s.pkg.launches.any fun l => l.part == p && l.slot == n && !l.todo.isEmpty) ||
    s.dies.any fun d => d.queues.any fun q => (q.copy.bind s.queuePart) == some p &&
      q.fetched.any fun e => headerType (entryWord e.bits 0) == 1 && (entryWord e.bits 1).setWidth 8 == n
/-- OBJ.UNLOAD: the slot is UNLOADING until nothing uses it; then its pages are freed and it is EMPTY. -/
def execObjUnload (rq : Req) (p : BitVec 8) (slot : BitVec 8) (s : State) : Out :=
  .next (s.serve rq 0x000C fun s => match partNum p with
    | none => .ok (refused s)
    | some q =>
      if !s.mayActOn rq q then .ok (forbidden s)
      else match (s.part q).slots.find? (·.num == slot) with
        | none => .ok (refused s)
        | some o =>
          if s.slotUsed q slot then .error (s.setSlot q slot (some { o with st := .unloading }))
          else
            let s1 := o.pages.foldl (fun s g =>
              let s1 := (s.unscrub g.2).setEntry g.1 0
              { s1 with hbm := { s1.hbm with taken := s1.hbm.taken.filter (· != g.2) } }) s
            .ok (done (s1.setSlot q slot none)))

/-! ## VF.RESET, RECORD.REQ, STATS.READ, DEBUG (R369, R374, R387) -/

def execVfReset (rq : Req) (v : VfId) (s : State) : Out :=
  .next (s.serveNow rq 0x000D fun s => if rq.fn == .pf || rq.fn == .vf v then done (s.resetFunction v) else forbidden s)
/-- The virtual function that makes a request. -/
def callerFn (rq : Req) : List VfId := match rq.fn with
  | .pf => []
  | .vf v => [v]
/-- A record for the requesting function is announced on its vector 0 (R387). -/
def State.tellCaller (s : State) (rq : Req) : State := s.sendVec rq.fn 0
/-- RECORD.REQ: a record of a region path, root first, of the function's partition; the response is its SEQ. -/
def execRecordReq (rq : Req) (path : List Addr) (s : State) : Out :=
  .next (s.serveNow rq 0x000E fun s => match s.callerPart rq with
    | none => forbidden s
    | some p =>
      let node := path.getLast?.getD 0
      if path.isEmpty || (s.path node).reverse != path || path.head? != some (s.part p).root then refused s
      else done ((s.produce p flagRequest 0 path (s.pkg.region node).counters (s.die 0).time (callerFn rq)).tellCaller rq) (bytesOf 8 s.pkg.seq.toNat))
/-- The statistics: kind, index, count, and the partition that sees it (R374). -/
def State.statistics (s : State) : List (Nat × Nat × Nat × Option PartId) :=
  (allCores.map fun c => (1, c.val, (s.core c).freezeCount.toNat, s.pkg.coreOwner[c.val])) ++
    (List.finRange 8).map (fun i => (2, i.val, s.hbm.corrected[i.val].toNat, none)) ++
    (List.finRange 6).map (fun i => (3, i.val, s.pkg.pairs[i.val].fails, none)) ++
    (List.finRange 96).map (fun i =>
      let b := (s.pkg.links[i.val / 8]).ownerByte (i.val % 8)
      (4, i.val, s.pkg.subs[i.val].fails, byteOwner b)) ++
    allParts.map (fun p => (5, p.toNat, (s.part p).misses, some p)) ++ [(6, 0, s.pkg.freeTicks, none)]
/-- STATS.READ: at most 127 records from the first index on. -/
def execStatsRead (rq : Req) (first : BitVec 32) (s : State) : Out :=
  .next (s.serveNow rq 0x000F fun s =>
    let sees := s.statistics.filter fun r => rq.fn == .pf || (r.2.2.2.isSome && r.2.2.2 == s.callerPart rq)
    done s (((sees.drop first.toNat).take 127).flatMap fun r =>
      bytesOf 1 r.1 ++ [0] ++ bytesOf 2 r.2.1 ++ bytesOf 4 0 ++ bytesOf 8 r.2.2.1))
/-- DEBUG: attaches or detaches a debugger, or releases the halted strands of a mask (R127); a task of another partition is not a
virtual function's to debug. -/
def execDebug (rq : Req) (op : BitVec 8) (task : Word) (mask : BitVec 4) (s : State) : Out :=
  .next (s.serveNow rq 0x0010 fun s =>
    match taskContexts.find? fun q => (s.ctx q.1 q.2).busy && (s.ctx q.1 q.2).task.word == task with
    | none => if rq.fn == .pf || (s.callerPart rq).isSome then refused s else forbidden s
    | some q => if !s.mayActOn rq (s.ctx q.1 q.2).part then forbidden s else match op.toNat with
      | 1 => done (s.modCtx q.1 q.2 fun k => { k with debugger := true })
      | 2 => done (s.modCtx q.1 q.2 fun k => { k with debugger := false })
      | 3 => done (s.modCtx q.1 q.2 fun k => Strand.all.foldl (fun k p =>
          if maskBit mask p && (k.strand p).life == .halted then k.modStrand p fun t => { t with life := .running } else k) k)
      | _ => malformed s)

end Sys2Proof.Machine
end

