-- ==== Sys2Proof/Machine/Dispatch.lean ====
section
/-! DEFINITION. The dispatch: one arm for each instruction and event, each one call of its meaning. -/
namespace Sys2Proof.Machine

def exec (i : Instr) (s : State) : Host.Outcome State Fault Refusal :=
  match i with
  | .bundleIssue c x p => Sys2Proof.Machine.execBundleIssue c x p s
  | .resultLanding c x p => Sys2Proof.Machine.execResultLanding c x p s
  | .interlockedResult c x p => Sys2Proof.Machine.execInterlockedResult c x p s
  | .completionFault c x p => Sys2Proof.Machine.execCompletionFault c x p s
  | .firmwareTrapEntry c p => Sys2Proof.Machine.execFirmwareTrapEntry c p s
  | .contextSwitch c => Sys2Proof.Machine.execContextSwitch c s
  | .firmwareCredit c => Sys2Proof.Machine.execFirmwareCredit c s
  | .correctableError c => Sys2Proof.Machine.execCorrectableError c s
  | .freezeEnd c => Sys2Proof.Machine.execFreezeEnd c s
  | .uncorrectableError c site => Sys2Proof.Machine.execUncorrectableError c site s
  | .segmentTouch c x name => Sys2Proof.Machine.execSegmentTouch c x name s
  | .roomAvailable c x => Sys2Proof.Machine.execRoomAvailable c x s
  | .recallComplete c x name => Sys2Proof.Machine.execRecallComplete c x name s
  | .pushOut c x name => Sys2Proof.Machine.execPushOut c x name s
  | .pushOutComplete c x name => Sys2Proof.Machine.execPushOutComplete c x name s
  | .relocation c x name base => Sys2Proof.Machine.execRelocation c x name base s
  | .pinSetAdmitted c x => Sys2Proof.Machine.execPinSetAdmitted c x s
  | .streamFetch c x t width => Sys2Proof.Machine.execStreamFetch c x t width s
  | .copyCommandStart c x p => Sys2Proof.Machine.execCopyCommandStart c x p s
  | .matrixCommandStart c x => Sys2Proof.Machine.execMatrixCommandStart c x s
  | .matrixCommit c x => Sys2Proof.Machine.execMatrixCommit c x s
  | .commandCompletion c x e => Sys2Proof.Machine.execCommandCompletion c x e s
  | .completionStageResume c x e => Sys2Proof.Machine.execCompletionStageResume c x e s
  | .waiterPerformed site => Sys2Proof.Machine.execWaiterPerformed site s
  | .parkWake d => Sys2Proof.Machine.execParkWake d s
  | .febBoundaryCharge c x => Sys2Proof.Machine.execFebBoundaryCharge c x s
  | .weightSwapEffect k pos => Sys2Proof.Machine.execWeightSwapEffect k pos s
  | .weightRefresh k pos frame => Sys2Proof.Machine.execWeightRefresh k pos frame s
  | .refreshSensorSample k temp frame => Sys2Proof.Machine.execRefreshSensorSample k temp frame s
  | .clockRatioChangeDone k => Sys2Proof.Machine.execClockRatioChangeDone k s
  | .pageFault c x va => Sys2Proof.Machine.execPageFault c x va s
  | .pageFaultServed root va => Sys2Proof.Machine.execPageFaultServed root va s
  | .hostPageReply root va reply => Sys2Proof.Machine.execHostPageReply root va reply s
  | .hostPushOutReply c x victim => Sys2Proof.Machine.execHostPushOutReply c x victim s
  | .pageOut root va host => Sys2Proof.Machine.execPageOut root va host s
  | .frameClearDone frame => Sys2Proof.Machine.execFrameClearDone frame s
  | .hbmCorrectableError stack => Sys2Proof.Machine.execHbmCorrectableError stack s
  | .dieToDieFlit pair crcOk => Sys2Proof.Machine.execDieToDieFlit pair crcOk s
  | .pairFailure pair => Sys2Proof.Machine.execPairFailure pair s
  | .bandwidthRefill d active => Sys2Proof.Machine.execBandwidthRefill d active s
  | .junctionSensor c temp => Sys2Proof.Machine.execJunctionSensor c temp s
  | .thermalWindowEnd heat => Sys2Proof.Machine.execThermalWindowEnd heat s
  | .moveTimeout c => Sys2Proof.Machine.execMoveTimeout c s
  | .energyPeriod readings => Sys2Proof.Machine.execEnergyPeriod readings s
  | .accountingWindowEnd => Sys2Proof.Machine.execAccountingWindowEnd  s
  | .markRecord p => Sys2Proof.Machine.execMarkRecord p s
  | .checkpoint => Sys2Proof.Machine.execCheckpoint  s
  | .moduleInputFailure => Sys2Proof.Machine.execModuleInputFailure  s
  | .coldBoot boot => Sys2Proof.Machine.execColdBoot boot s
  | .warmReset => Sys2Proof.Machine.execWarmReset  s
  | .functionLevelReset v => Sys2Proof.Machine.execFunctionLevelReset v s
  | .serviceWatchdogExpiry svc => Sys2Proof.Machine.execServiceWatchdogExpiry svc s
  | .doorbell fn page off count => Sys2Proof.Machine.execDoorbell fn page off count s
  | .reloadDoorbell fn page off => Sys2Proof.Machine.execReloadDoorbell fn page off s
  | .qcbReread d q => Sys2Proof.Machine.execQcbReread d q s
  | .queueMap d => Sys2Proof.Machine.execQueueMap d s
  | .packetFetch d q => Sys2Proof.Machine.execPacketFetch d q s
  | .nop d q => Sys2Proof.Machine.execNop d q s
  | .launch d q => Sys2Proof.Machine.execLaunch d q s
  | .wait d q => Sys2Proof.Machine.execWait d q s
  | .waitResend d q => Sys2Proof.Machine.execWaitResend d q s
  | .signal d q => Sys2Proof.Machine.execSignal d q s
  | .copy d q => Sys2Proof.Machine.execCopy d q s
  | .mark d q => Sys2Proof.Machine.execMark d q s
  | .packetComplete d q index => Sys2Proof.Machine.execPacketComplete d q index s
  | .taskPlacement d => Sys2Proof.Machine.execTaskPlacement d s
  | .taskEnd c x => Sys2Proof.Machine.execTaskEnd c x s
  | .coreTimeWindowEnd region => Sys2Proof.Machine.execCoreTimeWindowEnd region s
  | .faultDomainStop p fdom => Sys2Proof.Machine.execFaultDomainStop p fdom s
  | .gangTick p => Sys2Proof.Machine.execGangTick p s
  | .tickMiss d => Sys2Proof.Machine.execTickMiss d s
  | .epilogueLimit => Sys2Proof.Machine.execEpilogueLimit  s
  | .epilogueTimeout c => Sys2Proof.Machine.execEpilogueTimeout c s
  | .sendMessage port src payload => Sys2Proof.Machine.execSendMessage port src payload s
  | .linkTraining sub partner => Sys2Proof.Machine.execLinkTraining sub partner s
  | .flitReceive sub flit => Sys2Proof.Machine.execFlitReceive sub flit s
  | .sublinkFailure sub => Sys2Proof.Machine.execSublinkFailure sub s
  | .inboundRequest r => Sys2Proof.Machine.execInboundRequest r s
  | .timeMessage m lock time => Sys2Proof.Machine.execTimeMessage m lock time s
  | .bar2Read v off bytes => Sys2Proof.Machine.execBar2Read v off bytes s
  | .bar2Write v off data => Sys2Proof.Machine.execBar2Write v off data s
  | .registerWrite r val => Sys2Proof.Machine.execRegisterWrite r val s
  | .partCreate rq p => Sys2Proof.Machine.execPartCreate rq p s
  | .partDestroy rq p => Sys2Proof.Machine.execPartDestroy rq p s
  | .partAssign rq p kind add items => Sys2Proof.Machine.execPartAssign rq p kind add items s
  | .vfBind rq v p => Sys2Proof.Machine.execVfBind rq v p s
  | .ctlWrite rq p kind index val => Sys2Proof.Machine.execCtlWrite rq p kind index val s
  | .ctlRead rq p kind index => Sys2Proof.Machine.execCtlRead rq p kind index s
  | .rcbWrite rq node block => Sys2Proof.Machine.execRcbWrite rq node block s
  | .ptWrite rq house entries => Sys2Proof.Machine.execPtWrite rq house entries s
  | .tlbInvCommand rq root base count all => Sys2Proof.Machine.execTlbInvCommand rq root base count all s
  | .runlistSet rq d q qcb v => Sys2Proof.Machine.execRunlistSet rq d q qcb v s
  | .objLoad rq p slot image plan => Sys2Proof.Machine.execObjLoad rq p slot image plan s
  | .objUnload rq p slot => Sys2Proof.Machine.execObjUnload rq p slot s
  | .vfReset rq v => Sys2Proof.Machine.execVfReset rq v s
  | .recordReq rq path => Sys2Proof.Machine.execRecordReq rq path s
  | .statsRead rq first => Sys2Proof.Machine.execStatsRead rq first s
  | .debug rq op task mask => Sys2Proof.Machine.execDebug rq op task mask s
  | .relocationComplete c x name => Sys2Proof.Machine.execRelocationComplete c x name s
  | .hbmUncorrectableError pa site => Sys2Proof.Machine.execHbmUncorrectableError pa site s
  | .voltageDroop c => Sys2Proof.Machine.execVoltageDroop c s
  | .fabricCommandSend c x p => Sys2Proof.Machine.execFabricCommandSend c x p s
  | .triageRelease p task finish => Sys2Proof.Machine.execTriageRelease p task finish s
  | .add w => Sys2Proof.Machine.execAdd w s
  | .sub w => Sys2Proof.Machine.execSub w s
  | .mul w => Sys2Proof.Machine.execMul w s
  | .mulh w => Sys2Proof.Machine.execMulh w s
  | .mulhn w => Sys2Proof.Machine.execMulhn w s
  | .div w => Sys2Proof.Machine.execDiv w s
  | .divn w => Sys2Proof.Machine.execDivn w s
  | .rem w => Sys2Proof.Machine.execRem w s
  | .remn w => Sys2Proof.Machine.execRemn w s
  | .and w => Sys2Proof.Machine.execAnd w s
  | .or w => Sys2Proof.Machine.execOr w s
  | .xor w => Sys2Proof.Machine.execXor w s
  | .andn w => Sys2Proof.Machine.execAndn w s
  | .orn w => Sys2Proof.Machine.execOrn w s
  | .shl w => Sys2Proof.Machine.execShl w s
  | .shr w => Sys2Proof.Machine.execShr w s
  | .sar w => Sys2Proof.Machine.execSar w s
  | .rol w => Sys2Proof.Machine.execRol w s
  | .ror w => Sys2Proof.Machine.execRor w s
  | .min w => Sys2Proof.Machine.execMin w s
  | .max w => Sys2Proof.Machine.execMax w s
  | .minn w => Sys2Proof.Machine.execMinn w s
  | .maxn w => Sys2Proof.Machine.execMaxn w s
  | .addw w => Sys2Proof.Machine.execAddw w s
  | .subw w => Sys2Proof.Machine.execSubw w s
  | .mulw w => Sys2Proof.Machine.execMulw w s
  | .shlw w => Sys2Proof.Machine.execShlw w s
  | .shrw w => Sys2Proof.Machine.execShrw w s
  | .sarw w => Sys2Proof.Machine.execSarw w s
  | .mov w => Sys2Proof.Machine.execMov w s
  | .not w => Sys2Proof.Machine.execNot w s
  | .neg w => Sys2Proof.Machine.execNeg w s
  | .abs w => Sys2Proof.Machine.execAbs w s
  | .clz w => Sys2Proof.Machine.execClz w s
  | .ctz w => Sys2Proof.Machine.execCtz w s
  | .popc w => Sys2Proof.Machine.execPopc w s
  | .brev w => Sys2Proof.Machine.execBrev w s
  | .bswap w => Sys2Proof.Machine.execBswap w s
  | .sxb w => Sys2Proof.Machine.execSxb w s
  | .sxh w => Sys2Proof.Machine.execSxh w s
  | .sxw w => Sys2Proof.Machine.execSxw w s
  | .zxb w => Sys2Proof.Machine.execZxb w s
  | .zxh w => Sys2Proof.Machine.execZxh w s
  | .zxw w => Sys2Proof.Machine.execZxw w s
  | .addi w => Sys2Proof.Machine.execAddi w s
  | .andi w => Sys2Proof.Machine.execAndi w s
  | .ori w => Sys2Proof.Machine.execOri w s
  | .xori w => Sys2Proof.Machine.execXori w s
  | .shli w => Sys2Proof.Machine.execShli w s
  | .shri w => Sys2Proof.Machine.execShri w s
  | .sari w => Sys2Proof.Machine.execSari w s
  | .muli w => Sys2Proof.Machine.execMuli w s
  | .addwi w => Sys2Proof.Machine.execAddwi w s
  | .lui w => Sys2Proof.Machine.execLui w s
  | .lih w => Sys2Proof.Machine.execLih w s
  | .pca w => Sys2Proof.Machine.execPca w s
  | .bfx w => Sys2Proof.Machine.execBfx w s
  | .bfxn w => Sys2Proof.Machine.execBfxn w s
  | .bfi w => Sys2Proof.Machine.execBfi w s
  | .ceq w => Sys2Proof.Machine.execCeq w s
  | .cne w => Sys2Proof.Machine.execCne w s
  | .clt w => Sys2Proof.Machine.execClt w s
  | .cle w => Sys2Proof.Machine.execCle w s
  | .cltn w => Sys2Proof.Machine.execCltn w s
  | .clen w => Sys2Proof.Machine.execClen w s
  | .ceqi w => Sys2Proof.Machine.execCeqi w s
  | .cnei w => Sys2Proof.Machine.execCnei w s
  | .clti w => Sys2Proof.Machine.execClti w s
  | .cgti w => Sys2Proof.Machine.execCgti w s
  | .bset w => Sys2Proof.Machine.execBset w s
  | .bclr w => Sys2Proof.Machine.execBclr w s
  | .bnot w => Sys2Proof.Machine.execBnot w s
  | .brT w => Sys2Proof.Machine.execBrT w s
  | .brF w => Sys2Proof.Machine.execBrF w s
  | .jmp w => Sys2Proof.Machine.execJmp w s
  | .call w => Sys2Proof.Machine.execCall w s
  | .jr w => Sys2Proof.Machine.execJr w s
  | .callr w => Sys2Proof.Machine.execCallr w s
  | .fork w => Sys2Proof.Machine.execFork w s
  | .join w => Sys2Proof.Machine.execJoin w s
  | .jbset w => Sys2Proof.Machine.execJbset w s
  | .jbclr w => Sys2Proof.Machine.execJbclr w s
  | .jbwait w => Sys2Proof.Machine.execJbwait w s
  | .exit w => Sys2Proof.Machine.execExit w s
  | .exitAb w => Sys2Proof.Machine.execExitAb w s
  | .yield w => Sys2Proof.Machine.execYield w s
  | .lpSet w => Sys2Proof.Machine.execLpSet w s
  | .lpStride w => Sys2Proof.Machine.execLpStride w s
  | .lpRun w => Sys2Proof.Machine.execLpRun w s
  | .lpBrk w => Sys2Proof.Machine.execLpBrk w s
  | .lpClamp w => Sys2Proof.Machine.execLpClamp w s
  | .trap w => Sys2Proof.Machine.execTrap w s
  | .eret w => Sys2Proof.Machine.execEret w s
  | .rdsr w => Sys2Proof.Machine.execRdsr w s
  | .wrsr w => Sys2Proof.Machine.execWrsr w s
  | .guard w => Sys2Proof.Machine.execGuard w s
  | .brk w => Sys2Proof.Machine.execBrk w s
  | .ccAdd w => Sys2Proof.Machine.execCcAdd w s
  | .ccSet w => Sys2Proof.Machine.execCcSet w s
  | .waitLt w => Sys2Proof.Machine.execWaitLt w s
  | .waitGe w => Sys2Proof.Machine.execWaitGe w s
  | .tokPush w => Sys2Proof.Machine.execTokPush w s
  | .tokPop w => Sys2Proof.Machine.execTokPop w s
  | .fence w => Sys2Proof.Machine.execFence w s
  | .ldlB w => Sys2Proof.Machine.execLdlB w s
  | .ldlH w => Sys2Proof.Machine.execLdlH w s
  | .ldlW w => Sys2Proof.Machine.execLdlW w s
  | .ldlD w => Sys2Proof.Machine.execLdlD w s
  | .stlB w => Sys2Proof.Machine.execStlB w s
  | .stlH w => Sys2Proof.Machine.execStlH w s
  | .stlW w => Sys2Proof.Machine.execStlW w s
  | .stlD w => Sys2Proof.Machine.execStlD w s
  | .ldgB w => Sys2Proof.Machine.execLdgB w s
  | .ldgH w => Sys2Proof.Machine.execLdgH w s
  | .ldgW w => Sys2Proof.Machine.execLdgW w s
  | .ldgD w => Sys2Proof.Machine.execLdgD w s
  | .stgB w => Sys2Proof.Machine.execStgB w s
  | .stgH w => Sys2Proof.Machine.execStgH w s
  | .stgW w => Sys2Proof.Machine.execStgW w s
  | .stgD w => Sys2Proof.Machine.execStgD w s
  | .vadd w => Sys2Proof.Machine.execVadd w s
  | .vsub w => Sys2Proof.Machine.execVsub w s
  | .vmul w => Sys2Proof.Machine.execVmul w s
  | .vfma w => Sys2Proof.Machine.execVfma w s
  | .vfms w => Sys2Proof.Machine.execVfms w s
  | .vmin w => Sys2Proof.Machine.execVmin w s
  | .vmax w => Sys2Proof.Machine.execVmax w s
  | .vabs w => Sys2Proof.Machine.execVabs w s
  | .vneg w => Sys2Proof.Machine.execVneg w s
  | .vsqr w => Sys2Proof.Machine.execVsqr w s
  | .vrcp w => Sys2Proof.Machine.execVrcp w s
  | .vrsqrt w => Sys2Proof.Machine.execVrsqrt w s
  | .vexp2 w => Sys2Proof.Machine.execVexp2 w s
  | .vlog2 w => Sys2Proof.Machine.execVlog2 w s
  | .vand w => Sys2Proof.Machine.execVand w s
  | .vor w => Sys2Proof.Machine.execVor w s
  | .vxor w => Sys2Proof.Machine.execVxor w s
  | .vshl w => Sys2Proof.Machine.execVshl w s
  | .vshr w => Sys2Proof.Machine.execVshr w s
  | .vsar w => Sys2Proof.Machine.execVsar w s
  | .vceq w => Sys2Proof.Machine.execVceq w s
  | .vclt w => Sys2Proof.Machine.execVclt w s
  | .vcle w => Sys2Proof.Machine.execVcle w s
  | .vsel w => Sys2Proof.Machine.execVsel w s
  | .vperm w => Sys2Proof.Machine.execVperm w s
  | .vbcast w => Sys2Proof.Machine.execVbcast w s
  | .vredAdd w => Sys2Proof.Machine.execVredAdd w s
  | .vredMax w => Sys2Proof.Machine.execVredMax w s
  | .vredMin w => Sys2Proof.Machine.execVredMin w s
  | .vscanAdd w => Sys2Proof.Machine.execVscanAdd w s
  | .vmov w => Sys2Proof.Machine.execVmov w s
  | .vclamp w => Sys2Proof.Machine.execVclamp w s
  | .vscale w => Sys2Proof.Machine.execVscale w s
  | .vpop w => Sys2Proof.Machine.execVpop w s
  | .vcvt w => Sys2Proof.Machine.execVcvt w s
  | .vq w => Sys2Proof.Machine.execVq w s
  | .vdq w => Sys2Proof.Machine.execVdq w s
  | .vsp w => Sys2Proof.Machine.execVsp w s
  | .vdsp w => Sys2Proof.Machine.execVdsp w s
  | .vsrSeed w => Sys2Proof.Machine.execVsrSeed w s
  | .vpk w => Sys2Proof.Machine.execVpk w s
  | .vupk w => Sys2Proof.Machine.execVupk w s
  | .ldm w => Sys2Proof.Machine.execLdm w s
  | .ldmWait w => Sys2Proof.Machine.execLdmWait w s
  | .ldmCons w => Sys2Proof.Machine.execLdmCons w s
  | .stm w => Sys2Proof.Machine.execStm w s
  | .stmFill w => Sys2Proof.Machine.execStmFill w s
  | .stmOvf w => Sys2Proof.Machine.execStmOvf w s
  | .stmSete w => Sys2Proof.Machine.execStmSete w s
  | .feProbe w => Sys2Proof.Machine.execFeProbe w s
  | .feSet w => Sys2Proof.Machine.execFeSet w s
  | .atAdd w => Sys2Proof.Machine.execAtAdd w s
  | .atSub w => Sys2Proof.Machine.execAtSub w s
  | .atAnd w => Sys2Proof.Machine.execAtAnd w s
  | .atOr w => Sys2Proof.Machine.execAtOr w s
  | .atXor w => Sys2Proof.Machine.execAtXor w s
  | .atMin w => Sys2Proof.Machine.execAtMin w s
  | .atMax w => Sys2Proof.Machine.execAtMax w s
  | .atMinn w => Sys2Proof.Machine.execAtMinn w s
  | .atMaxn w => Sys2Proof.Machine.execAtMaxn w s
  | .atXchg w => Sys2Proof.Machine.execAtXchg w s
  | .atCas w => Sys2Proof.Machine.execAtCas w s
  | .atFadd w => Sys2Proof.Machine.execAtFadd w s
  | .atInc w => Sys2Proof.Machine.execAtInc w s
  | .acq w => Sys2Proof.Machine.execAcq w s
  | .rel w => Sys2Proof.Machine.execRel w s
  | .syncBind w => Sys2Proof.Machine.execSyncBind w s
  | .syncUnbind w => Sys2Proof.Machine.execSyncUnbind w s
  | .prefetch w => Sys2Proof.Machine.execPrefetch w s
  | .cp w => Sys2Proof.Machine.execCp w s
  | .cpG w => Sys2Proof.Machine.execCpG w s
  | .cpSc w => Sys2Proof.Machine.execCpSc w s
  | .cpBc w => Sys2Proof.Machine.execCpBc w s
  | .cpRed w => Sys2Proof.Machine.execCpRed w s
  | .cpW w => Sys2Proof.Machine.execCpW w s
  | .cpMm w => Sys2Proof.Machine.execCpMm w s
  | .cpFe w => Sys2Proof.Machine.execCpFe w s
  | .cpZero w => Sys2Proof.Machine.execCpZero w s
  | .asCfg w => Sys2Proof.Machine.execAsCfg w s
  | .asDim w => Sys2Proof.Machine.execAsDim w s
  | .asFmt w => Sys2Proof.Machine.execAsFmt w s
  | .asBindLocal w => Sys2Proof.Machine.execAsBindLocal w s
  | .asBindDevice w => Sys2Proof.Machine.execAsBindDevice w s
  | .asRst w => Sys2Proof.Machine.execAsRst w s
  | .asAdv w => Sys2Proof.Machine.execAsAdv w s
  | .sgBind w => Sys2Proof.Machine.execSgBind w s
  | .sgPin w => Sys2Proof.Machine.execSgPin w s
  | .sgUnpin w => Sys2Proof.Machine.execSgUnpin w s
  | .sgTouch w => Sys2Proof.Machine.execSgTouch w s
  | .sgEvict w => Sys2Proof.Machine.execSgEvict w s
  | .sgInfo w => Sys2Proof.Machine.execSgInfo w s
  | .vlSet w => Sys2Proof.Machine.execVlSet w s
  | .wbSwap w => Sys2Proof.Machine.execWbSwap w s
  | .wbStat w => Sys2Proof.Machine.execWbStat w s
  | .barInit w => Sys2Proof.Machine.execBarInit w s
  | .barArr w => Sys2Proof.Machine.execBarArr w s
  | .barWait w => Sys2Proof.Machine.execBarWait w s
  | .barXferIn w => Sys2Proof.Machine.execBarXferIn w s
  | .barXferOut w => Sys2Proof.Machine.execBarXferOut w s
  | .vbRd w => Sys2Proof.Machine.execVbRd w s
  | .vbWr w => Sys2Proof.Machine.execVbWr w s
  | .clkRatio w => Sys2Proof.Machine.execClkRatio w s
  | .xld w => Sys2Proof.Machine.execXld w s
  | .xst w => Sys2Proof.Machine.execXst w s
  | .xat w => Sys2Proof.Machine.execXat w s
  | .xcpPush w => Sys2Proof.Machine.execXcpPush w s
  | .xcpPull w => Sys2Proof.Machine.execXcpPull w s
  | .xsigSet w => Sys2Proof.Machine.execXsigSet w s
  | .xsigAdd w => Sys2Proof.Machine.execXsigAdd w s
  | .xfence w => Sys2Proof.Machine.execXfence w s
  | .xroute w => Sys2Proof.Machine.execXroute w s
  | .enRd w => Sys2Proof.Machine.execEnRd w s
  | .enMark w => Sys2Proof.Machine.execEnMark w s
  | .partId w => Sys2Proof.Machine.execPartId w s
  | .tlbInv w => Sys2Proof.Machine.execTlbInv w s
  | .tlbInvAll w => Sys2Proof.Machine.execTlbInvAll w s
  | .segInv w => Sys2Proof.Machine.execSegInv w s
  | .tarRd w => Sys2Proof.Machine.execTarRd w s
  | .ctxSv w => Sys2Proof.Machine.execCtxSv w s
  | .ctxSvEpi w => Sys2Proof.Machine.execCtxSvEpi w s
  | .ctxLd w => Sys2Proof.Machine.execCtxLd w s
  | .ctxLdHold w => Sys2Proof.Machine.execCtxLdHold w s
  | .ctxLdGo w => Sys2Proof.Machine.execCtxLdGo w s
  | .mm w => Sys2Proof.Machine.execMm w s
  | .mmSp w => Sys2Proof.Machine.execMmSp w s
  | .mmTn w => Sys2Proof.Machine.execMmTn w s
  | .mdrain w => Sys2Proof.Machine.execMdrain w s
  | .mzero w => Sys2Proof.Machine.execMzero w s
  | .mcorrLd w => Sys2Proof.Machine.execMcorrLd w s
  | .mcorrSt w => Sys2Proof.Machine.execMcorrSt w s
  | .mstat w => Sys2Proof.Machine.execMstat w s

end Sys2Proof.Machine
end

