-- ==== Sys2Proof/Machine/Crossing.lean ====
section
/-! DEFINITION. Steps of a machine in which a partition records or replays (R393, R394, log 25): which events bring an input into a
partition, how it is recorded, and how a recorded one is delivered in its place. -/
namespace Sys2Proof.Machine

/-- Partition of a queue's packets. -/
def State.packetPart (s : State) (d : DieId) (n : BitVec 12) : Option PartId := ((s.queue? d n).bind (·.copy)).bind s.queuePart
/-- Partition that an event brings an input into, if it is one that can. -/
def State.inputOf (s : State) (i : Instr) : Option PartId :=
  match i with
  | .nop d n | .launch d n | .wait d n | .waitResend d n | .signal d n | .copy d n | .mark d n => s.packetPart d n
  | .bar2Write v _ _ => s.partOfVf v
  | .sendMessage port _ payload =>
    (s.pkg.services.find? fun e => e.v && e.svc.toNat == listWord payload 0 4 && e.ports.getLsbD port.toNat && 16 ≤ payload.length).bind fun e =>
      ((s.serviceQueue e).bind (·.copy)).bind s.queuePart
  | .inboundRequest r => some r.dst
  | .flitReceive _ ⟨_, _, _, .request r⟩ => some r.dst
  | _ => none
/-- The input that an event brings, whatever way it comes: a request of a flit is an inbound request. -/
def inputEvent (i : Instr) : Instr :=
  match i with
  | .flitReceive _ ⟨_, _, _, .request r⟩ => .inboundRequest r
  | _ => i
/-- A flit whose request gives way to a recorded one has been taken all the same. -/
def State.withoutInput (s : State) (i : Instr) : State :=
  match i with
  | .flitReceive n f => (s.tookFlit n).ackFlit n f.seq
  | _ => s
/-- Kind of an input: a packet, a host write, a payload, a remote operation. -/
def kindOf (i : Instr) : Nat :=
  match inputEvent i with
  | .bar2Write _ _ _ => 1
  | .sendMessage _ _ _ => 2
  | .inboundRequest _ => 3
  | _ => 0
/-- The step from `s` to `t` has brought the input in: the packet has started, the write, payload or operation has been taken. -/
def crossed (i : Instr) (s t : State) : Bool :=
  let rd (u : State) (d : DieId) (n : BitVec 12) : Option Nat := (u.queue? d n).map (·.rd)
  match inputEvent i with
  | .nop d n | .launch d n | .wait d n | .waitResend d n | .signal d n | .copy d n | .mark d n => rd s d n != rd t d n
  | .bar2Write _ _ _ => s.pkg.log.length == t.pkg.log.length
  | .sendMessage _ _ _ => s.pkg.arrivals != t.pkg.arrivals
  | .inboundRequest r => (s.part r.dst).peers.toList.map (·.done) != (t.part r.dst).peers.toList.map (·.done) ||
    s.pkg.delayed.length < t.pkg.delayed.length
  | _ => false
/-- Queue of a packet's event. -/
def packetOf (i : Instr) : Option (DieId × BitVec 12) :=
  match i with
  | .nop d n | .launch d n | .wait d n | .waitResend d n | .signal d n | .copy d n | .mark d n => some (d, n)
  | _ => none
/-- The ring entries of the packet at the head of an event's queue. -/
def State.packetWords (s : State) (i : Instr) : List (BitVec 512) :=
  match (packetOf i).bind fun q => s.queue? q.1 q.2 with
  | none => []
  | some q => match q.fetched with
    | [] => []
    | e :: r => e.bits :: if headerType (entryWord e.bits 0) == 1 then (r.take 1).map (·.bits) else []
/-- A recorded packet stands at the head of its queue, in the ring and as fetched. -/
def State.withWords (s : State) (i : Instr) (words : List (BitVec 512)) : State :=
  match packetOf i with
  | none => s
  | some (d, n) => match s.queue? d n with
    | none => s
    | some q => match q.copy with
      | none => s
      | some c =>
        let ix := words.zip (List.range words.length)
        let s1 := ix.foldl (fun s (e : BitVec 512 × Nat) =>
          let va := (c.entryAddr (q.rd + e.2)).toNat
          if s.unitResident (s.queueRoot c) (va / frameBytes) then s.plainWrite (s.queueRoot c) va (bytesOf 64 e.1.toNat) else s) s
        s1.modQueue d n fun q => { q with fetched := ix.map fun e => ⟨q.rd + e.2, e.1⟩, ended := false
                                          count := if q.count.toNat < q.rd + words.length then BitVec.ofNat 64 (q.rd + words.length) else q.count }
/-- The entry of a started COPY. -/
def State.startedCopy (s : State) (d : DieId) (n : BitVec 12) (index : Nat) : Option (BitVec 512) :=
  (s.queue? d n).bind fun q => (q.started.find? (·.index == index)).bind fun e => e.access.bind fun a =>
    if headerType (entryWord a.1 0) == 4 then some a.1 else none
/-- The step from `s` to `t` has performed a COPY: its queue and entry. -/
def copyDone (i : Instr) (s t : State) : Option (DieId × BitVec 12 × BitVec 512) :=
  match i with
  | .copy d n => match s.packetWords i, s.queue? d n with
    | w :: _, some q => if crossed i s t && (t.startedCopy d n q.rd).isNone then some (d, n, w) else none
    | _, _ => none
  | .packetComplete d n ix => match s.startedCopy d n ix, t.startedCopy d n ix with
    | some w, none => some (d, n, w)
    | _, _ => none
  | _ => none
/-- Physical addresses of the bytes that a COPY writes. -/
def State.copyTo (s : State) (d : DieId) (n : BitVec 12) (w : BitVec 512) : List Nat :=
  match (s.queue? d n).bind (·.copy) with
  | none => []
  | some c => (List.range (entryWord w 3).toNat).map fun i => s.paOf (s.queueRoot c) ((entryWord w 1).toNat + i)
/-- A replay that finds an input of another kind stops the partition's queues with error 0x06 (R394). -/
def State.stopReplay (s : State) (p : PartId) : State :=
  allDies.foldl (fun s d => (s.die d).queues.foldl (fun s q =>
    if s.packetPart d q.num == some p then s.queueError d q.num 0x06 else s) s) s
/-- A COPY of the partition has started and is not performed. -/
def State.copying (s : State) (p : PartId) : Bool :=
  allDies.any fun d => (s.die d).queues.any fun q => s.packetPart d q.num == some p &&
    q.started.any fun e => (s.startedCopy d q.num e.index).isSome
/-- What a step that has performed a COPY records, or takes from what was recorded in its place; a replay whose next record is of
another kind stops, and the COPY is not performed. -/
def State.crossCopy (s t : State) (p : PartId) (i : Instr) : State :=
  match copyDone i s t with
  | none => t
  | some (d, n, w) =>
    let to_ := t.copyTo d n w
    if t.capMode p = 1 then t.noteIn p fun k => { k with inputs := k.inputs ++ [.copied (to_.map t.mem.byte)] }
    else if t.capMode p != 2 then t
    else match (t.part p).capLeft.inputs with
      | [] => t
      | .copied l :: rest =>
        ((to_.zip l).foldl (fun t (q : Nat × Byte) => t.writePlace (.dev q.1) 1 q.2.toNat) t).modCap p fun k =>
          { k with capLeft := { k.capLeft with inputs := rest } }
      | .packet _ _ :: _ | .event _ :: _ | .thyme _ _ _ :: _ | .ring _ _ :: _ => s.stopReplay p
/-- Partitions with cores in a cluster. -/
def State.partsOn (s : State) (k : ClusterId) : List PartId :=
  ((allCores.filter fun c => clusterOf c == k).filterMap fun c => s.pkg.coreOwner[c.val]).eraseDups
/-- Records the tables and ratios that a step has changed. -/
def State.noteThyme (s t : State) : State :=
  let u := (List.finRange 48).foldl (fun u k =>
    let a := s.cluster k
    let b := t.cluster k
    if a.table == b.table && a.ratio == b.ratio then u
    else (t.partsOn k).foldl (fun u p => u.noteIn p fun c => { c with inputs := c.inputs ++ [.thyme k b.table b.ratio] }) u) t
  allDies.foldl (fun u d =>
    let a := (s.die d).ring
    let b := (t.die d).ring
    if a == b then u
    else (((a.toList ++ b.toList).filter (·.1)).map (·.2)).eraseDups.foldl (fun u p =>
      u.noteIn p fun c => { c with inputs := c.inputs ++ [.ring d b] }) u) u
/-- In replay mode, the recorded tables and ratios that stand next take effect. -/
def State.deliverTables (s : State) (p : PartId) : Nat → State
  | 0 => s
  | fuel + 1 => match (s.part p).capLeft.inputs with
    | .thyme k tab r :: rest =>
      ((s.modCluster k fun c => { c with table := tab, ratio := r }).modCap p fun t =>
        { t with capLeft := { t.capLeft with inputs := rest } }).deliverTables p fuel
    | .ring d tab :: rest =>
      ((s.modDie d fun k => { k with ring := tab }).modCap p fun t =>
        { t with capLeft := { t.capLeft with inputs := rest } }).deliverTables p fuel
    | _ => s
def State.deliverThyme (s : State) : State :=
  allParts.foldl (fun s p => if s.capMode p = 2 then s.deliverTables p (s.part p).capLeft.inputs.length else s) s
def dropInput (k : Capture) : Capture := { k with inputs := k.inputs.drop 1 }
/-- An event that brings an input into a partition that replays: the recorded one is delivered in its place. While the bytes of a COPY
that has started are what stands next, the input waits its turn (log 25). -/
def State.replayEvent (s : State) (p : PartId) (i : Instr) : Out :=
  match exec i s with
  | .next t =>
    if !crossed i s t then .next t
    else match (s.part p).capLeft.inputs with
      | [] => .next t
      | .copied _ :: _ => .next (if s.copying p then s else s.stopReplay p)
      | .thyme _ _ _ :: _ | .ring _ _ :: _ => .next (s.stopReplay p)
      | .packet j words :: _ =>
        if kindOf j != kindOf i then .next (s.stopReplay p)
        else
          let s1 := s.withWords j words
          match exec j s1 with
          | .next u => .next (if crossed j s1 u then s1.crossCopy (u.consume p dropInput) p j else s)
          | o => o
      | .event j :: _ =>
        if kindOf j != kindOf i then .next (s.stopReplay p)
        else if j == inputEvent i then .next (t.consume p dropInput)
        else
          let s1 := s.withoutInput i
          match exec j s1 with
          | .next u => .next (if crossed j s1 u then u.consume p dropInput else s1)
          | o => o
  | o => o
/-- A step of a machine in which some partition records or replays. -/
def State.crossing (s0 : State) (i : Instr) : Out :=
  let s := s0.deliverThyme
  let out : Out := match s.inputOf i with
    | none => (match i, exec i s with
      | .packetComplete d n _, .next t => .next ((s.packetPart d n).elim t fun p => s.crossCopy t p i)
      | _, o => o)
    | some p =>
      if s.capMode p = 2 then s.replayEvent p i
      else match exec i s with
        | .next t =>
          let input : Crossing := if (packetOf i).isSome then .packet i (s.packetWords i) else .event (inputEvent i)
          .next (s.crossCopy (if crossed i s t then t.noteIn p fun k => { k with inputs := k.inputs ++ [input] } else t) p i)
        | o => o
  match out with
  | .next t => .next (s.noteThyme t)
  | o => o
/-- One event: as exec gives it, and with what capture adds where a partition records or replays. -/
def State.perform (s : State) (i : Instr) : Out := if s.captures then s.crossing i else exec i s

end Sys2Proof.Machine
end

