-- ==== Sys2Proof/Machine/Place.lean ====
section
/-! DEFINITION. Placing one instruction word where the machine fetches next: the load of a program from outside, as a debugger or
the resident service would do it (log 7). -/
namespace Sys2Proof.Machine

/-- Where a placed program lies: page tables, code page, and its virtual address. -/
def placeTables : Nat := 0x1000
def placeCode : Nat := 0x10000
def placeAddr : Addr := 0x10000
/-- The entries that map the code page with execute permission (R284, R285): four tables, then the leaf. -/
def placeEntries : List (Nat × Nat) :=
  [(0x1000, 0x2001), (0x2000, 0x3001), (0x3000, 0x4001), (0x4000, 0x5001), (0x5008, placeCode + 0x241)]
/-- Context and slot for a word: the firmware context for a word that only it executes, and the lowest slot that admits it. -/
def placeCtx (w : AnyWord) : Ctx := if fwOnly w then .fw else .t0
def placeSlot (w : AnyWord) (xw : Option WideWord) : Strand :=
  (Strand.all.find? fun p => wordCheck w p (placeCtx w) true xw == none).getD .K
/-- The bundle that holds a word, with its slot and context: a joint one; the bundle of a cp.mm carries mzero in X. -/
structure Placed where
  bits : Nat
  len : Nat
  slot : Strand
  ctx : Ctx
  xword : Option WideWord
  deriving DecidableEq, Repr
def placed (n : Nat) : Placed :=
  let k := max 1 (parcelsOf (n % 4))
  let plain (p : Strand) (x : Ctx) (xw : Option WideWord) : Placed :=
    ⟨encodeHeader ⟨1, BitVec.ofNat 4 (2 ^ p.num), 0, 0, 0, 0⟩ + 2 ^ 32 * n, k + 1, p, x, xw⟩
  match decodeNat n with
  | .error _ => plain .K .t0 none
  | .ok w => match w with
    | .wide (.cpMm _) =>
      let z : WideWord := .mzero MX.zero
      ⟨encodeHeader ⟨1, 6, 0, 0, 0, 0⟩ + 2 ^ 32 * n + 2 ^ 128 * (AnyWord.wide z).view.word, 10, .L, .t0, some z⟩
    | _ =>
      let p := placeSlot w none
      plain p (placeCtx w) (if p == .X then xWord [⟨.X, 0, some n⟩] else none)
/-- A context that stands joined at the placed bundle. -/
def Context.placedAt (k : Context) (x : Ctx) : Context :=
  { k with
    busy := x != .fw || k.busy, held := false, triage := false, yielding := false, root := BitVec.ofNat 57 placeTables
    strands := k.strands.map fun _ t => { t with
      pc := placeAddr, joined := true, life := .running, bubble := 0, delayed := false, land := [], due := [] } }
def CoreSt.placedAt (k : CoreSt) (x : Ctx) : CoreSt :=
  { (k.modCtx x (·.placedAt x)) with
    active := if x == .fw then k.active else x, freeze := 0, hot := false, fwHalted := false, fwCredit := 4, save := none, later := none }
/-- The machine with the word of these bits as the next thing that it issues, on core 0. -/
def State.placeWord (s : State) (n : Nat) : State :=
  let b := placed n
  let m0 := (s.mem.clear placeTables 0x5000).clear placeCode 64
  let m1 := placeEntries.foldl (fun m e => m.write e.1 8 e.2) m0
  { (s.modCore 0 (·.placedAt b.ctx)) with
    mem := m1.write placeCode (4 * b.len) b.bits
    agenda := [.bundleIssue 0 b.ctx .K]
    cur := { core := 0, ctx := b.ctx, strand := b.slot, hdr := placeAddr, len := b.len, joint := true, sqd := false, at_ := placeAddr + 4
             xword := b.xword, carried := b.slot == .L && b.xword.isSome, joined := false
             ticket := (s.ctx 0 b.ctx).ticket, serial := (s.ctx 0 b.ctx).serial, res := .done } }

end Sys2Proof.Machine
end

