-- ==== Sys2Proof/Machine/Schedule.lean ====
section
/-! DEFINITION. Which event of the machine's own comes next when the agenda holds none (log 6). It is one order among those that
the hardware allows: the events of the focus core in a fixed round, then those of the dies, then the next core. An event of the
round is named when its precondition holds; what comes from outside, or with time, comes from the agenda only. -/
namespace Sys2Proof.Machine

/-- The event, when it may happen. -/
def due (b : Bool) (i : Instr) : Option Instr := if b then some i else none
def allCtx : List Ctx := [.t0, .t1, .fw]

/-! ## Of a core -/

/-- The result at its cycle can be written now. -/
def State.landable (s : State) (c : CoreId) (x : Ctx) (p : Strand) : Bool :=
  match (s.strand c x p).landDue with
  | none => false
  | some e => match e.what with
    | .tokens => ((s.ctx c x).tokens.pushSome p e.push).2 != e.push
    | .elems ws => (s.landElems c x ws).isSome
    | _ => true
def State.strandEvents (s : State) (c : CoreId) (x : Ctx) (p : Strand) : List (Option Instr) :=
  let t := s.strand c x p
  [due (!t.land.isEmpty && s.landable c x p) (.resultLanding c x p),
   due (t.pend.any (·.val.isSome)) (.interlockedResult c x p),
   due (!t.due.isEmpty && t.atBoundary && !(s.ctx c x).inJoin p) (.completionFault c x p)]
/-- The head of a matrix queue is ready to complete. -/
def mxReady (q : MxCmd) : Bool := q.seed.isNone && (if mxKind q.word == .step then q.phase == .committed else q.phase == .started)
def State.engineEvents (s : State) (c : CoreId) (x : Ctx) : List (Option Instr) :=
  let k := s.ctx c x
  let hd {α : Type} (l : List α) (f : α → Bool) : Bool := match l with
    | a :: _ => !k.held && f a
    | [] => false
  let fab (l : List FabCmd) : Bool := l.any fun q => q.phase == .started && q.answer.isSome
  [due (hd k.copyL (·.phase == .queued)) (.copyCommandStart c x .L), due (hd k.copyS (·.phase == .queued)) (.copyCommandStart c x .S),
   due (hd k.copyL (·.phase == .started)) (.commandCompletion c x .copyL), due (hd k.copyS (·.phase == .started)) (.commandCompletion c x .copyS),
   due (hd k.mx fun q => q.seed.isSome || q.phase == .queued) (.matrixCommandStart c x),
   due (hd k.mx fun q => q.seed.isNone && mxKind q.word == .step && q.phase == .started) (.matrixCommit c x),
   due (hd k.mx mxReady) (.commandCompletion c x .matrix),
   due (!k.held && k.fabL.any (·.phase == .queued)) (.fabricCommandSend c x .L), due (!k.held && k.fabS.any (·.phase == .queued)) (.fabricCommandSend c x .S),
   due (fab k.fabL) (.commandCompletion c x .fabL), due (fab k.fabS) (.commandCompletion c x .fabS),
   due (hd k.meL (·.phase == .queued)) (.commandCompletion c x .meL), due (hd k.meS (·.phase == .queued)) (.commandCompletion c x .meS)] ++
  engines.map (fun e => due (!(k.stages e).isEmpty) (.completionStageResume c x e))
def State.segmentEvents (s : State) (c : CoreId) (x : Ctx) : List (Option Instr) :=
  let k := s.ctx c x
  [(k.segs.find? (·.moving == some .recall)).map fun g => .recallComplete c x g.name,
   ((k.segs ++ ((s.savedAt c).filter (·.sctx == x)).flatMap (·.k.segs)).find? (·.moving == some .pushOut)).map fun g => .pushOutComplete c x g.name,
   (k.segs.find? fun g => match g.moving with
     | some (.relocate _) => true
     | _ => false).map fun g => .relocationComplete c x g.name,
   due (k.touch.any fun u => !u.failed) (.roomAvailable c x),
   due (match k.pinWait with
     | some (_, false) => true
     | _ => false) (.pinSetAdmitted c x),
   due k.febDue (.febBoundaryCharge c x),
   due (x != .fw && k.busy && Strand.all.all fun p => (k.strand p).life == .ended) (.taskEnd c x)]
/-- A firmware unit issues by itself while it serves a trap, or when its context has a memory map, so that it has an image. -/
def CoreSt.firmwareRuns (k : CoreSt) (u : List Strand) : Bool := !k.pays u || (k.ctx .fw).root != 0
def State.unitEvents (s : State) (c : CoreId) (x : Ctx) : List (Option Instr) :=
  let k := s.core c
  Strand.all.map fun p =>
    let u := (k.ctx x).unit p
    due (u.head? == some p && (x != .fw || k.firmwareRuns u) && k.mayIssue x u) (.bundleIssue c x p)
/-- The round of a core. -/
def State.coreEvents (s : State) (c : CoreId) : List (Option Instr) :=
  let k := s.core c
  if k.freeze != 0 then [some (.freezeEnd c)]
  else
    (allCtx.flatMap fun x => Strand.all.flatMap fun p => s.strandEvents c x p) ++ (allCtx.flatMap fun x => s.engineEvents c x) ++
    (allCtx.flatMap fun x => s.segmentEvents c x) ++
    Strand.all.map (fun p => due (!k.fwHalted && (k.serving.get p).isNone && k.trapQueue.any (·.2 == p)) (.firmwareTrapEntry c p)) ++
    [due (match k.save with
       | some sv => sv.left == 0
       | none => false) (.epilogueTimeout c),
     due (!k.waitList.isEmpty && (s.ready (.seg c .t0 0 0)).isSome) (.waiterPerformed (.core c)),
     due (k.fwCredit == 0 && (k.ctx .fw).root != 0) (.firmwareCredit c),
     due (((k.ctx k.active.sibling).busy || (k.ctx k.active).yielding) && !(k.ctx k.active).runnable) (.contextSwitch c)] ++
    (allCtx.flatMap fun x => s.unitEvents c x)

/-! ## Of the dies and the package -/

def State.queueEvents (s : State) (d : DieId) (q : Queue) : List (Option Instr) :=
  let may := q.slot.isSome && q.held.isNone && q.err == 0
  let head : Option Instr := match q.fetched with
    | [] => none
    | e :: _ => match headerType (entryWord e.bits 0) with
      | 0 => some (.nop d q.num)
      | 1 => some (.launch d q.num)
      | 2 => due (!q.resend) (.wait d q.num)
      | 3 => some (.signal d q.num)
      | 4 => some (.copy d q.num)
      | 5 => some (.mark d q.num)
      | _ => some (.nop d q.num)
  let waits := allDies.any fun e => (s.die e).qwaits.any fun w => w.die == d && w.queue == q.num
  [due (q.v && q.reread) (.qcbReread d q.num),
   due (may && !q.ended && q.fetched.length < aheadMax && q.rd + q.fetched.length < q.count.toNat) (.packetFetch d q.num),
   if may && !waits then head else none,
   due (may && q.resend) (.waitResend d q.num)] ++
  q.started.map fun e => due (match e.launch, e.access, q.copy with
    | some id, _, _ => !s.pkg.launches.any fun l => l.id == id && l.live != 0
    | none, some (_, va), some c => s.unitResident (s.queueRoot c) (va.toNat / frameBytes)
    | none, _, _ => true) (.packetComplete d q.num e.index)
/-- A held WAIT does not wait any more: its word has reached the value, or its line is poisoned or unreadable (R345, R346). -/
def State.waitEnds (s : State) (w : QWait) : Bool :=
  w.value.toNat ≤ s.mem.read w.pa 8 || s.mem.poisoned w.pa || s.hbm.badPoison w.pa 8
def State.dieEvents (s : State) (d : DieId) : List (Option Instr) :=
  let e := s.die d
  [due (!e.parked.isEmpty && (s.nextWake d).isSome) (.parkWake d),
   due ((!e.waiters.isEmpty && (s.ready (.dev (d.val * 2 ^ 37))).isSome) || e.qwaits.any s.waitEnds)
     (.waiterPerformed (.die d)),
   due (e.queues.any fun q => q.owed || s.mustLeave q || (q.slot.isNone && s.queueReady q)) (.queueMap d)] ++
  (e.queues.flatMap fun q => s.queueEvents d q) ++
  [due ((!s.pkg.launches.isEmpty && !(s.waitingLaunches d).isEmpty) || !(s.copiesReady d).isEmpty) (.taskPlacement d)]
/-- Swaps of a cluster that take effect: from the next frame of 16 cycles of their core on (R255, R273), or, when the machine has
nothing else to do, at once. -/
def State.swapEvents (s : State) (late : Bool) (n : ClusterId) : List (Option Instr) :=
  ([0, 1, 2, 3] : List (Fin 4)).map fun p => match (s.cluster n).pos[p.val].pend with
    | none => none
    | some w => due (late || (s.core (coreAt n p)).now / 16 != w.since / 16) (.weightSwapEffect n (BitVec.ofNat 2 p.val))
def State.clusterEvents (s : State) (n : ClusterId) : List (Option Instr) :=
  due (s.cluster n).chg.isSome (.clockRatioChangeDone n) :: s.swapEvents false n
/-- Inputs from outside that a replay delivers next (R393). -/
def State.replayEvents (s : State) : List (Option Instr) :=
  s.parts.toList.map fun t => if t.capMode != 2 then none else match t.capLeft.inputs with
    | .event (.bar2Write v o l) :: _ => some (.bar2Write v o l)
    | .event (.sendMessage p n l) :: _ => some (.sendMessage p n l)
    | .event (.inboundRequest r) :: _ => some (.inboundRequest r)
    | .packet j _ :: _ => some j
    | _ => none
def State.packageEvents (s : State) : List (Option Instr) :=
  [(s.hbm.faults.find? fun f => !f.host && (s.outAt f.root f.va.toNat).isNone).map fun f => .pageFaultServed f.root f.va,
   s.hbm.clearing.head?.map fun f => .frameClearDone f.1,
   (s.hbm.outs.find? fun o => !s.holdsPages (fun _ => true) o.root o.va o.size).map fun o => .pageOut o.root (BitVec.ofNat 57 o.va) (BitVec.ofNat 57 o.host)] ++
  (allDies.flatMap s.dieEvents) ++ (List.finRange 48).flatMap s.clusterEvents ++ s.replayEvents

/-! ## The choice -/

/-- The first event at or after a place of a round, with the place after it. -/
def seek : List (Option Instr) → Nat → Nat → Option (Instr × Nat)
  | [], _, _ => none
  | e :: r, n, i =>
    if i < n then seek r n (i + 1)
    else match e with
      | some v => some (v, i + 1)
      | none => seek r n (i + 1)
/-- The core has something of its own to do. -/
def CoreSt.works (k : CoreSt) : Bool :=
  k.freeze != 0 || k.ctxs.t0.busy || k.ctxs.t1.busy || !k.trapQueue.isEmpty || k.save.isSome || k.ctxs.fw.root != 0 ||
    Strand.all.any fun p => (k.serving.get p).isSome
/-- The cores that work, from the one after the focus core on, the focus core last. -/
def State.nextCores (s : State) : List CoreId :=
  let c := s.cur.core.val
  ((allCores.filter fun d => c < d.val) ++ allCores.filter fun d => d.val ≤ c).filter fun d => (s.core d).works
/-- The event that comes next, and the machine with its place in the round moved on: the rest of the focus core's round and the
events of dies and package, then the first of the next core that has one; none when the machine is idle. -/
def State.schedule (s : State) : Option (Instr × State) :=
  match seek (s.coreEvents s.cur.core ++ s.packageEvents) s.turn 0 with
  | some (i, n) => some (i, { s with turn := n })
  | none =>
    match s.nextCores.findSome? fun c => (seek (s.coreEvents c) 0 0).map fun (e : Instr × Nat) => (c, e) with
    | some (c, i, n) => some (i, { s with turn := n, cur := { s.cur with core := c } })
    | none => match seek (s.coreEvents s.cur.core ++ s.packageEvents) 0 0 with
      | some (i, n) => some (i, { s with turn := n })
      | none => (seek ((List.finRange 48).flatMap (s.swapEvents true)) 0 0).map fun e => (e.1, s)

end Sys2Proof.Machine
end

