-- ==== Sys2Proof/Machine/Step.lean ====
section
/-! DEFINITION. One step of the machine: the agenda's next event, else the one of the machine's own schedule. -/
namespace Sys2Proof.Machine

/-- The step. An idle machine stays as it is. -/
def step (s : State) : Host.Outcome State Fault Refusal :=
  match s.agenda with
  | i :: r => ({ s with agenda := r } : State).perform i
  | [] => match s.schedule with
    | some (i, t) => t.perform i
    | none => .next s

/-- The machine with the instruction of these bits, numbered as the opcode table numbers them, stored where the next step fetches
it (log 7). -/
def State.withFetchWord (s : State) (nbits w : Nat) : State := s.placeWord (w % 2 ^ nbits)

end Sys2Proof.Machine
end

