-- ==== Sys2Proof/Safety.lean ====
section
/-! DEFINITION. The terms that claims use: when a word reaches its own effect, what it leaves alone, the canonical form of memory,
and the invariants of states. -/
namespace Sys2Proof.Machine

/-! ## When a word reaches its own effect -/

/-- The word at the issuing slot passes its encoding checks (R59), its guard holds (R115), no register that it reads (`rd`) or
writes (`wr`) awaits an interlocked result (R105), no acquire of its strand holds up its access (R299), and in debug mode no
register that it reads has a write in flight (R108). -/
structure State.Ready (s : State) (v : AnyWord) (rd wr : List GReg) : Prop where
  checked : s.check v = none
  guardFree : s.me.pending (guardRegs v s.me) = false
  guarded : guardHolds v s.me = true
  free : s.me.pending (rd ++ wr) = false
  ordered : (isAccess v.view && s.here.acquiring s.cur.strand) = false
  guardFresh : s.here.dbg = true → s.me.stale (guardRegs v s.me) = none
  fresh : s.here.dbg = true → s.me.stale rd = none

/-- The state with the note that the word has issued. -/
abbrev State.issued (s : State) : State := s.setRes .done

/-! ## Scalar results -/

/-- A word of two source registers whose result is `f` of their values, written to g[d] at latency `n`. -/
def Lands2 (i : SR → Instr) (v : SR → ScalarWord) (n : Nat) (f : Word → Word → Word) : Prop :=
  ∀ (w : SR) (s : State), s.Ready (.scalar (v w)) [w.a, w.b] [w.d] →
    exec (i w) s = .next (s.issued.landReg w.d n (f (s.rd w.a) (s.rd w.b)))
/-- A word of one source register whose result stands in the relation `r` to its value. -/
def Lands1 (i : SR → Instr) (v : SR → ScalarWord) (r : Word → Word → Prop) : Prop :=
  ∀ (w : SR) (s : State), s.Ready (.scalar (v w)) [w.a] [w.d] →
    ∃ u, r (s.rd w.a) u ∧ exec (i w) s = .next (s.issued.landReg w.d 1 u)
/-- A word of a source register and an immediate. -/
def LandsI (i : SI → Instr) (v : SI → ScalarWord) (n : Nat) (f : Word → BitVec 12 → Word) : Prop :=
  ∀ (w : SI) (s : State), s.Ready (.scalar (v w)) [w.a] [w.d] →
    exec (i w) s = .next (s.issued.landReg w.d n (f (s.rd w.a) w.imm))
/-- A division: DIVZ with the dividend in %eval when the divisor is 0, else an interlocked result. -/
def Divides (i : SR → Instr) (v : SR → ScalarWord) (f : Word → Word → Word) : Prop :=
  ∀ (w : SR) (s : State), s.Ready (.scalar (v w)) [w.a, w.b] [w.d] →
    (s.rd w.b ≠ 0 → exec (i w) s = .next (s.issued.answer w.d (f (s.rd w.a) (s.rd w.b)) false)) ∧
    (s.rd w.b = 0 → exec (i w) s = .next (s.issued.trap .divz (s.rd w.a)))
/-- A compare of two registers: g[d].bit takes the condition, ANDed with its old value when combine is 1. -/
def Compares (i : SC → Instr) (v : SC → ScalarWord) (f : Word → Word → Prop) : Prop :=
  ∀ (w : SC) (s : State), s.Ready (.scalar (v w)) (if w.comb = 1 then [w.a, w.b, w.d] else [w.a, w.b]) [w.d] →
    ∃ r : Bool, (r = true ↔ f (s.rd w.a) (s.rd w.b) ∧ (w.comb = 1 → (s.rd w.d).getLsbD w.bit.toNat = true)) ∧
      exec (i w) s = .next (s.issued.landBit w.d w.bit r)
/-- A compare of a register with a signed six-bit immediate. -/
def ComparesI (i : SCI → Instr) (v : SCI → ScalarWord) (f : Int → Int → Prop) : Prop :=
  ∀ (w : SCI) (s : State), s.Ready (.scalar (v w)) [w.a] [w.d] →
    ∃ r : Bool, (r = true ↔ f (s.rd w.a).toInt w.imm.toInt) ∧ exec (i w) s = .next (s.issued.landBit w.d w.bit r)

/-- The canonical form of every byte memory: device memory, the stores of the cores and the sync windows of the dies. -/
structure State.Canonical (s : State) : Prop where
  mem : s.mem.wf = true
  stores : ∀ c, (s.core c).lstore.wf = true ∧ (s.core c).astore.wf = true
  windows : ∀ d, (s.die d).window.wf = true

/-! ## Loads and stores -/

/-- The handle names a segment that is present and not on its way in, and the access of `n` bytes at `off` is aligned and within
it (R129). -/
structure State.LocalOk (s : State) (h : BitVec 6) (off : Word) (n : Nat) (name : BitVec 16) (g : Seg) : Prop where
  named : resolveHandle s.here s.cur.ctx h = some name
  present : s.myCore.seg? s.cur.ctx name = some g
  local_ : s.cur.ctx = .fw → g.isAcc = false
  still : g.moving ≠ some .recall
  unfailed : ∀ u ∈ s.here.touch, u.failed = false
  aligned : off.toNat % n = 0
  within : off.toNat + n ≤ g.bytes
/-- The store of a core that holds a segment. -/
def CoreSt.storeOf (k : CoreSt) (g : Seg) : Store := if g.isAcc then k.astore else k.lstore
/-- Byte offset that a local access names: register plus the immediate in units of its size. -/
def State.slOff (s : State) (w : SL) (n : Nat) : Word := s.rd w.a + BitVec.ofNat 64 (w.imm.toNat * n)
/-- `n` little-endian bytes, sign-extended. -/
def signedBytes (n v : Nat) : Word := (BitVec.ofNat (8 * n) v).signExtend 64
/-- A local load of `n` bytes puts its value into the landing buffer at latency 4, or on a poisoned line a POISON fault. -/
def LoadsLocal (i : SL → Instr) (v : SL → ScalarWord) (n : Nat) : Prop :=
  ∀ (w : SL) (s : State) (name : BitVec 16) (g : Seg), s.Ready (.scalar (v w)) [w.a] [w.d] →
    s.LocalOk w.handle (s.slOff w n) n name g → s.myLocalHeld w n = false →
    ∃ t, exec (i w) s = .next t ∧ t.me.land = s.me.land ++
      (if (s.myCore.storeOf g).anyPoison (g.phys (s.slOff w n).toNat) n = true then
        [⟨4, s.cur.sqd, false, 0, .fault ⟨.poison, s.cur.strand, s.slOff w n⟩ false (.g w.d)⟩]
      else if w.d = 0 then []
      else [⟨4, s.cur.sqd, false, 0, .reg w.d (signedBytes n ((s.myCore.storeOf g).read (g.phys (s.slOff w n).toNat) n))⟩])
/-- A local store at whose core nobody waits writes the low `n` bytes of its register and no other byte of either store. -/
def StoresLocal (i : SL → Instr) (v : SL → ScalarWord) (n : Nat) : Prop :=
  ∀ (w : SL) (s : State) (name : BitVec 16) (g : Seg), s.Canonical → s.Ready (.scalar (v w)) [w.a, w.d] [] →
    s.LocalOk w.handle (s.slOff w n) n name g → s.myLocalHeld w n = false → s.myCore.waitList = [] →
    ∃ t, exec (i w) s = .next t ∧ ∀ a, (t.myCore.storeOf g).byte a =
      (if g.phys (s.slOff w n).toNat ≤ a ∧ a < g.phys (s.slOff w n).toNat + n then
        (s.rd w.d).extractLsb' (8 * (a - g.phys (s.slOff w n).toNat)) 8 else (s.myCore.storeOf g).byte a)
/-- The address that a global access names. -/
def State.sgAddr (s : State) (w : SG) : Word := s.rd w.a + w.imm.signExtend 64
/-- The access of `n` bytes finds no earlier one of its strand to the same bytes or page still to be performed (R131, R289), and reaches
`pa` through the scalar TLB or the tables, with memory `m` as the walker leaves it (R156, R285). -/
structure State.GlobalOk (s : State) (w : SG) (n : Nat) (need : Need) (pa : Nat) (m : Store) : Prop where
  noPort : inPort (s.sgAddr w).toNat = false
  aligned : (s.sgAddr w).toNat % n = 0
  first : s.queuedDevice s.cur.strand (s.sgAddr w).toNat n = false
  noReplay : s.here.replayHolds s.cur.strand (s.sgAddr w).toNat = false
  reaches : s.xlat s.cur.core .scalar s.here.root (s.sgAddr w) need = .ok pa m
  clean : s.hbm.badPoison pa n = false
/-- The state as the access finds it: device memory with the walker's marks. -/
abbrev State.marked (s : State) (m : Store) : State := { s with mem := m }
/-- A global load of `n` bytes from a present readable page answers with its value. -/
def LoadsGlobal (i : SG → Instr) (v : SG → ScalarWord) (n : Nat) : Prop :=
  ∀ (w : SG) (s : State) (pa : Nat) (m : Store), s.Ready (.scalar (v w)) [w.a] [w.d] →
    s.loadsFull = false → s.GlobalOk w n needRd pa m → m.anyPoison pa n = false →
    ∃ t, exec (i w) s = .next t ∧
      t.me.pend = s.me.pend ++ (if w.d = 0 then [] else [⟨w.d, some (signedBytes n (m.read pa n)), true, s.cur.sqd, 0⟩])
/-- A global store of `n` bytes to a present writable page at whose home nobody waits writes those bytes and, but for the entry that
the walker marks, with D for its first write (R285), no other byte of device memory. -/
def StoresGlobal (i : SG → Instr) (v : SG → ScalarWord) (n : Nat) : Prop :=
  ∀ (w : SG) (s : State) (pa : Nat) (m : Store), s.Canonical → s.Ready (.scalar (v w)) [w.a, w.d] [] →
    s.GlobalOk w n needFill pa m → (s.waitersAt (.dev pa)).1 = [] →
    ∃ t, exec (i w) s = .next t ∧ ∀ a, t.mem.byte a =
      (if pa ≤ a ∧ a < pa + n then (s.rd w.d).extractLsb' (8 * (a - pa)) 8 else
        ((s.marked m).dirtyBy (s.oldPage s.cur.core .scalar s.here.root (s.sgAddr w).toNat) s.here.root (s.sgAddr w).toNat).byte a)

/-- The fault that R129 gives a local access, in the order of its checks: no name behind the handle, an offset that is not aligned, a
segment that Chervil could not bring in (R146) or that the directories do not give, an offset past the segment's end, an absent segment
for which there can be no room. -/
inductive State.LocalTrap (s : State) (h : BitVec 6) (off : Word) (n : Nat) : Cause → Word → Prop
  | unbound : resolveHandle s.here s.cur.ctx h = none → s.LocalTrap h off n .segfail (segEval 0xFFFF h)
  | align (name : BitVec 16) : resolveHandle s.here s.cur.ctx h = some name → off.toNat % n ≠ 0 → s.LocalTrap h off n .align off
  | unlisted (name : BitVec 16) : resolveHandle s.here s.cur.ctx h = some name → off.toNat % n = 0 →
      s.segDesc s.cur.core s.cur.ctx name = .fails → s.LocalTrap h off n .segfail (segEval name h)
  | bound (name : BitVec 16) (g : Seg) : resolveHandle s.here s.cur.ctx h = some name → off.toNat % n = 0 →
      s.segDesc s.cur.core s.cur.ctx name = .found g → g.bytes < off.toNat + n → s.LocalTrap h off n .segbound off
  | room (name : BitVec 16) (g : Seg) : resolveHandle s.here s.cur.ctx h = some name → off.toNat % n = 0 →
      s.segDesc s.cur.core s.cur.ctx name = .found g → off.toNat + n ≤ g.bytes → s.myCore.seg? s.cur.ctx name = none →
      s.here.room g.isAcc < g.granules → s.LocalTrap h off n .segfail (segEval name h)
  | failed (name : BitVec 16) (g : Seg) (u : Toucher) : resolveHandle s.here s.cur.ctx h = some name → off.toNat % n = 0 →
      s.segDesc s.cur.core s.cur.ctx name = .found g → off.toNat + n ≤ g.bytes → g.granules ≤ s.here.room g.isAcc → u ∈ s.here.touch →
      u.name = name → u.strand = s.cur.strand → u.serial = none → u.failed = true → s.LocalTrap h off n .segfail (segEval name h)
/-- What a completion fault of the issuing word puts into its strand's landing buffer, due after `n` cycles (R110, R112). -/
def State.LandsFault (s t : State) (n : Nat) (interlocked kills : Bool) (d : GReg) (c : Cause) (ev : Word) : Prop :=
  t.me.land = s.me.land ++ [⟨n, kills && s.cur.sqd, false, 0, .fault ⟨c, s.cur.strand, ev⟩ interlocked (.g d)⟩] ∧ t.mem = s.mem ∧
    ∀ r, t.me.read r = s.me.read r
/-- A local load with a fault of R129 takes it as a completion fault at latency 4; a store takes it at issue. -/
def TrapsLocal (load store : SL → Instr) (vl vs : SL → ScalarWord) (n : Nat) : Prop :=
  ∀ (w : SL) (s : State) (c : Cause) (ev : Word), s.myLocalHeld w n = false → s.LocalTrap w.handle (s.slOff w n) n c ev →
    (s.Ready (.scalar (vl w)) [w.a] [w.d] → ∃ t, exec (load w) s = .next t ∧ s.LandsFault t 4 false true w.d c ev) ∧
    (s.Ready (.scalar (vs w)) [w.a, w.d] [] → exec (store w) s = .next (s.issued.trap c ev))
/-- Where a global access traps (R130, R171, R283, R286): a misaligned address and a wrong use of the queue port at issue; an address
above 2^57 or without permission, and a page that the host has refused, by a completion fault. -/
def TrapsGlobal (load store : SG → Instr) (vl vs : SG → ScalarWord) (n : Nat) : Prop :=
  ∀ (w : SG) (s : State) (a : Word), a = s.sgAddr w →
    (inPort a.toNat = false → a.toNat % n ≠ 0 →
      (s.Ready (.scalar (vl w)) [w.a] [w.d] → exec (load w) s = .next (s.issued.trap .align a)) ∧
      (s.Ready (.scalar (vs w)) [w.a, w.d] [] → exec (store w) s = .next (s.issued.trap .align a))) ∧
    (inPort a.toNat = true → portQueue a.toNat = none →
      (s.Ready (.scalar (vl w)) [w.a] [w.d] → exec (load w) s = .next (s.issued.trap .prot a)) ∧
      (s.Ready (.scalar (vs w)) [w.a, w.d] [] → exec (store w) s = .next (s.issued.trap .prot a))) ∧
    (∀ q, inPort a.toNat = true → portQueue a.toNat = some q →
      (n ≠ 8 ∨ s.cur.strand ≠ queuePopper q → s.Ready (.scalar (vl w)) [w.a] [w.d] →
        exec (load w) s = .next (s.issued.trap .queue (BitVec.ofNat 64 q))) ∧
      (n ≠ 8 ∨ s.cur.strand ≠ queuePusher q → s.Ready (.scalar (vs w)) [w.a, w.d] [] →
        exec (store w) s = .next (s.issued.trap .queue (BitVec.ofNat 64 q)))) ∧
    (inPort a.toNat = false → a.toNat % n = 0 → s.queuedDevice s.cur.strand a.toNat n = false →
      s.here.replayHolds s.cur.strand a.toNat = false →
      (s.loadsFull = false → s.Ready (.scalar (vl w)) [w.a] [w.d] →
        (2 ^ 57 ≤ a.toNat ∨ s.xlat s.cur.core .scalar s.here.root a needRd = .prot →
          ∃ t, exec (load w) s = .next t ∧ s.LandsFault t 1 true true 0 .prot a) ∧
        (∀ pte, s.xlat s.cur.core .scalar s.here.root a needRd = .absent pte → s.pageRefused (addr57 a) = true →
          ∃ t, exec (load w) s = .next t ∧ s.LandsFault t 1 true true 0 .page a)) ∧
      (s.Ready (.scalar (vs w)) [w.a, w.d] [] →
        (2 ^ 57 ≤ a.toNat ∨ s.xlat s.cur.core .scalar s.here.root a needFill = .prot →
          ∃ t, exec (store w) s = .next t ∧ s.LandsFault t 1 true false 0 .prot a) ∧
        (∀ pte, s.xlat s.cur.core .scalar s.here.root a needFill = .absent pte → s.pageRefused (addr57 a) = true →
          ∃ t, exec (store w) s = .next t ∧ s.LandsFault t 1 true false 0 .page a)))

/-! ## Memory-extended accesses -/

/-- The pop-before tokens of a TOK field are there (R169). -/
def State.CanPop (s : State) (tok : BitVec 4) : Prop :=
  (tok.getLsbD 0 = true → s.me.popped &&& 1 = 0 → s.here.tokens.get (neighbour s.cur.strand false) s.cur.strand ≠ 0) ∧
  (tok.getLsbD 1 = true → s.me.popped &&& 2 = 0 → s.here.tokens.get (neighbour s.cur.strand true) s.cur.strand ≠ 0)
/-- The location that an access of `n` bytes names: a segment offset or an address (R174). -/
def State.meLoc (s : State) (w : ME) (n : Nat) : Word :=
  if w.space = 1 then s.rd w.a + BitVec.ofNat 64 (w.imm.toNat * n) else s.rd w.a + w.imm.signExtend 64
/-- The access of `n` bytes reaches place `p`; `m` is device memory as the walk leaves it, before the mark of a write. -/
def State.MeReaches (s : State) (w : ME) (n : Nat) (need : Need) (p : Place) (m : Store) : Prop :=
  (w.space = 0 ∧ (s.meLoc w n).toNat % n = 0 ∧ ∃ pa, s.xlat s.cur.core .scalar s.here.root (s.meLoc w n) need = .ok pa m ∧
    p = .dev pa) ∨
  (w.space = 1 ∧ m = s.mem ∧ ∃ name g, s.LocalOk w.handle (s.meLoc w n) n name g ∧
    p = .seg s.cur.core s.cur.ctx name (s.meLoc w n).toNat)
/-- A memory-extended word that is performed at once: it is ready, its tokens are there, its queue is empty, nothing of its context
waits in the replay queue, it stands behind no acquire of its strand in a fabric queue (R408), no release has writes to wait for, nobody waits at its home, it reaches its place, no error there makes it
fail (R280), and its partition neither records nor replays. -/
structure State.MeOk (s : State) (i : WideWord) (w : ME) (rd dst : List GReg) (n : Nat) (need : Need) (p : Place) (m : Store) : Prop where
  canonical : s.Canonical
  ready : s.Ready (.wide i) rd dst
  slot : s.cur.strand = .L ∨ s.cur.strand = .S
  pops : s.CanPop w.pre.tok
  alone : s.here.meQueue s.cur.strand = []
  replay : s.here.replay = []
  behind : s.here.behindAcquire (s.meCmd i w).tag = false
  held : (s.meCmd i w).isRelease = true → s.releaseHeld s.cur.core s.cur.ctx (s.meCmd i w) = false
  waiters : s.waitersAt p = ([], [])
  reaches : s.MeReaches w n need p m
  clean : s.badAt (s.meCmd i w).needsF (s.meCmd i w).needsPoison p n = false
  capture : s.capMode s.here.part = 0
/-- A value of `n` bytes as it goes to a register: sign- or zero-extended by ZX. -/
def meValue (w : ME) (n v : Nat) : Word := if w.zx = 0 then signedBytes n v else BitVec.ofNat 64 (v % 2 ^ (8 * n))
/-- The strand has this value ready for this register. -/
def State.Answers (t : State) (r : GReg) (v : Word) : Prop := r = 0 ∨ ∃ e ∈ t.me.pend, e.d = r ∧ e.val = some v
/-- The access goes through a translation that the tables no longer give (R287). -/
def State.usesOld (s : State) (m : Store) (va : Nat) : Bool :=
  (oldEntry m (((s.keepTlb s.cur.core .scalar s.here.root va).core s.cur.core).tlbAt .scalar s.here.root va) s.cur.core.val
    s.myCore.now s.here.root va).isSome
/-- Device memory when the access writes: its first write through the leaf has set D (R285). -/
def State.writing (s : State) (w : ME) (n : Nat) (m : Store) : Store :=
  if w.space = 1 ∨ s.usesOld m (s.meLoc w n).toNat = true then m else dirtied m s.here.root (s.meLoc w n).toNat
/-- A byte of device memory that an access of `n` bytes at `p` covers. -/
def Place.Covers (p : Place) (n a : Nat) : Prop :=
  match p with
  | .dev pa => pa ≤ a ∧ a < pa + n
  | _ => False
/-- No byte of device memory outside the access changes, and outside the words it covers no F bit. -/
def State.OnlyAt (s t : State) (p : Place) (n : Nat) (m : Store) : Prop :=
  (∀ a, ¬p.Covers n a → t.mem.byte a = m.byte a) ∧
  (∀ a, (∀ b, b / 4 = a / 4 → ¬p.Covers n b) → t.mem.fbit a = s.mem.fbit a)

/-- A memory-extended load: it answers with its bytes, a pair for 16; `wait` needs F = 1 and `cons` leaves it 0. -/
def LoadsMe (i : ME → Instr) (v : ME → WideWord) (wait cons : Bool) : Prop :=
  ∀ (w : ME) (s : State) (n : Nat) (p : Place) (m : Store), n = 2 ^ w.width.toNat →
    s.MeOk (v w) w [w.a] (regsFor w w.d) n (if cons then needRmw else needRd) p m → s.loadsFull = false →
    (wait = true → (s.marked m).fPlace p n true = true) → (s.marked m).poisonPlace p n = false →
    ∃ t m', m' = (if cons then s.writing w n m else m) ∧ exec (i w) s = .next t ∧ s.OnlyAt t p n m' ∧
      t.readPlace p n = (s.marked m').readPlace p n ∧
      (cons = true → t.fPlace p n false = true) ∧
      (n ≠ 16 → t.Answers w.d (meValue w n ((s.marked m).readPlace p n))) ∧
      (n = 16 → t.Answers w.d (BitVec.ofNat 64 ((s.marked m).readPlace p n)) ∧
        t.Answers (w.d + 1) (BitVec.ofNat 64 ((s.marked m).readPlace p n / 2 ^ 64)))
/-- A memory-extended store: its bytes are written; `full` is the F that it leaves, `empty` that it needs F = 0. -/
def StoresMe (i : ME → Instr) (v : ME → WideWord) (empty : Bool) (full : Option Bool) : Prop :=
  ∀ (w : ME) (s : State) (n : Nat) (p : Place) (m : Store), n = 2 ^ w.width.toNat →
    s.MeOk (v w) w (w.a :: regsFor w w.d) [] n needFill p m → (empty = true → (s.marked m).fPlace p n false = true) →
    ∃ t, exec (i w) s = .next t ∧ s.OnlyAt t p n (s.writing w n m) ∧
      t.readPlace p n = ((s.rd w.d).toNat + 2 ^ 64 * (s.rd (w.d + 1)).toNat) % 2 ^ (8 * n) ∧
      (∀ f, full = some f → t.fPlace p n f = true) ∧
      (full = none → t.probePlace p n = (s.marked m).probePlace p n)
/-- An atomic: the old value is answered, and the memory takes `f n old b c`; a compare-and-swap that finds another value writes
nothing. -/
def Atomic (i : ME → Instr) (v : ME → WideWord) (cas signed_ : Bool) (f : ME → Nat → Nat → Nat → Nat → Nat) : Prop :=
  ∀ (w : ME) (s : State) (n : Nat) (p : Place) (m : Store), n = 2 ^ w.width.toNat →
    s.MeOk (v w) w (w.a :: (regsFor w w.b ++ if cas then regsFor w w.c else [])) (regsFor w w.d) n needRmw p m →
    (s.marked m).poisonPlace p n = false →
    ∃ t, exec (i w) s = .next t ∧
      s.OnlyAt t p n (if cas = true ∧ (s.marked m).readPlace p n ≠ ((s.rd w.b).toNat + 2 ^ 64 * (s.rd (w.b + 1)).toNat) % 2 ^ (8 * n)
        then m else s.writing w n m) ∧
      t.readPlace p n = f w n ((s.marked m).readPlace p n) (((s.rd w.b).toNat + 2 ^ 64 * (s.rd (w.b + 1)).toNat) % 2 ^ (8 * n))
        (((s.rd w.c).toNat + 2 ^ 64 * (s.rd (w.c + 1)).toNat) % 2 ^ (8 * n)) % 2 ^ (8 * n) ∧
      (n = 4 → t.Answers w.d (if signed_ then meValue w 4 ((s.marked m).readPlace p 4) else BitVec.ofNat 64 ((s.marked m).readPlace p 4))) ∧
      (n = 8 → t.Answers w.d (BitVec.ofNat 64 ((s.marked m).readPlace p 8))) ∧
      (n = 16 → t.Answers w.d (BitVec.ofNat 64 ((s.marked m).readPlace p 16)) ∧
        t.Answers (w.d + 1) (BitVec.ofNat 64 ((s.marked m).readPlace p 16 / 2 ^ 64)))

/-! ## Vector words -/

/-- How a vector word of shape `h` takes its operands at issue: source 1, source 2, the auxiliary stream read or written, the
destination stream, in that order (R207). `s5` is the state when all are taken. -/
structure VecRun (s : State) (w : VA) (h : VShape) where
  s1 : State
  s2 : State
  s3 : State
  s4 : State
  s5 : State
  a : List Elem
  b : List Elem
  aux : List Elem
  line : Word
  lineB : Word
  lineX : Word
  auxSn : Snap
  auxEs : List Spot
  dstSn : Snap
  dstEs : List Spot
  first : s.issued.source w.op1 h.w1 h.k1 h.n1 = .ok s1 a line
  second : (if h.two then s1.source w.op2 h.w2 0 h.n2 else .ok s1 [] 0) = .ok s2 b lineB
  reads : (match h.auxIn with
    | some (t, aw, n) => s2.streamIn t aw n 0
    | none => .ok s2 [] 0) = .ok s3 aux lineX
  writes : (match h.auxOut with
    | some (t, aw, n) => s3.streamOut t aw n 0
    | none => .ok s3 ⟨s.here.streams[0], 0⟩ []) = .ok s4 auxSn auxEs
  dest : (if w.op0.kind == 1 then s4.streamOut (w.op0.index.setWidth 5) h.wd h.nd w.op0.stride.toInt
    else .ok s4 ⟨s.here.streams[0], 0⟩ []) = .ok s5 dstSn dstEs
  same : s5.cur = s.issued.cur
/-- A vector word whose operands can all be taken lands, at its latency, the elements of an `o` with `p`: `p` relates the word,
the state at issue, the sources, the auxiliary elements and `o`. -/
def LandsVec (i : VA → Instr) (v : VA → WideWord) (sh : VA → State → VShape) (sc : VA → Option Fmt)
    (p : VA → State → List Elem → List Elem → List Elem → VOut → Prop) : Prop :=
  ∀ (w : VA) (s : State) (r : VecRun s w (sh w s)),
    s.Ready (.wide (v w)) (gregsOf w.op1 true ++ gregsOf w.op2 (sh w s).two) (gregsOf w.op0 true) →
    (s.here.dbg = true →
      s.me.staleV (vregsOf w.op1 true ++ vregsOf w.op2 (sh w s).two ++ (sh w s).regs) = none) →
    (w.op0.kind = 2 → w.op0.index = 2 ∧ queueFull s.here 2 = false) → r.s5.CanPop w.pre.tok →
    ∃ (o : VOut) (t : State), p w s r.a r.b r.aux o ∧ t.here.srVec = o.sr ∧ t.cur = s.issued.cur ∧
      t.me.land = r.s5.me.land ++ ((match (sh w s).auxOut with
        | some _ => [⟨(sh w s).lat, s.cur.sqd, false, 0,
            .elems (List.zipWith (fun q e => q.write r.auxSn e) r.auxEs o.aux)⟩]
        | none => []) : List Landing) ∧
      exec (i w) s = .next (t.landVector w (sh w s) o (some (r.dstSn, r.dstEs)) (sc w) r.line)

/-- The `k`-th draw of a word that starts with generator state `sr`: one generator step for each, and 0 without SR (R71, R72). -/
def drawAt (rnd : Rnd) (sr : BitVec 32) (k : Nat) : Nat := if rnd = .sr then drawOf (Nat.repeat xorshift (k + 1) sr) else 0
/-- The generator after `n` draws. -/
def srAfter (rnd : Rnd) (sr : BitVec 32) (n : Nat) : BitVec 32 := if rnd = .sr then Nat.repeat xorshift n sr else sr
/-- Element `k` of the result is the conversion `c k x` of the `k`-th exact value; the word saturates when one of them does. -/
def Converts {α : Type} (xs : List α) (c : Nat → α → Cvt) (po : α → Bool) (o : VOut) : Prop :=
  o.outs.length = xs.length ∧
  (∀ k x, xs[k]? = some x → o.outs[k]? = some (⟨(c k x).code, (c k x).poison || po x⟩ : Elem)) ∧
  (o.sat = true ↔ ∃ k x, xs[k]? = some x ∧ (c k x).sat = true)
/-- The elements of the result are the exact values `vs`, each rounded or fitted once into the word's format (R213). -/
def FitsAll (w : VA) (s : State) (vs : List (Val × Bool)) (o : VOut) : Prop :=
  Converts vs (fun k v => (Fmt.ofCode w.fmt).convert (Rnd.ofCode w.rnd) (w.sat == 1) (drawAt (Rnd.ofCode w.rnd) s.here.srVec k)
    true v.1) (·.2) o ∧
  o.sr = srAfter (Rnd.ofCode w.rnd) s.here.srVec vs.length
/-- The elements of the result are these, with no rounding and no draw. -/
def Plain (s : State) (es : List Elem) (o : VOut) : Prop := o.outs = es ∧ o.sat = false ∧ o.sr = s.here.srVec
/-- A pattern function of two elements; a poisoned one gives a poisoned result. -/
def zipE (f : Nat → Nat → Nat) (a b : List Elem) : List Elem := List.zipWith (fun x y => ⟨f x.val y.val, x.poison || y.poison⟩) a b
/-- A function of the exact values of two elements. -/
def zipV (w : VA) (f : Val → Val → Val) (a b : List Elem) : List (Val × Bool) :=
  List.zipWith (fun x y => (f ((Fmt.ofCode w.fmt).val x.val) ((Fmt.ofCode w.fmt).val y.val), x.poison || y.poison)) a b
/-- A function of the exact value of one element. -/
def mapV (w : VA) (f : Val → Val) (a : List Elem) : List (Val × Bool) :=
  a.map fun x => (f ((Fmt.ofCode w.fmt).val x.val), x.poison)
/-- The first elements of a vector register, as many as the other operands have. -/
def State.vElems (s : State) (w : VA) (r : BitVec 4) (n : Nat) : List Elem :=
  (s.here.vreg r).elems (Fmt.ofCode w.fmt).width 0 n

/-- Node `i` of level `l` of the reduction tree over `n` leaves: nodes `2i` and `2i+1` of the level below combined, the draws
counted level by level from the leaves (R88, R218). -/
def redAt (node : Nat → Nat → Nat → Nat) (u leaf : Nat → Nat) (n : Nat) : Nat → Nat → Nat
  | 0, i => leaf i
  | l + 1, i => node (u (n - n / 2 ^ l + i)) (redAt node u leaf n l (2 * i)) (redAt node u leaf n l (2 * i + 1))
/-- Partial sum `k` of a scan. -/
def scanAt (f : Fmt) (rnd : Rnd) (sat : Bool) (u x : Nat → Nat) : Nat → Nat
  | 0 => (f.convert rnd sat (u 0) true (addVal rnd (f.val 0) (f.val (x 0)))).code
  | k + 1 => (f.convert rnd sat (u (k + 1)) true (addVal rnd (f.val (scanAt f rnd sat u x k)) (f.val (x (k + 1))))).code
/-- Block `j` of 24 elements. -/
def blockAt (a : List Elem) (j : Nat) : List Elem := (a.drop (24 * j)).take 24

/-! ## Engine commands -/

/-- The streams of a command are bound with handles that resolve, and its names are within the limits (R149, R160). -/
def State.NamesOk (s : State) (snaps : List Snap) (names : List Named) : Prop :=
  snaps.findSome? Snap.unbound = none ∧ s.issued.nameLimits s.cur.core s.cur.ctx (firstNames names []) 0 0 0 = .ok
/-- The stream register as it stands at issue, with the segment that its handle names. -/
def State.taken (s : State) (t : BitVec 5) : Snap := s.here.snap s.cur.ctx t
/-- What a copy word puts into its queue: the word, the streams that it uses as they stand, its barrier handle, its counter,
stamp and push-after tokens; a command that names a segment takes a ticket (R150, R159, R160). -/
structure IsCopy (s : State) (i : WideWord) (w : CP) (dst src idx : Bool) (q : CopyCmd) : Prop where
  word : q.word = i
  dst : q.dst = if dst then some (s.taken (w.dst.setWidth 5)) else none
  src : q.src = if src then some (s.taken (w.src.setWidth 5)) else none
  idx : q.idx = if idx then some (s.taken w.idx) else none
  bar : q.bar.map (·.1) = if w.bar = 0 then none else some (s.rd w.bar)
  number : q.tag.serial = s.here.serial + 1
  stamp : q.tag.stamp = s.here.stamp
  adds : q.tag.cc = w.cc ∧ q.tag.inc = w.inc ∧ q.tag.push = w.pre.tok
  ticket : q.tag.ticket = if q.names.isEmpty then none else some s.here.ticket
  phase : q.phase = .queued
/-- A copy word whose queue has room enters it; on a full one it stalls. -/
def CopyQueues (i : CP → Instr) (v : CP → WideWord) (dst src idx : Bool) : Prop :=
  ∀ (w : CP) (s : State), s.Ready (.wide (v w)) [w.bar] [] → s.CanPop w.pre.tok → s.cur.strand = .L ∨ s.cur.strand = .S →
    s.NamesOk (s.issued.cpCmd (v w) w).snaps (s.issued.cpCmd (v w) w).names →
    ((s.here.copyQueue s.cur.strand).length < 32 → ∃ t q, exec (i w) s = .next t ∧ IsCopy s (v w) w dst src idx q ∧ q.follow = none ∧
      t.here.copyQueue s.cur.strand = s.here.copyQueue s.cur.strand ++ [q] ∧ t.here.serial = s.here.serial + 1 ∧
      t.here.ticket = (if q.names.isEmpty then s.here.ticket else s.here.ticket + 1)) ∧
    (32 ≤ (s.here.copyQueue s.cur.strand).length → exec (i w) s = .next (s.issued.stall .interlock))
/-- A matrix-width word enters the matrix queue with its streams as they stand; the streams of a step advance at once (R237). -/
def MatrixQueues (i : MX → Instr) (v : MX → WideWord) (dst : MX → List GReg) : Prop :=
  ∀ (w : MX) (s : State), s.Ready (.wide (v w)) [] (dst w) → s.CanPop w.pre.tok →
    (∀ h ∈ mxHandles (v w) w, (resolveHandle s.here s.cur.ctx h).isSome = true) →
    (let q0 := s.issued.here.mxCmd s.cur.ctx (v w) w (s.here.serial + 1) s.issued.matrixTarget 0
     s.NamesOk q0.snaps q0.names) →
    (s.cur.carried = false → s.here.mxFull s.cur.ctx = false → ∃ t q, exec (i w) s = .next t ∧
      t.here.mx = s.here.mx ++ [q] ∧ q.word = v w ∧ q.w = w ∧ q.seed = none ∧ q.phase = .queued ∧ q.target = s.matrixTarget ∧
      q.tag.serial = s.here.serial + 1 ∧ q.tag.stamp = s.here.stamp ∧ q.tag.cc = w.cc ∧ q.tag.inc = w.inc ∧ q.tag.push = w.pre.tok ∧
      q.tag.ticket = (if q.names.isEmpty then none else some s.here.ticket) ∧
      q.a = (if mxKind (v w) = .step ∧ w.aKind = 1 then some (s.taken (w.aIdx.setWidth 5)) else none) ∧
      q.b = (if mxKind (v w) = .step ∧ w.bKind = 1 then some (s.taken (w.bIdx.setWidth 5)) else none) ∧
      t.here.streams = (s.here.advanceStep (v w) w).streams ∧
      (∀ r ∈ dst w, r ≠ 0 → ∃ e ∈ t.me.pend, e.d = r ∧ e.val = none)) ∧
    (s.cur.carried = false → s.here.mxFull s.cur.ctx = true → exec (i w) s = .next (s.issued.stall .interlock)) ∧
    (s.cur.carried = true → ∃ t, exec (i w) s = .next t ∧ t.here.mx = s.here.mx ∧ t.here.streams = s.here.streams)

/-- A copy of a kind stands started at the head of its queue, with the streams of its kind (R187), no barrier and no follow-on. -/
structure State.CopyAt (s : State) (c : CoreId) (x : Ctx) (p : Strand) (q : CopyCmd) (k : CpKind) : Prop where
  running : (s.core c).freeze = 0
  engine : p = .L ∨ p = .S
  head : ∃ r, (s.ctx c x).copyQueue p = q :: r
  started : q.phase = .started
  kind : q.kind = k
  dst : q.dst = none ↔ k = .weight
  src : q.src = none ↔ k = .zero ∨ k = .fe
  idx : q.idx = none ↔ k ≠ .gather ∧ k ≠ .scatter
  bar : q.bar = none
  follow : q.follow = none
/-- Nobody waits at a word of device memory or at a core. -/
def State.Unwaited (s : State) : Prop := (∀ c, (s.core c).waitList = []) ∧ ∀ d, (s.die d).waiters = [] ∧ (s.die d).parked = []
/-- Element `j` of a stream of a copy lies at a place, in the state that its translation leaves. -/
def State.ElementAt (s : State) (c : CoreId) (x : Ctx) (q : CopyCmd) (e : Snap) (n : Need) (j : Nat) (s1 : State) (p : Place) : Prop :=
  s.reach c x q.tag.strand (some q.tag.serial) (q.tag.ticket.getD 0) e n false [q.dstSpot e j] = .ok s1 [p]
/-- The copy has left its queue, and of device memory only `n` bytes at `pa` have changed, to `v`. -/
def State.CopiedTo (s t : State) (c : CoreId) (x : Ctx) (p : Strand) (q : CopyCmd) (pa n v : Nat) : Prop :=
  t.mem.read pa n = v % 2 ^ (8 * n) ∧ (∀ a, a < pa ∨ pa + n ≤ a → t.mem.byte a = s.mem.byte a) ∧
    ∀ q' ∈ (t.ctx c x).copyQueue p, q'.tag.serial ≠ q.tag.serial
/-- Linear index of cell (i, j) of sub-array `s` in a drained tile (R246). -/
def drainIndex (fuse : BitVec 3) (s i j : Nat) : Nat :=
  if fuse = 0 then 4096 * s + 64 * i + j else fuseRow fuse s i * fuseCols fuse + fuseCol fuse s j
/-- What a drain makes of cell (i, j) of a sub-array: m × 2^e, rounded once (R246). -/
def MxCmd.drained (q : MxCmd) (acc : Four Accum) (sr : BitVec 32) (s : Fin 4) (i j : Fin 64) : Cvt :=
  let cell := (acc.get (Strand.ofNum s.val)).cells[64 * i.val + j.val]'(by omega)
  drainCode (Fmt.ofCode q.w.dfmt) (Rnd.ofCode q.w.rnd) (q.w.sat == 1)
    (drawAt (Rnd.ofCode q.w.rnd) sr (drainIndex q.w.fuse s.val i.val j.val)) cell.m.toInt cell.e.toInt
/-- The element of cell (i, j) is poisoned (R245). -/
def MxCmd.drainedBad (q : MxCmd) (acc : Four Accum) (sr : BitVec 32) (s : Fin 4) (i j : Fin 64) : Bool :=
  let a := acc.get (Strand.ofNum s.val)
  a.rpois.getLsbD i.val || a.cpois.getLsbD j.val || a.ovr || a.ue || (q.drained acc sr s i j).poison
/-- A header and cells are the image of a sub-array, but for UE (R249). -/
structure Accum.IsImage (a : Accum) (h : Nat) (v : Nat → Nat) : Prop where
  rows : h % 2 ^ 64 = a.rpois.toNat
  cols : h / 2 ^ 64 % 2 ^ 64 = a.cpois.toNat
  count : h / 2 ^ 128 % 2 ^ 17 = a.kcnt.toNat
  ovr : h.testBit 145 = a.ovr
  fold : h.testBit 146 = a.fold
  cells : ∀ n : Fin 4096, v n.val % 2 ^ 64 = (a.cells[n.val]).m.toNat ∧ v n.val / 2 ^ 64 % 2 ^ 32 = (a.cells[n.val]).e.toNat
/-- Header and cells that stand at byte `k` of a segment. -/
def State.imageHead (s : State) (c : CoreId) (x : Ctx) (name : BitVec 16) (k : Nat) : Nat := s.readPlace (.seg c x name k) 64
def State.imageCell (s : State) (c : CoreId) (x : Ctx) (name : BitVec 16) (k n : Nat) : Nat :=
  s.readPlace (.seg c x name (k + 4096 + 16 * n)) 16

/-! ## Cluster, fabric and package words -/

/-- The barrier word's handle reaches its object, which is `b` at place `p` of state `r`; the order of arrivals at Sage is
neither recorded nor replayed (R309). -/
def State.BarrierAt (s : State) (h : Word) (r : State) (p : Place) (b : Barrier) : Prop :=
  s.Canonical ∧ s.issued.barPlace s.cur.core s.cur.ctx s.cur.strand none s.cur.ticket
    (if barSpace h then none else resolveHandle s.here s.cur.ctx (barHandle h)) h = .ok r p ∧
  r.cur = s.issued.cur ∧ (∀ tok, s.CanPop tok → r.CanPop tok) ∧ r.here.part = s.here.part ∧ b = (r.barrier p).2 ∧
  (barSpace h = true → s.capMode s.here.part = 0)
/-- The same of a word that goes to Sage in program order: nothing of the strand is still to be sent there (R398). -/
def State.BarrierSent (s : State) (h : Word) (r : State) (p : Place) (b : Barrier) : Prop :=
  s.BarrierAt h r p b ∧ (barSpace h = true → s.unsent = false)
/-- The object after TestPhase (R271). -/
def afterPhase (b : Barrier) : Barrier :=
  if b.armed = true ∧ b.pend = 0 ∧ b.inp = 0 ∧ b.outp = 0 then { b with gen := b.gen + 1, pend := b.expt, wait := 0 } else b
/-- The strand answers `v` at once, or with a fabric queue's completion; g0 takes nothing. -/
def AnswersAtOnce (i : SY → Instr) (v : SY → WideWord) (rd : SY → List GReg) (f : SY → State → Word) : Prop :=
  ∀ (w : SY) (s : State), s.Ready (.wide (v w)) (rd w) [w.d] → s.CanPop w.pre.tok →
    ∃ t, exec (i w) s = .next t ∧ t.Answers w.d (f w s)
/-- A fabric word whose queue has room enters it with the values of its registers, and its register awaits the result; on a
full queue it stalls (R404). -/
def FabricQueues (i : SY → Instr) (v : SY → WideWord) (rd dst : SY → List GReg) (usesStream : Bool) : Prop :=
  ∀ (w : SY) (s : State), s.Ready (.wide (v w)) (rd w) (dst w) → s.CanPop w.pre.tok → s.cur.strand = .L ∨ s.cur.strand = .S →
    s.NamesOk (s.issued.fabCmd (v w) w).snaps (s.issued.fabCmd (v w) w).names →
    ((s.here.fabQueue s.cur.strand).length < 32 → ∃ t q, exec (i w) s = .next t ∧
      t.here.fabQueue s.cur.strand = s.here.fabQueue s.cur.strand ++ [q] ∧ q.word = v w ∧ q.w = w ∧ q.a = s.rd w.a ∧ q.b = s.rd w.b ∧
      q.c = s.rd w.c ∧ q.data = s.rd w.d ∧ q.stream = (if usesStream then some (s.taken (w.imm.setWidth 5)) else none) ∧
      q.phase = .queued ∧ q.tag.serial = s.here.serial + 1 ∧ q.tag.push = w.pre.tok ∧
      (∀ r ∈ dst w, r ≠ 0 → ∃ e ∈ t.me.pend, e.d = r ∧ e.val = none ∧ e.serial = q.tag.serial)) ∧
    (32 ≤ (s.here.fabQueue s.cur.strand).length → exec (i w) s = .next (s.issued.stall .interlock))

/-- An event brings an inbound request, by itself or in a flit that is taken in order on a sub-link of its partition; `s'` is the state when
it has come and its flit has been acknowledged. -/
def State.Brings (s : State) (i : Instr) (q : Delayed) (s' : State) : Prop :=
  (i = .inboundRequest q.req ∧ q.sub = none ∧ s' = s) ∨
  ∃ n f, i = .flitReceive n f ∧ q.sub = some n ∧ f.crcOk = true ∧ f.room = true ∧ f.seq = (s.pkg.subs[n.val]).rx ∧ f.body = .request q.req ∧
    s.subOwned q.req.dst n.val = true ∧ s' = (s.tookFlit n).ackFlit n f.seq
/-- The step has answered the request with `r`, on the sub-link on which it came, in a slot of the right use; without one the answer waits
(R401). -/
def State.Answered (s t : State) (q : Delayed) (r : RemoteResult) : Prop :=
  let a : Answer := ⟨q.req.srcPkg, q.req.srcPart, q.req.dst, q.req.num, r⟩
  t.pkg.answers = s.pkg.answers ++ [a] ∧
    ∀ n, q.sub = some n →
      (let k := s.pkg.subs[n.val]
       let slots := (s.pkg.links[(linkOf n).val]).slots (if isSignal q.req.op then .signal else .response)
       (slots ≠ 0 → (t.pkg.subs[n.val]).line = k.line ++ [(k.tx, .answer a (isSignal q.req.op))]) ∧
       (slots = 0 → (t.pkg.subs[n.val]).line = k.line ∧ (t.pkg.subs[n.val]).waiting = k.waiting ++ [.answer a (isSignal q.req.op)]))
/-- tlb.inv (R287): the TLBs of the cores in its scope that run a task of the partition and root hold nothing of the range any more, and
those of the others are as they were; at package scope the inbound TLBs hold nothing of it either (R403); while a command or remote access that touches the range goes on it stalls. -/
def Invalidates (i : SY → Instr) (v : SY → WideWord) : Prop :=
  ∀ (w : SY) (s : State), s.Ready (.wide (v w)) [w.a, w.b] [] → s.CanPop w.pre.tok →
    (let hit (d : CoreId) := inScope w s.cur.core d && s.sharesRoot s.here d
     (invRange (w.imm.getLsbD 0) (s.rd w.a) (s.rd w.b) = none →
       ∃ t, exec (i w) s = .next t ∧ t.cur.res = .done ∧ t.mem = s.mem ∧ (∀ d, (t.core d).tlb = (s.core d).tlb) ∧
         ∀ d, (t.die d).inTlb = (s.die d).inTlb) ∧
     (∀ va size, invRange (w.imm.getLsbD 0) (s.rd w.a) (s.rd w.b) = some (va, size) →
       (s.holdsPages hit s.here.root va size = false →
         ∃ t, exec (i w) s = .next t ∧ t.cur.res = .done ∧ t.mem = s.mem ∧
           (∀ d, (t.core d).tlb = if hit d = true then
             (s.core d).tlb.filter fun e => !(e.root == s.here.root && e.va < va + size && va < e.va + e.size) else (s.core d).tlb) ∧
           ∀ d, (t.die d).inTlb = if w.scope.toNat = 4 then
             (s.die d).inTlb.filter fun e => !(s.inRoots e.root && e.va < va + size && va < e.va + e.size) else (s.die d).inTlb) ∧
       (s.holdsPages hit s.here.root va size = true → exec (i w) s = .next (s.issued.stall .interlock))))
/-- What follows the words of a bundle in their cycle: a strand that has trapped leaves the barrier where it was parked (R276), a fault of
the firmware stops the core (R350), and the cycle is counted (R95). -/
def State.afterIssue (s : State) (c : CoreId) (x : Ctx) : State := ((s.unparkTrapped c x).firmwareFault c).tick c

/-! ## What is left alone -/

/-- Every byte of device memory, every F bit and every poison bit reads as before. -/
def State.SameMemory (s t : State) : Prop :=
  ∀ a, t.mem.byte a = s.mem.byte a ∧ t.mem.fbit a = s.mem.fbit a ∧ t.mem.poisoned a = s.mem.poisoned a
/-- Both stores of every core read as before. -/
def State.SameStores (s t : State) : Prop :=
  ∀ c a, (t.core c).lstore.byte a = (s.core c).lstore.byte a ∧ (t.core c).astore.byte a = (s.core c).astore.byte a
/-- Every general register of every strand reads as before. -/
def State.SameGeneral (s t : State) : Prop := ∀ c x p r, (t.strand c x p).read r = (s.strand c x p).read r

/-! ## Energy -/

/-- All that the partitions and the house have been charged, in units of 2^-16 nJ (R380). -/
def State.energyTotal (s : State) : Int := (allParts.map fun p => (s.part p).counters.total).sum + s.pkg.house

/-! ## Queues and packets -/

/-- No access waits at any Sage. -/
def State.Quiet (s : State) : Prop := ∀ d, (s.die d).waiters = []
/-- The packet `e` of type `ty` at the head of a mapped queue may start (R331, R336): the queue is ready and between packets, what a
barrier waits for has completed, and the header still reads as it was fetched and has no reserved bit. `m` is device memory with
the walker's marks, `pr` where the read-index word lies; everything is in canonical form and nobody waits at a Sage. -/
structure State.PacketAt (s : State) (d : DieId) (n : BitVec 12) (ty : Nat) (q : Queue) (c : Qcb) (e : RingEntry) (r : List RingEntry)
    (m mr : Store) (pr : Nat) : Prop where
  canonical : s.Canonical
  quiet : s.Quiet
  queue : s.queue? d n = some q
  copy : q.copy = some c
  fetched : q.fetched = e :: r
  mapped : q.slot.isSome = true
  between : q.opening = none
  ready : s.queueReady q = true
  order : headerBarrier (entryWord e.bits 0) = true ∨ barrierType ty = true → q.started = []
  header : ∃ pa, s.translate (s.queueRoot c) (c.entryAddr q.rd) needRd = .ok pa m ∧ m.read pa 8 = (entryWord e.bits 0).toNat
  type : headerType (entryWord e.bits 0) = ty
  reserved : (entryWord e.bits 0).toNat / 2 ^ 10 % 2 ^ 22 = 0
  index : (State.marked s m).translate ((State.marked s m).queueRoot c) (word57 c.rdaddr) needWr = .ok pr mr
  fits : q.rd + 2 < 2 ^ 48
/-- The queue has passed one packet of `k` entries: RDIDX, the read-index word (R334), and its slot with what it has fetched, which it
leaves when it is no longer ready (R331). -/
structure State.Passed (t : State) (d : DieId) (n : BitVec 12) (q : Queue) (k pr : Nat) : Prop where
  queue : ∃ q', t.queue? d n = some q' ∧ q'.rd = q.rd + k ∧ q'.err = 0 ∧
    (t.queueReady q' = true → q'.slot = q.slot ∧ q'.fetched = q.fetched.drop k) ∧
    (t.queueReady q' = false → q'.slot = none ∧ q'.fetched = [])
  word : t.mem.read pr 8 = q.rd + k
/-- The queue has stopped with an error code before its head packet (R346). -/
def State.Stopped (t : State) (d : DieId) (n : BitVec 12) (q : Queue) (code : BitVec 8) : Prop :=
  ∃ q', t.queue? d n = some q' ∧ q'.err = code ∧ q'.rd = q.rd ∧ q'.slot = none ∧ q'.fetched = []
/-- The vectors that the completion of a packet sends. -/
def irqOf (c : Qcb) (e : RingEntry) : List (Func × BitVec 11) :=
  if headerIrq (entryWord e.bits 0) = true then [(.vf c.vf, c.vec)] else []
/-- The control block of queue `q` has been read: adopted when it is closed and valid, and otherwise to be read again (R332). -/
def State.Adopted (s t : State) (d : DieId) (n : BitVec 12) (q : Queue) : Prop :=
  t.mem = s.mem ∧ ∃ q', t.queue? d n = some q' ∧
    let m := s.mem.read q.qcb.toNat 64
    if m % 2 ^ 64 = m / 2 ^ 448 % 2 ^ 64 ∧ m % 2 = 0 ∧ (qcbOf m).state ≠ 3 ∧ (qcbOf m).rsize.toNat ≤ 12 ∧
        (qcbOf m).rbase.toNat % max 4096 (64 * 2 ^ ((qcbOf m).rsize.toNat + 4)) = 0 ∧ m / 2 ^ 441 % 2 ^ 7 = 0 ∧ m / 2 ^ 313 % 2 ^ 77 = 0 ∧
        m / 2 ^ 249 % 2 ^ 10 = 0 ∧ m / 2 ^ 176 % 2 ^ 24 = 0 ∧ m / 2 ^ 146 % 2 ^ 10 = 0 ∧ m / 2 ^ 121 % 2 ^ 23 = 0 ∧ m / 2 ^ 68 % 2 ^ 8 = 0 then
      q'.copy = some (qcbOf m) ∧ q'.reread = false ∧ q'.rd = q.rd ∧ q'.count = q.count ∧
        (if (qcbOf m).state = 1 ∧ (qcbOf m).seq ≠ (q.copy.map (·.seq)).getD 0 then q'.err = 0 ∧ (q.err ≠ 0 → q'.owed = true)
         else q'.err = q.err)
    else q'.copy = q.copy ∧ q'.reread = true ∧ q'.rd = q.rd ∧ q'.count = q.count ∧ q'.err = q.err

/-! ## Tasks -/

/-- Nobody waits anywhere, and no core saves a context. -/
structure State.Still (s : State) : Prop where
  canonical : s.Canonical
  tables : ∀ d, (s.die d).waiters = [] ∧ (s.die d).parked = []
  lists : ∀ c, (s.core c).waitList = []
  saves : ∀ c, (s.core c).save = none ∧ (s.core c).later = none
/-- The matrix engine of a context has no command past its commit point, and no fabric command of it is on its way. -/
def Context.Calm (k : Context) : Prop := (∀ q ∈ k.mx, q.phase ≠ .committed) ∧ k.fabricStarted = false

/-! ## Doorbells -/

def bellPage (a : Nat) : BitVec 14 := BitVec.ofNat 14 (a / 4096)
def bellOff (a : Nat) : BitVec 12 := BitVec.ofNat 12 a
/-- Offsets in BAR0 of a function at which the doorbell and the reload doorbell of a queue lie (R419): by die and runlist entry for the
physical function, by the doorbell index that the queue alone has for a virtual one. -/
def State.BellAt (s : State) (fn : Func) (d : DieId) (n : BitVec 12) (a r : Nat) : Prop :=
  match fn with
  | .pf => a = 0x1000000 + 0x8000 * d.val + 8 * n.toNat ∧ r = 0x1800000 + 0x8000 * d.val + 8 * n.toNat
  | .vf _ => ∃ (k : BitVec 10) (q : Queue), s.bellOf fn d n = some q ∧ q.bell = some k ∧
      (∀ e m p, s.bellOf fn e m = some p → p.bell = some k → e = d ∧ m = n) ∧ a = 8 * k.toNat ∧ r = 0x2000 + 8 * k.toNat

/-! ## The mailbox -/

/-- A request with the OP of a command in its header (R373). -/
abbrev command (rq : Req) (op : BitVec 16) : Req := { rq with op := op }
/-- The request is a write of REQDB that the mailbox of its function takes, and its LEN fits the area (R372). -/
def State.Takes (s : State) (rq : Req) : Prop :=
  s.pkg.running = true ∧ rq.again = false ∧ (s.mail rq.fn).busy = none ∧ rq.seq ≠ (s.mail rq.fn).rspseq ∧ rq.len.toNat ≤ 1968
/-- The request has been answered: its number, the command, STATUS and body in the response area, and vector 0 of its function. -/
structure State.Replied (t : State) (rq : Req) (op st : BitVec 16) (body : List Byte) : Prop where
  seq : (t.mail rq.fn).rspseq = rq.seq
  free : (t.mail rq.fn).busy = none
  op : (t.mail rq.fn).op = op
  status : (t.mail rq.fn).status = st
  body : (t.mail rq.fn).body = body
  told : (rq.fn, 0) ∈ t.pkg.msix
/-- What the reset of a virtual function leaves (R369). -/
structure State.ResetOf (s t : State) (v : VfId) : Prop where
  window : t.winBase v = 0
  tasks : ∀ c x, x ≠ .fw → (s.ctx c x).busy = true → (s.ctx c x).vf = v → (t.ctx c x).busy = false
  others : ∀ c x, (s.ctx c x).vf ≠ v → t.ctx c x = s.ctx c x
  bindings : ∀ p, s.partOfVf v = some p → ∀ b ∈ (t.part p).bindings, b.vf ≠ v
  frames : ∀ p, s.partOfVf v = some p → ∀ r ∈ s.pkg.frames, r.part = p → ∀ a, r.first * 65536 ≤ a → a < (r.first + r.count) * 65536 → t.mem.byte a = 0
  counters : ∀ p, (t.part p).counters = (s.part p).counters

/-! ## Frames -/

/-- Destination of a scalar word that does nothing but write one general register (R119-R124). -/
def registerDest (v : ScalarWord) : Option GReg :=
  match v with
  | .jr _ | .callr _ => none
  | _ => match v.view with
    | .sr _ _ w => some w.d
    | .si _ w => some w.d
    | .su _ w => some w.d
    | .sf _ w => some w.d
    | .sc _ w => some w.d
    | .sci _ w => some w.d
    | _ => none
/-- The general and special registers and the results on their way of every strand of a core are as they were. -/
def State.SameStrands (s t : State) (c : CoreId) : Prop :=
  ∀ x p, (t.strand c x p).g = (s.strand c x p).g ∧ (t.strand c x p).land = (s.strand c x p).land ∧
    (t.strand c x p).pend = (s.strand c x p).pend ∧ (t.strand c x p).code = (s.strand c x p).code ∧
    (t.strand c x p).epc = (s.strand c x p).epc ∧ (t.strand c x p).eval = (s.strand c x p).eval ∧
    (t.strand c x p).gselReg = (s.strand c x p).gselReg ∧ (t.strand c x p).sat = (s.strand c x p).sat
/-- What a local store that reaches no barrier object leaves alone: device memory, everything above the core, every other core, the
store that it does not write, and every register. -/
def LocalStoreFrame (i : SL → Instr) (v : SL → ScalarWord) (n : Nat) : Prop :=
  ∀ (w : SL) (s : State) (name : BitVec 16) (g : Seg), s.Ready (.scalar (v w)) [w.a, w.d] [] → s.LocalOk w.handle (s.slOff w n) n name g →
    s.myLocalHeld w n = false → s.myCore.waitList = [] → s.here.bars = [] →
    ∃ t, exec (i w) s = .next t ∧ t.mem = s.mem ∧ t.hbm = s.hbm ∧ t.parts = s.parts ∧ t.dies = s.dies ∧ t.clusters = s.clusters ∧
      t.pkg = s.pkg ∧ (∀ c, c ≠ s.cur.core → t.core c = s.core c) ∧ s.SameStrands t s.cur.core ∧
      (if g.isAcc = true then t.myCore.lstore = s.myCore.lstore else t.myCore.astore = s.myCore.astore)
/-- What a global store leaves alone: the stores of the cores, everything above them, and every register. -/
def GlobalStoreFrame (i : SG → Instr) (v : SG → ScalarWord) (n : Nat) : Prop :=
  ∀ (w : SG) (s : State) (pa : Nat) (m : Store), s.Ready (.scalar (v w)) [w.a, w.d] [] → s.Quiet →
    s.GlobalOk w n needFill pa m →
    ∃ t, exec (i w) s = .next t ∧ t.parts = s.parts ∧ t.dies = s.dies ∧ t.clusters = s.clusters ∧ t.pkg = s.pkg ∧
      (∀ c, (t.core c).lstore = (s.core c).lstore ∧ (t.core c).astore = (s.core c).astore ∧ s.SameStrands t c) ∧
      ∀ a, t.mem.fbit a = m.fbit a

end Sys2Proof.Machine
end

