-- ==== Sys2Proof/WellFormed.lean ====
section
/-! DEFINITION. Which instruction terms are well formed: those that some encoding of the spec stands for (R58). -/
namespace Sys2Proof

/-- An instruction word whose fields take values that its encoding admits. The checks are `Instr.legal`. -/
abbrev Instr.WellFormed (i : Instr) : Prop := i.legal = true

end Sys2Proof
end

