-- ==== Sys2Proof/Certificates/Slice0/Obligations.lean ====
section
/-! DEFINITION. The statements for the provers. Each says what it states in its docstring, with the rule of spec/ it comes from. -/
open Sys2Proof Sys2Proof.Machine

/-! ## Scalar words (R103, R105, R119-R124) -/

/-- R119, R103, R105: the results of the ALU-register words, each at its latency; quotients are rounded toward zero, remainders are
Ga - quotient * Gb, every result wraps, and a divisor of 0 traps DIVZ with the dividend in %eval. -/
def Obligations.AluRegisterResults : Prop :=
  Lands2 .add .add 1 (fun a b => a + b) ∧
  Lands2 .sub .sub 1 (fun a b => a - b) ∧
  Lands2 .mul .mul 3 (fun a b => a * b) ∧
  Lands2 .mulh .mulh 3 (fun a b => BitVec.ofInt 64 (a.toInt * b.toInt / 2 ^ 64)) ∧
  Lands2 .mulhn .mulhn 3 (fun a b => BitVec.ofNat 64 (a.toNat * b.toNat / 2 ^ 64)) ∧
  Lands2 .and .and 1 (fun a b => a &&& b) ∧
  Lands2 .or .or 1 (fun a b => a ||| b) ∧
  Lands2 .xor .xor 1 (fun a b => a ^^^ b) ∧
  Lands2 .andn .andn 1 (fun a b => a &&& ~~~b) ∧
  Lands2 .orn .orn 1 (fun a b => a ||| ~~~b) ∧
  Lands2 .shl .shl 1 (fun a b => a <<< (b.toNat % 64)) ∧
  Lands2 .shr .shr 1 (fun a b => a >>> (b.toNat % 64)) ∧
  Lands2 .sar .sar 1 (fun a b => a.sshiftRight (b.toNat % 64)) ∧
  Lands2 .rol .rol 1 (fun a b => a.rotateLeft (b.toNat % 64)) ∧
  Lands2 .ror .ror 1 (fun a b => a.rotateRight (b.toNat % 64)) ∧
  Lands2 .min .min 1 (fun a b => if a.toInt ≤ b.toInt then a else b) ∧
  Lands2 .max .max 1 (fun a b => if a.toInt ≤ b.toInt then b else a) ∧
  Lands2 .minn .minn 1 (fun a b => if a.toNat ≤ b.toNat then a else b) ∧
  Lands2 .maxn .maxn 1 (fun a b => if a.toNat ≤ b.toNat then b else a) ∧
  Lands2 .addw .addw 1 (fun a b => (a.setWidth 32 + b.setWidth 32).signExtend 64) ∧
  Lands2 .subw .subw 1 (fun a b => (a.setWidth 32 - b.setWidth 32).signExtend 64) ∧
  Lands2 .mulw .mulw 3 (fun a b => (a.setWidth 32 * b.setWidth 32).signExtend 64) ∧
  Lands2 .shlw .shlw 1 (fun a b => (a.setWidth 32 <<< (b.toNat % 32)).signExtend 64) ∧
  Lands2 .shrw .shrw 1 (fun a b => (a.setWidth 32 >>> (b.toNat % 32)).signExtend 64) ∧
  Lands2 .sarw .sarw 1 (fun a b => ((a.setWidth 32).sshiftRight (b.toNat % 32)).signExtend 64) ∧
  Divides .div .div (fun a b => BitVec.ofInt 64 (a.toInt.tdiv b.toInt)) ∧
  Divides .divn .divn (fun a b => BitVec.ofNat 64 (a.toNat / b.toNat)) ∧
  Divides .rem .rem (fun a b => BitVec.ofInt 64 (a.toInt - a.toInt.tdiv b.toInt * b.toInt)) ∧
  Divides .remn .remn (fun a b => BitVec.ofNat 64 (a.toNat - a.toNat / b.toNat * b.toNat))

/-- R120, R121, R103: the results of the ALU-unary words, at latency 1, and of the words with an immediate. A shift whose immediate
lies above 63 is no word (R40), which the readiness excludes. -/
def Obligations.UnaryAndImmediateResults : Prop :=
  Lands1 .mov .mov (fun a u => u = a) ∧
  Lands1 .not .not (fun a u => u = ~~~a) ∧
  Lands1 .neg .neg (fun a u => u = -a) ∧
  Lands1 .abs .abs (fun a u => u = BitVec.ofInt 64 (if a.toInt < 0 then -a.toInt else a.toInt)) ∧
  Lands1 .clz .clz (fun a u => u = BitVec.ofNat 64 ((List.range 64).takeWhile fun i => !a.getLsbD (63 - i)).length) ∧
  Lands1 .ctz .ctz (fun a u => u = BitVec.ofNat 64 ((List.range 64).takeWhile fun i => !a.getLsbD i).length) ∧
  Lands1 .popc .popc (fun a u => u = BitVec.ofNat 64 ((List.range 64).filter fun i => a.getLsbD i).length) ∧
  Lands1 .brev .brev (fun a u => ∀ i, i < 64 → u.getLsbD i = a.getLsbD (63 - i)) ∧
  Lands1 .bswap .bswap (fun a u => ∀ i, i < 8 → u.extractLsb' (8 * i) 8 = a.extractLsb' (8 * (7 - i)) 8) ∧
  Lands1 .sxb .sxb (fun a u => u = (a.setWidth 8).signExtend 64) ∧
  Lands1 .sxh .sxh (fun a u => u = (a.setWidth 16).signExtend 64) ∧
  Lands1 .sxw .sxw (fun a u => u = (a.setWidth 32).signExtend 64) ∧
  Lands1 .zxb .zxb (fun a u => u.toNat = a.toNat % 2 ^ 8) ∧
  Lands1 .zxh .zxh (fun a u => u.toNat = a.toNat % 2 ^ 16) ∧
  Lands1 .zxw .zxw (fun a u => u.toNat = a.toNat % 2 ^ 32) ∧
  LandsI .addi .addi 1 (fun a i => a + i.signExtend 64) ∧
  LandsI .andi .andi 1 (fun a i => a &&& i.signExtend 64) ∧
  LandsI .ori .ori 1 (fun a i => a ||| i.signExtend 64) ∧
  LandsI .xori .xori 1 (fun a i => a ^^^ i.signExtend 64) ∧
  LandsI .shli .shli 1 (fun a i => a <<< i.toNat) ∧
  LandsI .shri .shri 1 (fun a i => a >>> i.toNat) ∧
  LandsI .sari .sari 1 (fun a i => a.sshiftRight i.toNat) ∧
  LandsI .muli .muli 3 (fun a i => a * i.signExtend 64) ∧
  LandsI .addwi .addwi 1 (fun a i => (a.setWidth 32 + i.signExtend 32).signExtend 64) ∧
  (∀ (w : SU) (s : State), s.Ready (.scalar (.lui w)) [] [w.d] →
    exec (.lui w) s = .next (s.issued.landReg w.d 1 (w.imm.signExtend 64))) ∧
  (∀ (w : SU) (s : State), s.Ready (.scalar (.lih w)) [w.d] [w.d] →
    exec (.lih w) s = .next (s.issued.landReg w.d 1 (s.rd w.d * 2 ^ 17 + BitVec.ofNat 64 w.imm.toNat))) ∧
  (∀ (w : SU) (s : State), s.Ready (.scalar (.pca w)) [] [w.d] →
    exec (.pca w) s = .next (s.issued.landReg w.d 1 (s.cur.hdr.setWidth 64 + BitVec.ofInt 64 (w.imm.toInt * 4))))

/-- R122, R123, R124, R103: bit i of the result of each bit-field word; compares and predicate bits write one bit of g[d]; all at
latency 1. -/
def Obligations.BitFieldAndCompareResults : Prop :=
  (∀ (w : SF) (s : State), s.Ready (.scalar (.bfx w)) [w.a] [w.d] →
    ∃ u : Word, (∀ i, i < 64 → u.getLsbD i = (s.rd w.a).getLsbD (w.pos.toNat + min i w.len1.toNat)) ∧
      exec (.bfx w) s = .next (s.issued.landReg w.d 1 u)) ∧
  (∀ (w : SF) (s : State), s.Ready (.scalar (.bfxn w)) [w.a] [w.d] →
    ∃ u : Word, (∀ i, i < 64 → u.getLsbD i = (decide (i ≤ w.len1.toNat) && (s.rd w.a).getLsbD (w.pos.toNat + i))) ∧
      exec (.bfxn w) s = .next (s.issued.landReg w.d 1 u)) ∧
  (∀ (w : SF) (s : State), s.Ready (.scalar (.bfi w)) [w.a, w.d] [w.d] →
    ∃ u : Word, (∀ i, i < 64 → u.getLsbD i = (if w.pos.toNat ≤ i ∧ i ≤ w.pos.toNat + w.len1.toNat then
        (s.rd w.a).getLsbD (i - w.pos.toNat) else (s.rd w.d).getLsbD i)) ∧
      exec (.bfi w) s = .next (s.issued.landReg w.d 1 u)) ∧
  Compares .ceq .ceq (fun a b => a = b) ∧
  Compares .cne .cne (fun a b => a ≠ b) ∧
  Compares .clt .clt (fun a b => a.toInt < b.toInt) ∧
  Compares .cle .cle (fun a b => a.toInt ≤ b.toInt) ∧
  Compares .cltn .cltn (fun a b => a.toNat < b.toNat) ∧
  Compares .clen .clen (fun a b => a.toNat ≤ b.toNat) ∧
  ComparesI .ceqi .ceqi (fun a i => a = i) ∧
  ComparesI .cnei .cnei (fun a i => a ≠ i) ∧
  ComparesI .clti .clti (fun a i => a < i) ∧
  ComparesI .cgti .cgti (fun a i => i < a) ∧
  (∀ (w : SCI) (s : State), s.Ready (.scalar (.bset w)) [] [w.d] → exec (.bset w) s = .next (s.issued.landBit w.d w.bit true)) ∧
  (∀ (w : SCI) (s : State), s.Ready (.scalar (.bclr w)) [] [w.d] → exec (.bclr w) s = .next (s.issued.landBit w.d w.bit false)) ∧
  (∀ (w : SCI) (s : State), s.Ready (.scalar (.bnot w)) [w.d] [w.d] →
    exec (.bnot w) s = .next (s.issued.landBit w.d w.bit (!(s.rd w.d).getLsbD w.bit.toNat)))

/-! ## Branches, strand control, system words, counters and tokens (R98-R101, R110-R118, R125-R128, R164-R169) -/

/-- R125: where each branch and jump goes when it is taken, and that br.t and br.f are not taken otherwise; a jump to a register
whose low two bits are not zero traps ALIGN with the register in %eval; call and callr write the next bundle's address to
g31 at latency 1. -/
def Obligations.BranchAndJumpResults : Prop :=
  (∀ (w : SB) (s : State), s.Ready (.scalar (.brT w)) [w.a] [] →
    exec (.brT w) s = .next (if (s.rd w.a).getLsbD w.bit.toNat = true then
      s.issued.branchTo (s.cur.hdr + BitVec.ofInt 57 (4 * w.off.toInt)) else s.issued)) ∧
  (∀ (w : SB) (s : State), s.Ready (.scalar (.brF w)) [w.a] [] →
    exec (.brF w) s = .next (if (s.rd w.a).getLsbD w.bit.toNat = false then
      s.issued.branchTo (s.cur.hdr + BitVec.ofInt 57 (4 * w.off.toInt)) else s.issued)) ∧
  (∀ (w : SJ) (s : State), s.Ready (.scalar (.jmp w)) [] [] →
    exec (.jmp w) s = .next (s.issued.branchTo (s.cur.hdr + BitVec.ofInt 57 (4 * w.off.toInt)))) ∧
  (∀ (w : SJ) (s : State), s.Ready (.scalar (.call w)) [] [31] →
    exec (.call w) s = .next ((s.issued.landReg 31 1 ((s.cur.hdr + BitVec.ofNat 57 (4 * s.cur.len)).setWidth 64)).branchTo
      (s.cur.hdr + BitVec.ofInt 57 (4 * w.off.toInt)))) ∧
  (∀ (w : SR) (s : State), s.Ready (.scalar (.jr w)) [w.a] [] →
    ((s.rd w.a).toNat % 4 = 0 → exec (.jr w) s = .next (s.issued.branchTo ((s.rd w.a).setWidth 57))) ∧
    ((s.rd w.a).toNat % 4 ≠ 0 → exec (.jr w) s = .next (s.issued.trap .align (s.rd w.a)))) ∧
  (∀ (w : SR) (s : State), s.Ready (.scalar (.callr w)) [w.a] [31] →
    ((s.rd w.a).toNat % 4 = 0 → exec (.callr w) s =
      .next ((s.issued.landReg 31 1 ((s.cur.hdr + BitVec.ofNat 57 (4 * s.cur.len)).setWidth 64)).branchTo
        ((s.rd w.a).setWidth 57))) ∧
    ((s.rd w.a).toNat % 4 ≠ 0 → exec (.callr w) s = .next (s.issued.trap .align (s.rd w.a))))

/-- R99, R100, R101: fork makes the strand apart at its target; a join that does not complete its rendezvous leaves the arrived strand
waiting with its arrival recorded, in a joint bundle every member of its mask in the group; only the first join word of a joint
bundle acts; one that completes its rendezvous, the other strands of its mask having ended, takes the strand into the group at the bundle
after the join, its own class K accesses performed; jbset, jbclr and jbwait act on the flag, jbset after the strand's earlier class K stores, jbwait stalling on a
clear flag. -/
def Obligations.JoinAndForkResults : Prop :=
  (∀ (w : SS) (s : State), s.Ready (.scalar (.fork w)) [] [] →
    exec (.fork w) s = .next (s.issued.modMe fun t => { t with
      joined := false, bubble := 2, forced := some (s.cur.hdr + BitVec.ofInt 57 (4 * w.off17.toInt)) })) ∧
  (∀ (w : SS) (s : State) (q : Strand), s.Ready (.scalar (.join w)) [] [] → s.cur.joint = false →
    (s.here.jbit w.jjb).arrived ≠ 0 → q ≠ s.cur.strand → maskBit (s.here.jbit w.jjb).mask q = true →
    maskBit (s.here.jbit w.jjb).arrived q = false → (s.here.strand q).life ≠ .ended →
    ∃ t, exec (.join w) s = .next t ∧ t.me.life = .waiting (.join w.jjb) ∧
      maskBit (t.here.jbit w.jjb).arrived s.cur.strand = true ∧ (t.here.jbit w.jjb).mask = (s.here.jbit w.jjb).mask) ∧
  (∀ (w : SS) (s : State) (q : Strand), s.Ready (.scalar (.join w)) [] [] → s.cur.joint = true → s.cur.joined = false →
    (s.here.jbit w.jjb).arrived ≠ 0 → q ∉ s.here.group → maskBit (s.here.jbit w.jjb).mask q = true →
    maskBit (s.here.jbit w.jjb).arrived q = false → (s.here.strand q).life ≠ .ended →
    ∃ t, exec (.join w) s = .next t ∧ ∀ r ∈ s.here.group, maskBit w.mask r = true →
      (t.here.strand r).life = .waiting (.join w.jjb) ∧ maskBit (t.here.jbit w.jjb).arrived r = true) ∧
  (∀ (w : SS) (s : State), s.Ready (.scalar (.join w)) [] [] → s.cur.joint = true → s.cur.joined = true →
    exec (.join w) s = .next s.issued) ∧
  (∀ (w : SS) (s : State), s.Ready (.scalar (.join w)) [] [] → s.cur.joint = false →
    (s.here.jbit w.jjb).arrived = 0 → (∀ q, (s.here.jbit w.jjb).next.get q = none) → s.here.replay = [] →
    s.here.ownKBusy s.cur.strand = false →
    (∀ q, maskBit w.mask q = true → q ≠ s.cur.strand → (s.here.strand q).life = .ended) →
    ∃ t, exec (.join w) s = .next t ∧ t.me.life = .running ∧ t.me.joined = true ∧
      t.me.pc = s.cur.hdr + BitVec.ofNat 57 (4 * s.cur.len) ∧ (t.here.jbit w.jjb).arrived = 0) ∧
  (∀ (w : SS) (s : State), s.Ready (.scalar (.jbset w)) [] [] → s.here.ownStoreBusy s.cur.strand = false → s.here.replay = [] →
    ∃ t, exec (.jbset w) s = .next t ∧ (t.here.jbit w.jb).flag = true ∧ (t.here.jbit w.jb).arrived = (s.here.jbit w.jb).arrived) ∧
  (∀ (w : SS) (s : State), s.Ready (.scalar (.jbclr w)) [] [] →
    ∃ t, exec (.jbclr w) s = .next t ∧ (t.here.jbit w.jb).flag = false ∧ (t.here.jbit w.jb).arrived = (s.here.jbit w.jb).arrived) ∧
  (∀ (w : SS) (s : State), s.Ready (.scalar (.jbwait w)) [] [] →
    ((s.here.jbit w.jb).flag = true → exec (.jbwait w) s = .next s.issued) ∧
    ((s.here.jbit w.jb).flag = false → exec (.jbwait w) s = .next (s.issued.stall (.jbwait w.jb))))

/-- R116, R117, R118: when everything that the context enqueued has completed and no stream write is left to land, exit ends the
strand, and so does exit.ab that has discarded nothing; one that has discarded n commands marks the strand for EXITQ with
the count and its bundle; while something has not completed, exit stalls; yield offers the core to a runnable sibling;
in the firmware context exit, exit.ab and yield have no effect. -/
def Obligations.EndingResults : Prop :=
  (∀ (w : SS) (s : State), s.Ready (.scalar (.exit w)) [] [] → s.cur.ctx ≠ .fw →
    s.exitBusy s.exitStart.1 = false → (∀ e ∈ s.me.land, ∀ ws, e.what ≠ .elems ws) → s.exitStart.2 = 0 →
    ∃ t, exec (.exit w) s = .next t ∧ t.me.life = .ended ∧ t.me.joined = false) ∧
  (∀ (w : SS) (s : State), s.Ready (.scalar (.exit w)) [] [] → s.cur.ctx ≠ .fw → s.exitBusy s.exitStart.1 = true →
    ∃ t, exec (.exit w) s = .next t ∧ t.me.life = .waiting .exit) ∧
  (∀ (w : SS) (s : State) (d : State), s.Ready (.scalar (.exitAb w)) [] [] → s.cur.ctx ≠ .fw → s.me.exitMark = none →
    d = s.discard s.cur.core s.cur.ctx (fun _ => true) → d.exitBusy s.here.serial = false →
    (∀ e ∈ d.me.land, ∀ ws, e.what ≠ .elems ws) →
    ∃ t, exec (.exitAb w) s = .next t ∧
      (if (s.here.unstarted fun _ => true) = [] then t.me.life = .ended
       else t.me.exitq = some ((s.here.unstarted fun _ => true).length, s.cur.hdr, s.cur.len))) ∧
  (∀ (w : SS) (s : State), s.Ready (.scalar (.yield w)) [] [] → s.cur.ctx ≠ .fw →
    exec (.yield w) s = .next (if (s.ctx s.cur.core s.cur.ctx.sibling).runnable = true then
      s.issued.modHere fun k => { k with yielding := true } else s.issued)) ∧
  (∀ (w : SS) (s : State), s.cur.ctx = .fw →
    (s.Ready (.scalar (.exit w)) [] [] → exec (.exit w) s = .next s.issued) ∧
    (s.Ready (.scalar (.exitAb w)) [] [] → exec (.exitAb w) s = .next s.issued) ∧
    (s.Ready (.scalar (.yield w)) [] [] → exec (.yield w) s = .next s.issued))

/-- R127, R113, R42, R96: trap takes TRAPI with its immediate in %eval; brk does so without a debugger, with bit 17 set, and with one
halts the group at the next bundle; rdsr and wrsr read and write special registers, guard sets %gsel; eret with no trap in
service does nothing, and with one, of a strand that is not to end and has no late fault, sets the strand and its group
going at the firmware strand's %epc: they run, or wait on in a join at which they had arrived. -/
def Obligations.SystemWordResults : Prop :=
  (∀ (w : SS) (s : State), s.Ready (.scalar (.trap w)) [] [] →
    exec (.trap w) s = .next (s.issued.trap .trapi (BitVec.ofNat 64 w.f.toNat))) ∧
  (∀ (w : SS) (s : State), s.Ready (.scalar (.brk w)) [] [] →
    (s.here.debugger = false → exec (.brk w) s = .next (s.issued.trap .trapi (BitVec.ofNat 64 (w.f.toNat + 2 ^ 17)))) ∧
    (s.here.debugger = true → ∃ t, exec (.brk w) s = .next t ∧ ∀ q ∈ s.here.stopGroup s.cur.strand,
      (t.here.strand q).life = .halted ∧ (t.here.strand q).pc = s.cur.hdr + BitVec.ofNat 57 (4 * s.cur.len))) ∧
  (∀ (w : SS) (s : State), s.Ready (.scalar (.rdsr w)) [] [w.ra] →
    exec (.rdsr w) s = .next (s.issued.landReg w.ra 1 (s.special w.srn))) ∧
  (∀ (w : SS) (s : State), s.Ready (.scalar (.wrsr w)) [w.ra] [] →
    exec (.wrsr w) s = .next (s.issued.setSpecial w.srn (s.rd w.ra))) ∧
  (∀ (w : SS) (s : State), s.Ready (.scalar (.guard w)) [] [] →
    exec (.guard w) s = .next (s.issued.modMe fun t => { t with gselReg := w.ra, gselBit := w.gbit })) ∧
  (∀ (w : SS) (s : State), s.Ready (.scalar (.eret w)) [] [] → s.myCore.serving.get s.cur.strand = none →
    exec (.eret w) s = .next s.issued) ∧
  (∀ (w : SS) (s : State) (x : Ctx) (p : Strand), s.Ready (.scalar (.eret w)) [] [] → s.cur.ctx = .fw → x ≠ .fw →
    s.myCore.serving.get s.cur.strand = some (x, p) → (s.strand s.cur.core x p).ending = false →
    (∀ q, (s.strand s.cur.core x q).lateq = []) →
    ∃ t, exec (.eret w) s = .next t ∧ t.myCore.serving.get s.cur.strand = none ∧
      ∀ q ∈ (s.ctx s.cur.core x).trappedWith p, (t.strand s.cur.core x q).life =
          (match (s.ctx s.cur.core x).joinOf q with | some n => .waiting (.join n) | none => .running) ∧
        (t.strand s.cur.core x q).pc = s.me.epc.setWidth 57 <<< 2)

/-- R164, R165, R168, R128: cc.add and cc.set on a completion counter modulo 2^16; wait.lt and wait.ge against the threshold fixed at
their issue, stalling while it is not met; tok.push and tok.pop move a token, stalling on a full or an empty FIFO; a fence
whose classes are performed lets the strand go on, and one with something left stalls. -/
def Obligations.CounterTokenFenceResults : Prop :=
  (∀ (w : SS) (s : State), s.Ready (.scalar (.ccAdd w)) [w.cca] [] →
    ∃ t, exec (.ccAdd w) s = .next t ∧
      (t.here.cc[w.cc.toNat]).toNat = ((s.here.cc[w.cc.toNat]).toNat + (s.rd w.cca).toNat + w.imm8.toNat) % 2 ^ 16) ∧
  (∀ (w : SS) (s : State), s.Ready (.scalar (.ccSet w)) [w.cca] [] →
    ∃ t, exec (.ccSet w) s = .next t ∧ (t.here.cc[w.cc.toNat]).toNat = ((s.rd w.cca).toNat + w.imm8.toNat) % 2 ^ 16) ∧
  (∀ (w : SS) (s : State) (th : BitVec 16), th = s.me.threshold.getD (BitVec.ofNat 16 ((s.rd w.cca).toNat + w.imm8.toNat)) →
    s.Ready (.scalar (.waitLt w)) (if s.me.threshold.isSome then [] else [w.cca]) [] →
    (s.here.cc[w.cc.toNat].toNat < th.toNat → exec (.waitLt w) s = .next (s.issued.modMe fun t => { t with threshold := none })) ∧
    (¬s.here.cc[w.cc.toNat].toNat < th.toNat →
      exec (.waitLt w) s = .next ((s.issued.modMe fun t => { t with threshold := some th }).stall .counter))) ∧
  (∀ (w : SS) (s : State) (th : BitVec 16), th = s.me.threshold.getD (BitVec.ofNat 16 ((s.rd w.cca).toNat + w.imm8.toNat)) →
    s.Ready (.scalar (.waitGe w)) (if s.me.threshold.isSome then [] else [w.cca]) [] →
    (th.toNat ≤ s.here.cc[w.cc.toNat].toNat → exec (.waitGe w) s = .next (s.issued.modMe fun t => { t with threshold := none })) ∧
    (¬th.toNat ≤ s.here.cc[w.cc.toNat].toNat →
      exec (.waitGe w) s = .next ((s.issued.modMe fun t => { t with threshold := some th }).stall .counter))) ∧
  (∀ (w : SS) (s : State) (q : Strand), s.Ready (.scalar (.tokPush w)) [] [] → q = neighbour s.cur.strand w.dir →
    s.here.ownKBusy s.cur.strand = false → (∀ r ∈ s.here.replay, r.strand ≠ s.cur.strand) →
    (s.here.tokens.get s.cur.strand q < 8 → exec (.tokPush w) s = .next (s.issued.modHere fun k => { k with
      tokens := k.tokens.set s.cur.strand q (s.here.tokens.get s.cur.strand q + 1) })) ∧
    (8 ≤ s.here.tokens.get s.cur.strand q → exec (.tokPush w) s = .next (s.issued.stall .interlock))) ∧
  (∀ (w : SS) (s : State) (q : Strand), s.Ready (.scalar (.tokPop w)) [] [] → q = neighbour s.cur.strand w.dir →
    (s.here.tokens.get q s.cur.strand ≠ 0 → exec (.tokPop w) s = .next (s.issued.modHere fun k => { k with
      tokens := k.tokens.set q s.cur.strand (s.here.tokens.get q s.cur.strand - 1) })) ∧
    (s.here.tokens.get q s.cur.strand = 0 → exec (.tokPop w) s = .next (s.issued.stall .token))) ∧
  (∀ (w : SS) (s : State), s.Ready (.scalar (.fence w)) [] [] →
    (s.fenceBusy w.classes (s.me.mark.getD s.here.serial) = false →
      exec (.fence w) s = .next (s.issued.modMe fun t => { t with mark := none })) ∧
    (s.fenceBusy w.classes (s.me.mark.getD s.here.serial) = true →
      ∃ t y, exec (.fence w) s = .next t ∧ t.me.life = .waiting y ∧ t.me.mark = some (s.me.mark.getD s.here.serial)))

/-! ## The sequencer (R191-R193, R196, R197) -/

/-- R191, R192, R196, R197: lp.set and lp.stride write an idle level and trap ILLEGAL at the bundle address on an active one; lp.run
counts the run and starts iteration 0 of an idle level whose END the walk reaches, or with a TRIP of 0 goes on after END;
lp.brk idles its level and goes on after END, and does nothing on an idle one; lp.clamp bounds the TRIP of an active level. -/
def Obligations.SequencerResults : Prop :=
  (∀ (w : SS) (s : State), s.Ready (.scalar (.lpSet w)) [w.lpa] [] →
    ((s.here.level (levelNum w.lv)).active = true → exec (.lpSet w) s = .next (s.issued.trap .illegal (s.cur.hdr.setWidth 64))) ∧
    ((s.here.level (levelNum w.lv)).active = false → ∃ t, exec (.lpSet w) s = .next t ∧
      t.here.level (levelNum w.lv) = { s.here.level (levelNum w.lv) with
        trip := (s.rd w.lpa).setWidth 32, stride := Vector.replicate 32 0 })) ∧
  (∀ (w : SS) (s : State), s.Ready (.scalar (.lpStride w)) [w.lpsa] [] →
    ((s.here.level (levelNum w.lv)).active = true → exec (.lpStride w) s = .next (s.issued.trap .illegal (s.cur.hdr.setWidth 64))) ∧
    ((s.here.level (levelNum w.lv)).active = false → ∃ t, exec (.lpStride w) s = .next t ∧
      (t.here.level (levelNum w.lv)).stride[w.lpas.toNat] = (s.rd w.lpsa).setWidth 32 ∧
      ∀ m : Fin 32, m.val ≠ w.lpas.toNat →
        (t.here.level (levelNum w.lv)).stride[m.val] = (s.here.level (levelNum w.lv)).stride[m.val])) ∧
  (∀ (w : SS) (s : State), s.Ready (.scalar (.lpRun w)) [] [] → (s.here.level (levelNum w.lv)).active = true →
    exec (.lpRun w) s = .next (s.issued.trap .illegal (s.cur.hdr.setWidth 64))) ∧
  (∀ (w : SS) (s s1 : State) (after top fin : Addr), s.Ready (.scalar (.lpRun w)) [] [] →
    top = s.cur.hdr + BitVec.ofNat 57 (4 * s.cur.len) → fin = s.cur.hdr + BitVec.ofNat 57 (4 * w.off14.toNat) →
    (s.here.level (levelNum w.lv)).active = false →
    (∀ m ∈ s.here.activeLevels, (s.here.level m).holds top = true ∧ (s.here.level m).holds fin = true) →
    s.issued.walkBody top fin 256 = .reached s1 after →
    ∃ t, exec (.lpRun w) s = .next t ∧ (t.here.level (levelNum w.lv)).run = (s.here.level (levelNum w.lv)).run + 1 ∧
      (t.here.level (levelNum w.lv)).index = 0 ∧
      (if (s.here.level (levelNum w.lv)).trip = 0 then (t.here.level (levelNum w.lv)).active = false ∧ t.me.forced = some after
       else (t.here.level (levelNum w.lv)).active = true ∧ (t.here.level (levelNum w.lv)).top = top ∧
         (t.here.level (levelNum w.lv)).fin = fin)) ∧
  (∀ (w : SS) (s : State), s.Ready (.scalar (.lpBrk w)) [] [] →
    ((s.here.level (levelNum w.lv)).active = false → exec (.lpBrk w) s = .next s.issued) ∧
    ((s.here.level (levelNum w.lv)).active = true →
      (s.here.level (levelNum w.lv)).top.toNat ≤ (s.here.level (levelNum w.lv)).fin.toNat →
      ∃ t, exec (.lpBrk w) s = .next t ∧ (t.here.level (levelNum w.lv)).active = false ∧
        t.me.forced = some (s.here.level (levelNum w.lv)).after)) ∧
  (∀ (w : SS) (s : State), s.Ready (.scalar (.lpClamp w)) [w.lpa] [] →
    ∃ t, exec (.lpClamp w) s = .next t ∧
      (let l := (s.ctx s.cur.core s.myCore.boundary).level (levelNum w.lv)
       let l' := (t.ctx s.cur.core s.myCore.boundary).level (levelNum w.lv)
       (l.active = true → l.index.toNat < l.trip.toNat →
         l'.trip.toNat = max (l.index.toNat + 1) (min l.trip.toNat ((s.rd w.lpa).toNat % 2 ^ 32))) ∧
       (l.active = false → l' = l)))

/-! ## Scalar loads and stores (R129-R131, R170, R171) -/

/-- R129, R130, R171, R283, R103, R105: a load reads its bytes, little-endian and sign-extended, a local one at latency 4, a poisoned line giving
a POISON completion fault; a store writes its bytes and no other, a global one but for the page-table entry that the walk marks;
through the queue port ldg.d of the strand that may pop takes the head of its queue and stg.d of the strand that may push
appends, an empty or a full queue stalling. A misaligned access traps ALIGN; a local one past its segment's end SEGBOUND, one whose handle
names nothing or whose segment cannot be brought in SEGFAIL, for a load by a completion fault, for a store at issue; a global one above
2^57 or without permission takes PROT, one whose page the host has refused PAGE, by a completion fault, and a wrong use of the queue
port traps PROT or QUEUE. -/
def Obligations.ScalarLoadAndStoreResults : Prop :=
  LoadsLocal .ldlB .ldlB 1 ∧ LoadsLocal .ldlH .ldlH 2 ∧ LoadsLocal .ldlW .ldlW 4 ∧ LoadsLocal .ldlD .ldlD 8 ∧
  StoresLocal .stlB .stlB 1 ∧ StoresLocal .stlH .stlH 2 ∧ StoresLocal .stlW .stlW 4 ∧ StoresLocal .stlD .stlD 8 ∧
  LoadsGlobal .ldgB .ldgB 1 ∧ LoadsGlobal .ldgH .ldgH 2 ∧ LoadsGlobal .ldgW .ldgW 4 ∧ LoadsGlobal .ldgD .ldgD 8 ∧
  StoresGlobal .stgB .stgB 1 ∧ StoresGlobal .stgH .stgH 2 ∧ StoresGlobal .stgW .stgW 4 ∧ StoresGlobal .stgD .stgD 8 ∧
  TrapsLocal .ldlB .stlB .ldlB .stlB 1 ∧ TrapsLocal .ldlH .stlH .ldlH .stlH 2 ∧ TrapsLocal .ldlW .stlW .ldlW .stlW 4 ∧
  TrapsLocal .ldlD .stlD .ldlD .stlD 8 ∧ TrapsGlobal .ldgB .stgB .ldgB .stgB 1 ∧ TrapsGlobal .ldgH .stgH .ldgH .stgH 2 ∧
  TrapsGlobal .ldgW .stgW .ldgW .stgW 4 ∧ TrapsGlobal .ldgD .stgD .ldgD .stgD 8 ∧
  (∀ (w : SG) (s : State) (q : Nat), s.Ready (.scalar (.ldgD w)) [w.a] [w.d] → portQueue (s.sgAddr w).toNat = some q →
    s.cur.strand = queuePopper q → s.loadsFull = false → s.here.headBad q = false →
    (s.here.queue q = [] → exec (.ldgD w) s = .next (s.issued.stall .queueReg)) ∧
    (∀ v r, s.here.queue q = v :: r → ∃ t, exec (.ldgD w) s = .next t ∧ t.here.queue q = r ∧
      t.me.pend = s.me.pend ++ (if w.d = 0 then [] else [⟨w.d, some v, true, false, 0⟩]))) ∧
  (∀ (w : SG) (s : State) (q : Nat), s.Ready (.scalar (.stgD w)) [w.a, w.d] [] → portQueue (s.sgAddr w).toNat = some q →
    s.cur.strand = queuePusher q →
    (queueFull s.here q = true → exec (.stgD w) s = .next (s.issued.stall .queueReg)) ∧
    (queueFull s.here q = false → ∃ t, exec (.stgD w) s = .next t ∧ t.here.queue q = s.here.queue q ++ [s.rd w.d]))

/-! ## Memory-extended words (R47, R172-R176, R319-R327) -/

/-- R174, R323, R324, R176: memory-extended loads, stores, fe.probe, fe.set and prefetch that are performed at once, in the device
and the local form: the bytes and the F bits they read and write, the registers they answer, and that nothing else of device
memory changes. -/
def Obligations.MemoryExtendedResults : Prop :=
  LoadsMe .ldm .ldm false false ∧ LoadsMe .ldmWait .ldmWait true false ∧ LoadsMe .ldmCons .ldmCons true true ∧
  StoresMe .stm .stm false none ∧ StoresMe .stmFill .stmFill true (some true) ∧ StoresMe .stmOvf .stmOvf false (some true) ∧
  StoresMe .stmSete .stmSete false (some false) ∧
  (∀ (w : ME) (s : State) (n : Nat) (p : Place) (m : Store), n = 2 ^ w.width.toNat →
    s.MeOk (.feProbe w) w [w.a] [w.d] n needRd p m →
    ∃ t, exec (.feProbe w) s = .next t ∧ s.OnlyAt t p n m ∧ t.readPlace p n = (s.marked m).readPlace p n ∧
      t.Answers w.d (BitVec.ofNat 64 ((s.marked m).probePlace p n))) ∧
  (∀ (w : ME) (s : State) (n : Nat) (p : Place) (m : Store), n = 2 ^ w.width.toNat →
    s.MeOk (.feSet w) w [w.a] [] n needFill p m →
    ∃ t, exec (.feSet w) s = .next t ∧ s.OnlyAt t p n (s.writing w n m) ∧
      t.readPlace p n = (s.marked (s.writing w n m)).readPlace p n ∧
      t.fPlace p n (w.fval == 1) = true) ∧
  (∀ (w : ME) (s : State), s.Ready (.wide (.prefetch w)) [w.a] [] → s.CanPop w.pre.tok →
    (s.cur.strand = .L ∨ s.cur.strand = .S) → s.here.meQueue s.cur.strand = [] →
    ∃ t, exec (.prefetch w) s = .next t ∧ t.mem = s.mem ∧ t.here.meQueue s.cur.strand = [] ∧
      ∀ r, t.rd r = s.rd r)

/-- R320, R321: what each atomic leaves in memory, and that it answers the old value; nothing else of device memory changes. -/
def Obligations.AtomicResults : Prop :=
  Atomic .atAdd .atAdd false true (fun _ _ old b _ => old + b) ∧
  Atomic .atSub .atSub false true (fun _ n old b _ => old + 2 ^ (8 * n) - b) ∧
  Atomic .atAnd .atAnd false true (fun _ _ old b _ => old &&& b) ∧
  Atomic .atOr .atOr false true (fun _ _ old b _ => old ||| b) ∧
  Atomic .atXor .atXor false true (fun _ _ old b _ => old ^^^ b) ∧
  Atomic .atMin .atMin false true (fun _ n old b _ =>
    if (BitVec.ofNat (8 * n) old).toInt ≤ (BitVec.ofNat (8 * n) b).toInt then old else b) ∧
  Atomic .atMax .atMax false true (fun _ n old b _ =>
    if (BitVec.ofNat (8 * n) old).toInt ≤ (BitVec.ofNat (8 * n) b).toInt then b else old) ∧
  Atomic .atMinn .atMinn false true (fun _ _ old b _ => if old ≤ b then old else b) ∧
  Atomic .atMaxn .atMaxn false true (fun _ _ old b _ => if old ≤ b then b else old) ∧
  Atomic .atXchg .atXchg false true (fun _ _ _ b _ => b) ∧
  Atomic .atCas .atCas true true (fun _ _ old b c => if old = b then c else old) ∧
  Atomic .atInc .atInc false true (fun _ _ old b _ => if b ≤ old then 0 else old + 1) ∧
  (∀ (w : ME) (s : State) (p : Place) (m : Store), s.MeOk (.atFadd w) w [w.a, w.b] [w.d] 4 needRmw p m →
    (s.marked m).poisonPlace p 4 = false →
    ∃ t, exec (.atFadd w) s = .next t ∧ s.OnlyAt t p 4 (s.writing w 4 m) ∧
      t.Answers w.d (BitVec.ofNat 64 ((s.marked m).readPlace p 4)) ∧
      t.readPlace p 4 =
        (let old := (s.marked m).readPlace p 4
         let b := (s.rd w.b).toNat % 2 ^ 32
         if w.afmt = 0xF then fadd .f32 old b % 2 ^ 32
         else fadd .bf16 (old % 2 ^ 16) (b % 2 ^ 16) % 2 ^ 16 + 2 ^ 16 * (fadd .bf16 (old / 2 ^ 16) (b / 2 ^ 16) % 2 ^ 16)))

/-- R325, R326, R327: acq of a version that has been reached answers it; rel adds 1 to the version and answers the old one; sync.bind
enters an aligned region that overlaps no binding, sync.unbind takes away the bindings that start there. -/
def Obligations.SyncObjectResults : Prop :=
  (∀ (w : ME) (s : State) (p : Place) (m : Store), s.MeOk (.acq w) w [w.a, w.b] [w.d] 8 needRd p m →
    (s.marked m).poisonPlace p 8 = false → (s.rd w.b).toNat ≤ (s.marked m).readPlace p 8 →
    ∃ t, exec (.acq w) s = .next t ∧ s.OnlyAt t p 8 m ∧ t.readPlace p 8 = (s.marked m).readPlace p 8 ∧
      t.Answers w.d (BitVec.ofNat 64 ((s.marked m).readPlace p 8))) ∧
  (∀ (w : ME) (s : State) (p : Place) (m : Store), s.MeOk (.rel w) w [w.a] [w.d] 8 needRmw p m →
    (s.marked m).poisonPlace p 8 = false →
    ∃ t, exec (.rel w) s = .next t ∧ s.OnlyAt t p 8 (s.writing w 8 m) ∧
      t.readPlace p 8 = ((s.marked m).readPlace p 8 + 1) % 2 ^ 64 ∧
      t.Answers w.d (BitVec.ofNat 64 ((s.marked m).readPlace p 8))) ∧
  (∀ (w : ME) (s : State), s.Ready (.wide (.syncBind w)) [w.a, w.b, w.c] [] → s.CanPop w.pre.tok →
    (s.cur.strand = .L ∨ s.cur.strand = .S) → s.here.meQueue s.cur.strand = [] →
    (s.rd w.a + w.imm.signExtend 64).toNat % 64 = 0 → (s.rd w.b).toNat % 64 = 0 → s.rd w.b ≠ 0 → (s.rd w.c).toNat % 8 = 0 →
    (s.rd w.a + w.imm.signExtend 64).toNat + (s.rd w.b).toNat ≤ 2 ^ 57 →
    (s.parts[s.here.part.toNat]).bindings.length < 1024 →
    (∀ b ∈ (s.parts[s.here.part.toNat]).bindings, b.start.toNat + b.len ≤ (s.rd w.a + w.imm.signExtend 64).toNat ∨
      (s.rd w.a + w.imm.signExtend 64).toNat + (s.rd w.b).toNat ≤ b.start.toNat) →
    ∃ t, exec (.syncBind w) s = .next t ∧ (t.parts[s.here.part.toNat]).bindings = (s.parts[s.here.part.toNat]).bindings ++
      [⟨s.here.root, (s.rd w.a + w.imm.signExtend 64).setWidth 57, (s.rd w.b).toNat, s.rd w.c, s.here.vf⟩]) ∧
  (∀ (w : ME) (s : State), s.Ready (.wide (.syncUnbind w)) [w.a] [] → s.CanPop w.pre.tok →
    (s.cur.strand = .L ∨ s.cur.strand = .S) → s.here.meQueue s.cur.strand = [] →
    ∃ t, exec (.syncUnbind w) s = .next t ∧ (t.parts[s.here.part.toNat]).bindings =
      (s.parts[s.here.part.toNat]).bindings.filter fun b => b.start.setWidth 64 != s.rd w.a + w.imm.signExtend 64)

/-! ## Streams, segments and vector length (R152, R177-R183) -/

/-- R178, R179, R254: the stream configuration words. Each but as.adv starts the stream again at position 0 with nothing fetched ahead;
as.cfg takes every field from the 64-byte descriptor, a dimension past NDIM one element; as.dim sets a dimension, and those that it adds
below have one element; as.adv moves the position modulo the element count. -/
def Obligations.StreamConfigurationResults : Prop :=
  (∀ (w : CF) (s : State) (name : BitVec 16) (g : Seg) (off : Word), s.Ready (.wide (.asCfg w)) [w.a] [] → s.CanPop w.pre.tok →
    s.cur.strand = .L → off = s.rd w.a + BitVec.ofNat 64 (64 * w.imm.toNat) → s.LocalOk w.handle off 64 name g →
    (s.myCore.storeOf g).anyPoison (g.phys off.toNat) 64 = false →
    ∃ t r, exec (.asCfg w) s = .next t ∧ t.here.streams[w.t.toNat] = r ∧ r.bound = true ∧ r.pos = 0 ∧ r.arrived = 0 ∧
      r.consumed = 0 ∧ r.ahead = [] ∧
      (let d := (s.myCore.storeOf g).read (g.phys off.toNat) 64
       r.base.toNat = d % 2 ^ 57 ∧ r.space.toNat = d / 2 ^ 57 % 2 ∧ r.handle.toNat = d / 2 ^ 58 % 2 ^ 6 ∧
       r.fmt.toNat = d / 2 ^ 64 % 2 ^ 4 ∧ r.ndim.toNat = d / 2 ^ 68 % 2 ^ 4 ∧ r.blk.toNat = d / 2 ^ 72 % 2 ^ 8 ∧
       r.sstr.toNat = d / 2 ^ 80 % 2 ^ 16 ∧
       ∀ i : Fin 16, if i.val ≤ r.ndim.toNat then (r.dims[i.val]).ext1.toNat = d / 2 ^ (96 + 26 * i.val) % 2 ^ 12 ∧
           (r.dims[i.val]).stride = (BitVec.ofNat 14 (d / 2 ^ (108 + 26 * i.val))).signExtend 32
         else r.dims[i.val] = ⟨0, 0⟩)) ∧
  (∀ (w : CF) (s : State), s.Ready (.wide (.asDim w)) [w.a, w.b] [] → s.CanPop w.pre.tok →
    ∃ t r, exec (.asDim w) s = .next t ∧ r = s.here.streams[w.t.toNat] ∧ t.here.streams[w.t.toNat] = { r.restart with
        dims := (t.here.streams[w.t.toNat]).dims, ndim := if r.ndim.toNat < w.dim.toNat then w.dim else r.ndim } ∧
      ∀ i : Fin 16, (t.here.streams[w.t.toNat]).dims[i.val] =
        if i.val = w.dim.toNat then ⟨(s.rd w.a).setWidth 16, (s.rd w.b).setWidth 32⟩
        else if r.ndim.toNat < i.val ∧ i.val < w.dim.toNat then ⟨0, 0⟩ else r.dims[i.val]) ∧
  (∀ (w : CF) (s : State), s.Ready (.wide (.asFmt w)) [] [] → s.CanPop w.pre.tok →
    ∃ t, exec (.asFmt w) s = .next t ∧ t.here.streams[w.t.toNat] = { (s.here.streams[w.t.toNat]).restart with fmt := w.fmt }) ∧
  (∀ (w : CF) (s : State), s.Ready (.wide (.asBindLocal w)) [w.a] [] → s.CanPop w.pre.tok →
    ∃ t, exec (.asBindLocal w) s = .next t ∧ t.here.streams[w.t.toNat] = { (s.here.streams[w.t.toNat]).restart with
      bound := true, space := 0, handle := w.handle, base := s.rd w.a }) ∧
  (∀ (w : CF) (s : State), s.Ready (.wide (.asBindDevice w)) [w.a] [] → s.CanPop w.pre.tok →
    ∃ t, exec (.asBindDevice w) s = .next t ∧ t.here.streams[w.t.toNat] = { (s.here.streams[w.t.toNat]).restart with
      bound := true, space := 1, base := ((s.rd w.a).setWidth 57).setWidth 64 }) ∧
  (∀ (w : CF) (s : State), s.Ready (.wide (.asRst w)) [] [] → s.CanPop w.pre.tok →
    ∃ t, exec (.asRst w) s = .next t ∧ t.here.streams[w.t.toNat] = (s.here.streams[w.t.toNat]).restart) ∧
  (∀ (w : CF) (s : State), s.Ready (.wide (.asAdv w)) [w.a] [] → s.CanPop w.pre.tok →
    ∃ t, exec (.asAdv w) s = .next t ∧ (t.here.streams[w.t.toNat]).total = (s.here.streams[w.t.toNat]).total ∧
      ((t.here.streams[w.t.toNat]).pos : Int) =
        (((s.here.streams[w.t.toNat]).pos : Int) + (s.rd w.a).toInt) % (s.here.streams[w.t.toNat]).total)

/-- R143, R145, R149, R152, R181, R182, R183: sg.bind binds a handle; sg.touch of a resident segment issues and ends a push-out of it;
sg.pin of a set that fits and is resident raises each pin count by one and sg.unpin lowers it, in the firmware context not below 1 (R133); sg.evict starts the push-out
of a segment that is neither pinned nor held nor moving, and leaves any other, and every segment of firmware, alone; sg.info answers name, length, class, pin
count and validity of a present segment and 0 for an unbound handle; vl.set clamps to 1 .. 128. (That a segment which two handles of a
mask name is pinned once is the model's reading, log 43.) -/
def Obligations.SegmentWordResults : Prop :=
  (∀ (w : CF) (s : State), s.Ready (.wide (.sgBind w)) [] [] → s.CanPop w.pre.tok →
    ∃ t, exec (.sgBind w) s = .next t ∧ ∀ h : Fin 64, t.here.sg[h.val] = if h.val = w.handle.toNat then w.name else s.here.sg[h.val]) ∧
  (∀ (w : CF) (s : State) (name : BitVec 16) (g : Seg), s.Ready (.wide (.sgTouch w)) [] [] → s.CanPop w.pre.tok →
    s.cur.strand = .L → s.LocalOk w.handle 0 1 name g →
    ∃ t g', exec (.sgTouch w) s = .next t ∧ t.cur.res = .done ∧ t.myCore.seg? s.cur.ctx name = some g' ∧ g'.moving ≠ some .pushOut) ∧
  (∀ (w : CF) (s : State) (l : List (BitVec 16 × BitVec 6)) (gs : List (Seg × BitVec 6)), s.Ready (.wide (.sgPin w)) [w.a] [] →
    s.CanPop w.pre.tok → s.here.pinWait = none → maskNames s.here s.cur.ctx (s.rd w.a) allHandles = .ok l →
    s.pinSet s.cur.core s.cur.ctx l = .ok gs → s.here.pinFits gs = true → (∀ u ∈ s.here.touch, u.failed = false) →
    (∀ n h, (n, h) ∈ l → ∃ g, s.myCore.seg? s.cur.ctx n = some g ∧ g.moving ≠ some .recall) →
    ∃ t, exec (.sgPin w) s = .next t ∧ t.here.pinWait = none ∧ ∀ n h g, (n, h) ∈ l → s.myCore.seg? s.cur.ctx n = some g →
      ∃ g', t.myCore.seg? s.cur.ctx n = some g' ∧ g'.pins = g.pins + 1) ∧
  (∀ (w : CF) (s : State) (l : List (BitVec 16 × BitVec 6)), s.Ready (.wide (.sgUnpin w)) [w.a] [] → s.CanPop w.pre.tok →
    maskNames s.here s.cur.ctx (s.rd w.a) allHandles = .ok l →
    ∃ t, exec (.sgUnpin w) s = .next t ∧ ∀ n h g, (n, h) ∈ l → s.myCore.seg? s.cur.ctx n = some g →
      ∃ g', t.myCore.seg? s.cur.ctx n = some g' ∧ g'.pins = if s.cur.ctx = .fw then max (g.pins - 1) 1 else g.pins - 1) ∧
  (∀ (w : CF) (s : State) (name : BitVec 16) (g : Seg), s.Ready (.wide (.sgEvict w)) [] [] → s.CanPop w.pre.tok →
    resolveHandle s.here s.cur.ctx w.handle = some name → s.myCore.seg? s.cur.ctx name = some g →
    ∃ t g', exec (.sgEvict w) s = .next t ∧ t.myCore.seg? s.cur.ctx name = some g' ∧
      g'.moving = if s.cur.ctx ≠ .fw ∧ g.pins = 0 ∧ s.here.held? name = false ∧ g.moving = none ∧ g.stuck = false then some .pushOut else g.moving) ∧
  (∀ (w : CF) (s : State), s.Ready (.wide (.sgInfo w)) [] [w.t] → s.CanPop w.pre.tok → s.here.sg[w.handle.toNat] = 0xFFFF →
    ∃ t, exec (.sgInfo w) s = .next t ∧ t.Answers w.t 0) ∧
  (∀ (w : CF) (s : State) (name : BitVec 16) (g : Seg), s.Ready (.wide (.sgInfo w)) [] [w.t] → s.CanPop w.pre.tok →
    resolveHandle s.here s.cur.ctx w.handle = some name → s.myCore.seg? s.cur.ctx name = some g →
    ∃ t u, exec (.sgInfo w) s = .next t ∧ t.Answers w.t u ∧ u.extractLsb' 0 16 = name ∧ u.extractLsb' 16 10 = g.len ∧
      u.extractLsb' 26 2 = g.cls ∧ (u.extractLsb' 32 16).toNat = min g.pins 0xFFFF ∧ u.getLsbD 48 = true ∧
      (u.extractLsb' 28 3).toNat = if g.moving.isSome then 4 else if g.pins > 0 then 3 else if s.here.held? name then 2 else 1) ∧
  (∀ (w : CF) (s : State), s.Ready (.wide (.vlSet w)) [w.a] [] → s.CanPop w.pre.tok →
    ∃ t, exec (.vlSet w) s = .next t ∧ (t.here.vl.toNat : Int) = min (max (s.rd w.a).toInt 1) 128)

/-! ## Vector words (R198-R227) -/

/-- R213, R72: the element-wise words that round or fit one exact value for each element; vfma and vfms read their destination
register as it stands at issue. -/
def Obligations.VectorArithmeticResults : Prop :=
  LandsVec .vadd .vadd (fun w => oneFmt w 4 true []) (fun _ => none) (fun w s a b _ o =>
    FitsAll w s (zipV w (addVal (Rnd.ofCode w.rnd)) a b) o) ∧
  LandsVec .vsub .vsub (fun w => oneFmt w 4 true []) (fun _ => none) (fun w s a b _ o =>
    FitsAll w s (zipV w (fun x y => addVal (Rnd.ofCode w.rnd) x (negVal y)) a b) o) ∧
  LandsVec .vmul .vmul (fun w => oneFmt w 6 true []) (fun _ => none) (fun w s a b _ o => FitsAll w s (zipV w mulVal a b) o) ∧
  LandsVec .vfma .vfma (fun w => oneFmt w 6 true [w.op0.index.setWidth 4]) (fun _ => none) (fun w s a b _ o =>
    FitsAll w s (List.zipWith (fun p d => (addVal (Rnd.ofCode w.rnd) p.1 ((Fmt.ofCode w.fmt).val d.val), p.2 || d.poison))
      (zipV w mulVal a b) (s.vElems w (w.op0.index.setWidth 4) a.length)) o) ∧
  LandsVec .vfms .vfms (fun w => oneFmt w 6 true [w.op0.index.setWidth 4]) (fun _ => none) (fun w s a b _ o =>
    FitsAll w s (List.zipWith (fun p d => (addVal (Rnd.ofCode w.rnd) ((Fmt.ofCode w.fmt).val d.val) (negVal p.1), p.2 || d.poison))
      (zipV w mulVal a b) (s.vElems w (w.op0.index.setWidth 4) a.length)) o) ∧
  LandsVec .vabs .vabs (fun w => oneFmt w 4 false []) (fun _ => none) (fun w s a _ _ o => FitsAll w s (mapV w absVal a) o) ∧
  LandsVec .vneg .vneg (fun w => oneFmt w 4 false []) (fun _ => none) (fun w s a _ _ o => FitsAll w s (mapV w negVal a) o) ∧
  LandsVec .vsqr .vsqr (fun w => oneFmt w 6 false []) (fun _ => none) (fun w s a _ _ o =>
    FitsAll w s (mapV w (fun x => mulVal x x) a) o) ∧
  LandsVec .vrcp .vrcp (fun w => oneFmt w 12 false []) (fun _ => none) (fun w s a _ _ o => FitsAll w s (mapV w rcpVal a) o) ∧
  LandsVec .vrsqrt .vrsqrt (fun w => oneFmt w 12 false []) (fun _ => none) (fun w s a _ _ o => FitsAll w s (mapV w rsqrtVal a) o) ∧
  LandsVec .vexp2 .vexp2 (fun w => oneFmt w 12 false []) (fun _ => none) (fun w s a _ _ o => FitsAll w s (mapV w exp2Val a) o) ∧
  LandsVec .vlog2 .vlog2 (fun w => oneFmt w 12 false []) (fun _ => none) (fun w s a _ _ o => FitsAll w s (mapV w log2Val a) o) ∧
  LandsVec .vscale .vscale (fun w => oneFmt w 4 true []) (fun _ => none) (fun w s a b _ o =>
    FitsAll w s (List.zipWith (fun x y => (scaleVal ((Fmt.ofCode w.fmt).val x.val) ((y.val % 256 : Nat) - 127), x.poison || y.poison))
      a b) o)

/-- R213-R219, R87, R88: the vector words that combine, compare, select, permute, broadcast and count patterns, with no rounding and no
draw; reductions combine the active elements, filled up with the identity, in the fixed tree, and every element of the result is
the root; a scan adds from element 0 on, rounding at each step. -/
def Obligations.VectorPatternAndReductionResults : Prop :=
  (let L (i : VA → Instr) (v : VA → WideWord) (f : VA → Nat → Nat → Nat) :=
    LandsVec i v (fun w => oneFmt w 4 true []) (fun _ => none) (fun w s a b _ o => Plain s (zipE (f w) a b) o)
   L .vand .vand (fun _ x y => x &&& y) ∧ L .vor .vor (fun _ x y => x ||| y) ∧ L .vxor .vxor (fun _ x y => x ^^^ y) ∧
   L .vshl .vshl (fun w x y => x * 2 ^ (y % (Fmt.ofCode w.fmt).width) % 2 ^ (Fmt.ofCode w.fmt).width) ∧
   L .vshr .vshr (fun w x y => x / 2 ^ (y % (Fmt.ofCode w.fmt).width)) ∧
   L .vsar .vsar (fun w x y => ((signedOf (Fmt.ofCode w.fmt).width x) / (2 ^ (y % (Fmt.ofCode w.fmt).width) : Nat) %
     (2 ^ (Fmt.ofCode w.fmt).width : Nat)).toNat) ∧
   L .vmin .vmin (fun w => minmaxCode (Fmt.ofCode w.fmt) false) ∧ L .vmax .vmax (fun w => minmaxCode (Fmt.ofCode w.fmt) true) ∧
   L .vceq .vceq (fun w x y => if eqVal ((Fmt.ofCode w.fmt).val x) ((Fmt.ofCode w.fmt).val y) then 2 ^ (Fmt.ofCode w.fmt).width - 1 else 0) ∧
   L .vclt .vclt (fun w x y => if ltVal ((Fmt.ofCode w.fmt).val x) ((Fmt.ofCode w.fmt).val y) then 2 ^ (Fmt.ofCode w.fmt).width - 1 else 0) ∧
   L .vcle .vcle (fun w x y => if ltVal ((Fmt.ofCode w.fmt).val x) ((Fmt.ofCode w.fmt).val y) ||
     eqVal ((Fmt.ofCode w.fmt).val x) ((Fmt.ofCode w.fmt).val y) then 2 ^ (Fmt.ofCode w.fmt).width - 1 else 0)) ∧
  LandsVec .vmov .vmov (fun w => oneFmt w 4 false []) (fun _ => none) (fun _ s a _ _ o => Plain s a o) ∧
  LandsVec .vclamp .vclamp (fun w => oneFmt w 4 true [w.aux.extractLsb' 0 4]) (fun _ => none) (fun w s a b _ o =>
    Plain s (zipE (minmaxCode (Fmt.ofCode w.fmt) false) (zipE (minmaxCode (Fmt.ofCode w.fmt) true) a b)
      (s.vElems w (w.aux.extractLsb' 0 4) a.length)) o) ∧
  LandsVec .vsel .vsel (fun w => oneFmt w 4 true [w.aux.extractLsb' 0 4]) (fun _ => none) (fun w s a b _ o =>
    o.sat = false ∧ o.sr = s.here.srVec ∧ ∀ (k : Nat) (x y m : Elem), a[k]? = some x → b[k]? = some y →
      (s.vElems w (w.aux.extractLsb' 0 4) a.length)[k]? = some m →
      o.outs[k]? = some (⟨if m.val = 0 then y.val else x.val, (if m.val = 0 then y.poison else x.poison) || m.poison⟩ : Elem)) ∧
  LandsVec .vperm .vperm (fun w s => { oneFmt w 4 true [] s with n1 := 4096 / (Fmt.ofCode w.fmt).width }) (fun _ => none)
    (fun w s a b _ o => o.sat = false ∧ o.sr = s.here.srVec ∧ ∀ (k : Nat) (x j : Elem), b[k]? = some j →
      a[j.val % (4096 / (Fmt.ofCode w.fmt).width)]? = some x → o.outs[k]? = some (⟨x.val, x.poison || j.poison⟩ : Elem)) ∧
  LandsVec .vbcast .vbcast (fun w s => { oneFmt w 4 false [] s with n1 := 4096 / (Fmt.ofCode w.fmt).width }) (fun _ => none)
    (fun w s a _ _ o => ∀ x, a[w.aux.toNat]? = some x →
      Plain s (List.replicate (s.here.vl.toNat * 32 / (Fmt.ofCode w.fmt).width) x) o) ∧
  LandsVec .vpop .vpop (fun w => oneFmt w 8 false []) (fun _ => none) (fun w s a _ _ o =>
    Plain s [⟨(a.filter fun e => !isZero ((Fmt.ofCode w.fmt).val e.val)).length, a.any (·.poison)⟩] o) ∧
  (let L (i : VA → Instr) (v : VA → WideWord) (op : RedOp) (node : VA → Nat → Nat → Nat → Nat) :=
    LandsVec i v (fun w => oneFmt w 8 false []) (fun w => some (Fmt.ofCode w.fmt)) (fun w s a _ _ o =>
      let d := if (Fmt.ofCode w.fmt).width = 32 then 7 else 8
      o.outs = List.replicate a.length ⟨redAt (node w) (drawAt (Rnd.ofCode w.rnd) s.here.srVec)
        (fun i => ((a[i]?).map (·.val)).getD (redIdentity (Fmt.ofCode w.fmt) op)) (2 ^ d) d 0, a.any (·.poison)⟩ ∧
      o.sr = srAfter (Rnd.ofCode w.rnd) s.here.srVec (2 ^ d - 1))
   L .vredAdd .vredAdd .add (fun w u x y => ((Fmt.ofCode w.fmt).convert (Rnd.ofCode w.rnd) (w.sat == 1) u true
     (addVal (Rnd.ofCode w.rnd) ((Fmt.ofCode w.fmt).val x) ((Fmt.ofCode w.fmt).val y))).code) ∧
   L .vredMax .vredMax .max (fun w _ x y => minmaxCode (Fmt.ofCode w.fmt) true x y) ∧
   L .vredMin .vredMin .min (fun w _ x y => minmaxCode (Fmt.ofCode w.fmt) false x y)) ∧
  LandsVec .vscanAdd .vscanAdd (fun w => oneFmt w 8 false []) (fun _ => none) (fun w s a _ _ o =>
    o.outs = (List.range a.length).map (fun k => ⟨scanAt (Fmt.ofCode w.fmt) (Rnd.ofCode w.rnd) (w.sat == 1)
      (drawAt (Rnd.ofCode w.rnd) s.here.srVec) (fun i => ((a[i]?).map (·.val)).getD 0) k, (a.take (k + 1)).any (·.poison)⟩) ∧
    o.sr = srAfter (Rnd.ofCode w.rnd) s.here.srVec a.length)

/-- R221-R226: conversion, quantisation in blocks of 24 with a scale code for each, dequantisation, 2:4-like compression and
expansion of groups of 24, packing and unpacking. -/
def Obligations.VectorConversionResults : Prop :=
  LandsVec .vcvt .vcvt (fun w => convShape (Fmt.ofCode (w.aux.extractLsb' 0 4)).width (Fmt.ofCode w.fmt).width) (fun _ => none)
    (fun w s a _ _ o => Converts a (fun k x => convertCode (Fmt.ofCode w.fmt) (Fmt.ofCode (w.aux.extractLsb' 0 4)) (Rnd.ofCode w.rnd)
      (w.sat == 1) (drawAt (Rnd.ofCode w.rnd) s.here.srVec k) x.val) (·.poison) o) ∧
  LandsVec .vq .vq (fun w s =>
      let h := convShape (Fmt.ofCode (w.aux.extractLsb' 5 4)).width (Fmt.ofCode w.fmt).width s
      { h with auxOut := some (w.aux.extractLsb' 0 5, 8, (h.n1 + 23) / 24) }) (fun _ => none)
    (fun w s a _ _ o =>
      let g := Fmt.ofCode (w.aux.extractLsb' 5 4)
      let c (j : Nat) := scaleCode (Fmt.ofCode w.fmt) (Rnd.ofCode w.rnd)
        (((blockAt a j).map fun e => g.val e.val).foldl maxMag (.fin false 0 0))
      o.aux = (List.range ((a.length + 23) / 24)).map (fun j => ⟨c j, (blockAt a j).any (·.poison)⟩) ∧
      Converts a (fun k x => (Fmt.ofCode w.fmt).convert (Rnd.ofCode w.rnd) false (drawAt (Rnd.ofCode w.rnd) s.here.srVec k) false
        (scaleVal (g.val x.val) (127 - (c (k / 24) : Int)))) (·.poison) o) ∧
  LandsVec .vdq .vdq (fun w s =>
      let h := convShape (Fmt.ofCode (w.aux.extractLsb' 5 4)).width (Fmt.ofCode w.fmt).width s
      { h with auxIn := some (w.aux.extractLsb' 0 5, 8, (h.n1 + 23) / 24) }) (fun _ => none)
    (fun w s a _ x o => ∀ k e c, a[k]? = some e → x[k / 24]? = some c →
      (let v := (Fmt.ofCode w.fmt).convert (Rnd.ofCode w.rnd) (w.sat == 1) (drawAt (Rnd.ofCode w.rnd) s.here.srVec k) false
         (scaleVal ((Fmt.ofCode (w.aux.extractLsb' 5 4)).val e.val) ((c.val : Int) - 127))
       o.outs[k]? = some (⟨v.code, v.poison || (e.poison || c.poison)⟩ : Elem))) ∧
  LandsVec .vsp .vsp (fun w s => ⟨6, (Fmt.ofCode w.fmt).width, 0, 24 * (s.active (Fmt.ofCode w.fmt).width / 24), 0, 0, false, [], none,
      some (w.aux.extractLsb' 0 5, 32, s.active (Fmt.ofCode w.fmt).width / 24), (Fmt.ofCode w.fmt).width,
      keptOf (w.aux.extractLsb' 5 2) * (s.active (Fmt.ofCode w.fmt).width / 24)⟩) (fun _ => none)
    (fun w s a _ _ o =>
      let kept (j : Nat) := keptPositions (Fmt.ofCode w.fmt) (blockAt a j) (keptOf (w.aux.extractLsb' 5 2))
      o.outs = (List.range (a.length / 24)).flatMap (fun j => (kept j).filterMap fun i => (blockAt a j)[i]?) ∧
      o.aux = (List.range (a.length / 24)).map (fun j => ⟨((kept j).map (2 ^ ·)).sum, (blockAt a j).any (·.poison)⟩) ∧
      o.sat = false ∧ o.sr = s.here.srVec) ∧
  LandsVec .vdsp .vdsp (fun w s => ⟨6, (Fmt.ofCode w.fmt).width, 0,
      keptOf (w.aux.extractLsb' 5 2) * (s.active (Fmt.ofCode w.fmt).width / 24), 0, 0, false, [],
      some (w.aux.extractLsb' 0 5, 32, s.active (Fmt.ofCode w.fmt).width / 24), none, (Fmt.ofCode w.fmt).width,
      24 * (s.active (Fmt.ofCode w.fmt).width / 24)⟩) (fun _ => none)
    (fun w _ a _ x o => ∀ j m i, x[j]? = some m → i < 24 →
      (let n := keptOf (w.aux.extractLsb' 5 2)
       let below := ((List.range i).filter fun b => m.val.testBit b).length
       if m.val < 2 ^ 24 ∧ ((List.range 24).filter fun b => m.val.testBit b).length = n then
         (if m.val.testBit i = true then ∀ e, a[n * j + below]? = some e → o.outs[24 * j + i]? = some (⟨e.val, e.poison || m.poison⟩ : Elem)
          else o.outs[24 * j + i]? = some (⟨0, m.poison⟩ : Elem))
       else o.outs[24 * j + i]? = some (⟨0, true⟩ : Elem))) ∧
  LandsVec .vpk .vpk (fun w s => ⟨6, 2 * (Fmt.ofCode w.fmt).width, 0, s.here.vl.toNat * 32 / (2 * (Fmt.ofCode w.fmt).width),
      2 * (Fmt.ofCode w.fmt).width, s.here.vl.toNat * 32 / (2 * (Fmt.ofCode w.fmt).width), true, [], none, none, (Fmt.ofCode w.fmt).width,
      2 * (s.here.vl.toNat * 32 / (2 * (Fmt.ofCode w.fmt).width))⟩) (fun _ => none)
    (fun w s a b _ o => o.sr = s.here.srVec ∧
      Converts (a ++ b) (fun _ x => (Fmt.ofCode w.fmt).fit (w.sat == 1) (if (Fmt.ofCode w.fmt).isSigned then
        signedOf (2 * (Fmt.ofCode w.fmt).width) x.val else x.val)) (·.poison) o) ∧
  LandsVec .vupk .vupk (fun w s => ⟨6, (Fmt.ofCode w.fmt).width / 2, if w.aux.getLsbD 0 then s.active (Fmt.ofCode w.fmt).width else 0,
      s.active (Fmt.ofCode w.fmt).width, 0, 0, false, [], none, none, (Fmt.ofCode w.fmt).width,
      s.active (Fmt.ofCode w.fmt).width⟩) (fun _ => none)
    (fun w s a _ _ o => Plain s (a.map fun e => ⟨if (Fmt.ofCode w.fmt).isSigned then
      (Fmt.ofCode w.fmt).pattern (signedOf ((Fmt.ofCode w.fmt).width / 2) e.val) else e.val, e.poison⟩) o)

/-! ## Copy and matrix words (R159, R160, R184-R188, R228-R251) -/

/-- R159, R160, R185, R187, R188: a copy word enters its strand's copy queue with its streams as they stand; cp.mm carries with it
the matrix word that X issues in the same bundle, whose ticket follows its own. -/
def Obligations.CopyWordResults : Prop :=
  CopyQueues .cp .cp true true false ∧ CopyQueues .cpG .cpG true true true ∧ CopyQueues .cpSc .cpSc true true true ∧
  CopyQueues .cpBc .cpBc true true false ∧ CopyQueues .cpRed .cpRed true true false ∧ CopyQueues .cpW .cpW false true false ∧
  CopyQueues .cpFe .cpFe true false false ∧ CopyQueues .cpZero .cpZero true false false ∧
  (∀ (w : CP) (s : State) (i : WideWord) (m : MX), s.Ready (.wide (.cpMm w)) [w.bar] [] → s.CanPop w.pre.tok →
    s.cur.strand = .L ∨ s.cur.strand = .S → s.NamesOk (s.issued.cpCmd (.cpMm w) w).snaps (s.issued.cpCmd (.cpMm w) w).names →
    (s.here.copyQueue s.cur.strand).length < 32 → s.cur.xword = some i → mxFields i = some m →
    ∃ t q, exec (.cpMm w) s = .next t ∧ IsCopy s (.cpMm w) w true true false q ∧
      t.here.copyQueue s.cur.strand = s.here.copyQueue s.cur.strand ++ [q] ∧ t.here.mx = s.here.mx ∧
      (if s.cur.carried = true ∧ (s.here.strand .X).wideGuard m.pre = true then
        ∃ f, q.follow = some f ∧ f.word = i ∧ f.w = m ∧ f.tag.serial = s.here.serial + 2 ∧
          (f.names ≠ [] → f.tag.ticket = some (if q.names.isEmpty then s.here.ticket else s.here.ticket + 1)) ∧
          t.here.streams = (s.here.advanceStep i m).streams
       else q.follow = none))

/-- R71, R159, R160, R188, R227, R240, R251, R263: the position of cp.w moves on at enqueue by the bytes of its elements, modulo the
stream's length; a matrix-width word of X enters the matrix queue unless a copy of its bundle carries it, and mstat reserves its
register; vsr.seed sets the vector generator, a seed that would be 0 as 1, and the drain generator from the same value XOR
5A5A5A5A, at once when no matrix command of the context, its own or firmware's for it, is queued. -/
def Obligations.MatrixWordResults : Prop :=
  (∀ (w : CP) (s : State), s.Ready (.wide (.cpW w)) [w.bar] [] → s.CanPop w.pre.tok → s.cur.strand = .L ∨ s.cur.strand = .S →
     s.NamesOk (s.issued.cpCmd (.cpW w) w).snaps (s.issued.cpCmd (.cpW w) w).names →
     (s.here.copyQueue s.cur.strand).length < 32 →
     ∃ t, exec (.cpW w) s = .next t ∧
       (let r := (s.taken (w.src.setWidth 5)).reg
        let ws := (s.position s.cur.core).streams[w.dst.toNat]
        ((t.position s.cur.core).streams[w.dst.toNat]).wpos =
          BitVec.ofNat 28 ((ws.wpos.toNat + r.total * (Fmt.ofCode r.fmt).bytes) % ws.bytes))) ∧
  MatrixQueues .mm .mm (fun _ => []) ∧ MatrixQueues .mmSp .mmSp (fun _ => []) ∧ MatrixQueues .mmTn .mmTn (fun _ => []) ∧
  MatrixQueues .mdrain .mdrain (fun _ => []) ∧ MatrixQueues .mzero .mzero (fun _ => []) ∧
  MatrixQueues .mcorrLd .mcorrLd (fun _ => []) ∧ MatrixQueues .mcorrSt .mcorrSt (fun _ => []) ∧
  MatrixQueues .mstat .mstat (fun w => [w.statD]) ∧
  (∀ (w : VA) (s : State) (v : BitVec 32), s.Ready (.wide (.vsrSeed w)) (gregsOf w.op1 true) [] → s.CanPop w.pre.tok →
     (w.op1.kind = 3 ∧ v = (s.rd (w.op1.index.setWidth 5)).setWidth 32) ∨
       (w.op1.kind = 2 ∧ w.op1.index = 1 ∧ s.here.headBad 1 = false ∧ ∃ x q, s.here.qlx = x :: q ∧ v = x.setWidth 32) →
     ∃ t u, exec (.vsrSeed w) s = .next t ∧ u = s.seedIn s.cur.core s.cur.ctx v ∧ (s.capMode s.here.part ≠ 2 → u = v) ∧
       t.here.srVec = (if u = 0 then 1 else u) ∧
       (s.here.mx = [] ∧ s.myCore.noneFor s.cur.ctx = true → t.here.mx = [] ∧ t.here.srDrain = if u = 0x5A5A5A5A then 1 else u ^^^ 0x5A5A5A5A) ∧
       (s.here.mx ≠ [] ∨ s.myCore.noneFor s.cur.ctx = false → t.here.srDrain = s.here.srDrain ∧ ∃ q, t.here.mx = s.here.mx ++ [q] ∧
         q.seed = some (if u = 0x5A5A5A5A then 1 else u ^^^ 0x5A5A5A5A)))

/-! ## Barriers and the weight bank (R266-R277) -/

/-- R271, R272, R275, R276, R277, R398: bar.init makes an armed object; bar.arr lowers PEND and answers the generation before it, and a phase
that ends gets the next generation; bar.wait answers at once when its generation has passed, else it parks; bar.xfer adds to INP
or OUTP. What a word may not do raises BAROVER and leaves the counts alone. On a SPACE 1 object bar.init, bar.arr and bar.xfer wait for the
strand's memory-extended words that are still to be sent. (That bar.xfer adds Gb's low 16 bits unsigned, log 55, and that wait, log 80,
are the model's readings.) -/
def Obligations.BarrierWordResults : Prop :=
  (∀ (w : SY) (s r : State) (p : Place) (b : Barrier) (n : BitVec 16), s.Ready (.wide (.barInit w)) [w.a, w.b] [] → s.CanPop w.pre.tok →
    s.BarrierSent (s.rd w.a) r p b → n = (s.rd w.b).setWidth 16 → b.wait = 0 → n ≠ 0 →
    ∃ t, exec (.barInit w) s = .next t ∧ t.readPlace p 16 = (⟨0, n, n, 0, 0, true, false, false, 0⟩ : Barrier).toNat ∧
      t.tainted p = false) ∧
  (∀ (w : SY) (s r : State) (p : Place) (b : Barrier), s.Ready (.wide (.barArr w)) [w.a] [w.d] → s.CanPop w.pre.tok →
    s.BarrierSent (s.rd w.a) r p b → b.armed = true → w.imm.toNat ≤ b.pend.toNat → r.strandBusy = false →
    ∃ t, exec (.barArr w) s = .next t ∧ t.readPlace p 16 = (afterPhase { b with pend := b.pend - w.imm }).toNat ∧
      t.Answers w.d (b.gen.setWidth 64)) ∧
  (∀ (w : SY) (s r : State) (p : Place) (b : Barrier), s.Ready (.wide (.barArr w)) [w.a] [w.d] → s.CanPop w.pre.tok →
    s.BarrierSent (s.rd w.a) r p b → b.armed = true → b.pend.toNat < w.imm.toNat →
    ∃ t, exec (.barArr w) s = .next t ∧ t.readPlace p 16 = ({ b with ovr := true } : Barrier).toNat ∧
      ∃ e ∈ t.me.land, e.what = .fault ⟨.barover, s.cur.strand, s.rd w.a⟩ true (.g 0)) ∧
  (∀ (w : SY) (s r : State) (p : Place) (b : Barrier), s.Ready (.wide (.barWait w)) [w.a, w.b] [w.d] → s.CanPop w.pre.tok →
    s.BarrierAt (s.rd w.a) r p b → s.me.woken = none → s.me.resend = none → s.issued.parkedHere = false → b.gen ≠ (s.rd w.b).setWidth 4 →
    ∃ t, exec (.barWait w) s = .next t ∧ t.Answers w.d b.flags) ∧
  (∀ (w : SY) (s r : State) (c : CoreId) (x : Ctx) (name : BitVec 16) (off : Nat) (b : Barrier),
    s.Ready (.wide (.barWait w)) [w.a, w.b] [w.d] →
    s.BarrierAt (s.rd w.a) r (.seg c x name off) b → s.me.woken = none → s.me.resend = none → s.issued.parkedHere = false →
    b.gen = (s.rd w.b).setWidth 4 →
    ∃ t, exec (.barWait w) s = .next t ∧ t.me.life = .waiting .barrier ∧
      t.readPlace (.seg c x name off) 16 =
        ({ b with wait := b.wait ||| 1#16 <<< (4 * (s.cur.core.val % 4) + s.cur.strand.num) } : Barrier).toNat ∧
      ∃ v ∈ t.myCore.waitList, v.strand = s.cur.strand ∧ v.ctx = s.cur.ctx ∧ v.place = .seg c x name off ∧
        v.cond = .phase b.gen) ∧
  (∀ (w : SY) (s : State) (v : Word), s.Ready (.wide (.barWait w)) [w.a, w.b] [w.d] → s.CanPop w.pre.tok → s.me.woken = some v →
    ∃ t, exec (.barWait w) s = .next t ∧ t.Answers w.d v ∧ t.me.woken = none) ∧
  (∀ (w : SY) (s r : State) (p : Place) (b : Barrier) (v : Int), s.Ready (.wide (.barXferIn w)) [w.a, w.b] [] → s.CanPop w.pre.tok →
    s.BarrierSent (s.rd w.a) r p b → v = b.inp.toInt + ((s.rd w.b).toNat % 65536 : Nat) →
    ∃ t, exec (.barXferIn w) s = .next t ∧ t.readPlace p 16 = (if 32767 < v then ({ b with ovr := true } : Barrier)
      else afterPhase { b with inp := BitVec.ofInt 16 v }).toNat) ∧
  (∀ (w : SY) (s r : State) (p : Place) (b : Barrier) (v : Int), s.Ready (.wide (.barXferOut w)) [w.a, w.b] [] → s.CanPop w.pre.tok →
    s.BarrierSent (s.rd w.a) r p b → v = b.outp.toInt + ((s.rd w.b).toNat % 65536 : Nat) →
    ∃ t, exec (.barXferOut w) s = .next t ∧ t.readPlace p 16 = (if 32767 < v then ({ b with ovr := true } : Barrier)
      else afterPhase { b with outp := BitVec.ofInt 16 v }).toNat) ∧
  (∀ (w : SY) (s r : State) (p : Place) (b : Barrier), s.CanPop w.pre.tok → s.BarrierAt (s.rd w.a) r p b → barSpace (s.rd w.a) = true →
    s.unsent = true →
    (s.Ready (.wide (.barInit w)) [w.a, w.b] [] → exec (.barInit w) s = .next (s.issued.stall .interlock)) ∧
    (s.Ready (.wide (.barArr w)) [w.a] [w.d] → exec (.barArr w) s = .next (s.issued.stall .interlock)) ∧
    (s.Ready (.wide (.barXferIn w)) [w.a, w.b] [] → exec (.barXferIn w) s = .next (s.issued.stall .interlock)) ∧
    (s.Ready (.wide (.barXferOut w)) [w.a, w.b] [] → exec (.barXferOut w) s = .next (s.issued.stall .interlock)))

/-- R266, R267, R272, R273, R274: wb.swap of a position whose quarters both belong to the partition records the swap, with what
must complete before it; otherwise it traps PROT; wb.stat answers the position's status; vb.rd and vb.wr read and write the
cluster's registers and clk.ratio asks for another ratio, each answering its status. -/
def Obligations.ClusterWordResults : Prop :=
  (∀ (w : SY) (s : State), s.Ready (.wide (.wbSwap w)) [] [] → s.CanPop w.pre.tok →
    ((s.position s.cur.core).ownsBoth s.here.part = true → (s.position s.cur.core).pend = none →
      ∃ t, exec (.wbSwap w) s = .next t ∧ t.here.swaps = s.here.swaps + 1 ∧
        (t.position s.cur.core).pend = some ⟨s.cur.ctx, w.cc, w.inc,
          ⟨(s.myCore.ctx .t0).serial, (s.myCore.ctx .t1).serial, (s.myCore.ctx .fw).serial⟩,
          ⟨(s.myCore.ctx .t0).task, (s.myCore.ctx .t1).task, (s.myCore.ctx .fw).task⟩,
          (s.away.filter (·.core == s.cur.core)).map fun i => (i.k.task, i.k.serial), s.myCore.now⟩ ∧
        (t.position s.cur.core).active = (s.position s.cur.core).active) ∧
    (((s.position s.cur.core).ownsBoth s.here.part = false ∨ (s.position s.cur.core).pend ≠ none) →
      exec (.wbSwap w) s = .next (s.issued.trap .prot (BitVec.ofNat 64 (s.cur.core.val % 4))))) ∧
  (∀ (w : SY) (s : State), s.Ready (.wide (.wbStat w)) [] [w.d] → s.CanPop w.pre.tok → w.d ≠ 0 →
    ∃ t e, exec (.wbStat w) s = .next t ∧ e ∈ t.me.land ∧ e.left = 1 ∧ ∃ v : Word, e.what = .reg w.d v ∧
      v.getLsbD 0 = ((s.position s.cur.core).active == 1) ∧ v.getLsbD 1 = (s.position s.cur.core).pend.isSome ∧
      v.getLsbD 2 = (s.position s.cur.core).ownsBoth s.here.part ∧ v.getLsbD 3 = (s.cluster (clusterOf s.cur.core)).hot ∧
      v.extractLsb' 8 16 = (s.position s.cur.core).swaps) ∧
  AnswersAtOnce .vbRd .vbRd (fun w => [w.a]) (fun w s => (s.cluster (clusterOf s.cur.core)).read (clusterReg (s.clusterIndex w))) ∧
  (∀ (w : SY) (s : State), s.Ready (.wide (.vbWr w)) [w.a, w.b] [w.d] → s.CanPop w.pre.tok →
    ∃ t, exec (.vbWr w) s = .next t ∧ (match (s.cluster (clusterOf s.cur.core)).write (clusterReg (s.clusterIndex w)) (s.rd w.b) with
      | some k => t.cluster (clusterOf s.cur.core) = k ∧ t.Answers w.d 0
      | none => t.clusters = s.clusters ∧ t.Answers w.d 1)) ∧
  (∀ (w : SY) (s : State) (k : Cluster) (r : BitVec 2), s.Ready (.wide (.clkRatio w)) [w.a] [w.d] → s.CanPop w.pre.tok →
    k = s.cluster (clusterOf s.cur.core) → r = (s.rd w.a).setWidth 2 →
    ∃ t, exec (.clkRatio w) s = .next t ∧
      (if r = 3 ∨ k.chg ≠ none then t.Answers w.d 2 ∧ t.clusters = s.clusters
       else if slotLimit r.toNat < bankSlots k.table then t.Answers w.d 1 ∧ t.clusters = s.clusters
       else t.Answers w.d 0 ∧ t.cluster (clusterOf s.cur.core) = { k with chg := some r }))

/-! ## Fabric and package words (R395-R397, R404-R414) -/

/-- R404, R407, R411-R414: fabric words enter their strand's fabric queue; xroute, which waits for the context's commands to the peer,
picks the path of a peer. -/
def Obligations.FabricWordResults : Prop :=
  FabricQueues .xld .xld (fun w => [w.a, w.b]) (fun w => [w.d]) false ∧
  FabricQueues .xst .xst (fun w => [w.a, w.b, w.d]) (fun _ => []) false ∧
  FabricQueues .xat .xat (fun w => if w.imm.setWidth 4 == 9#4 then [w.a, w.b, w.c, w.d] else [w.a, w.b, w.c]) (fun w => [w.d]) false ∧
  FabricQueues .xcpPush .xcpPush (fun w => [w.a, w.b]) (fun _ => []) true ∧
  FabricQueues .xcpPull .xcpPull (fun w => [w.a, w.b]) (fun _ => []) true ∧
  FabricQueues .xsigSet .xsigSet (fun w => [w.a, w.b, w.c]) (fun _ => []) false ∧
  FabricQueues .xsigAdd .xsigAdd (fun w => [w.a, w.b, w.c]) (fun _ => []) false ∧
  FabricQueues .xfence .xfence (fun _ => []) (fun _ => []) false ∧
  (∀ (w : SY) (s : State) (n : BitVec 6) (sel : BitVec 1) (p : Peer), s.Ready (.wide (.xroute w)) [w.a] [w.d] → s.CanPop w.pre.tok →
    n = (s.rd w.a).setWidth 6 → sel = (s.rd w.a).extractLsb' 6 1 → p = s.peer s.here.part n →
    (s.here.toPeer n = true → exec (.xroute w) s = .next (s.issued.stall .interlock)) ∧
    (128 ≤ (s.rd w.a).toNat ∨ p.v = false → s.here.toPeer n = false →
      ∃ t, exec (.xroute w) s = .next t ∧ t.Answers w.d 2 ∧ t.peer s.here.part n = p) ∧
    ((s.rd w.a).toNat < 128 → p.v = true → s.here.toPeer n = false →
      ∃ t, exec (.xroute w) s = .next t ∧
        (if (sel = 1 ∧ p.p1v = false) ∨ (p.kind = 0 ∧ s.subUp (p.path sel).toNat = false) then t.Answers w.d 1 ∧ t.peer s.here.part n = p
         else t.Answers w.d 0 ∧ t.peer s.here.part n = { p with sel := sel })))

/-- R287, R381, R385, R395, R396: en.rd answers an energy counter of the partition; en.mark captures the counters when what the
context enqueued has completed; part.id answers the identity word; tlb.inv drops the translations of its range and waits only for their users; seg.inv drops a
resident segment that nobody holds; tar.rd answers the thermal status of a core of the partition. -/
def Obligations.PackageWordResults : Prop :=
  AnswersAtOnce .enRd .enRd (fun _ => []) (fun w s =>
    BitVec.ofInt 64 ((if w.imm.toNat = 0 then (s.part s.here.part).counters.total
      else (s.part s.here.part).counters.toList.getD w.imm.toNat 0) / 65536)) ∧
  (∀ (w : SY) (s : State), s.Ready (.wide (.enMark w)) [w.a] [] → s.CanPop w.pre.tok →
    (s.here.commandsBusy (s.me.mark.getD s.here.serial) = false → (s.part s.here.part).marks.length < 256 →
      ∃ t m, exec (.enMark w) s = .next t ∧ (t.part s.here.part).marks = (s.part s.here.part).marks ++ [m] ∧
        m.number = (s.rd w.a).setWidth 32 ∧ m.counters = (s.part s.here.part).counters ∧ m.time = (s.die (dieOf s.cur.core)).time ∧
        m.vf = s.here.vf) ∧
    (s.here.commandsBusy (s.me.mark.getD s.here.serial) = true ∨ 256 ≤ (s.part s.here.part).marks.length →
      ∃ t, exec (.enMark w) s = .next t ∧ t.me.life = .waiting .interlock ∧ t.parts = s.parts)) ∧
  (∀ (w : SY) (s : State), s.Ready (.wide (.partId w)) [] [w.d] → s.CanPop w.pre.tok → w.d ≠ 0 →
    ∃ t e, exec (.partId w) s = .next t ∧ e ∈ t.me.land ∧ e.left = 1 ∧ ∃ v : Word, e.what = .reg w.d v ∧
      v.extractLsb' 0 6 = s.here.part ∧ v.extractLsb' 8 8 = s.here.vf ∧ (v.extractLsb' 16 9).toNat = s.cur.core.val ∧
      v.extractLsb' 32 16 = s.pkg.epoch.setWidth 16) ∧
  Invalidates .tlbInv .tlbInv ∧ Invalidates .tlbInvAll .tlbInvAll ∧
  (∀ (w : SY) (s : State), s.Ready (.wide (.segInv w)) [w.a] [w.d] → s.CanPop w.pre.tok → s.cur.ctx ≠ .fw →
    (64 ≤ (s.rd w.a).toNat → ∃ t, exec (.segInv w) s = .next t ∧ t.Answers w.d 2) ∧
    (∀ name g, (s.rd w.a).toNat < 64 → resolveHandle s.here s.cur.ctx ((s.rd w.a).setWidth 6) = some name →
      s.myCore.seg? s.cur.ctx name = some g →
      ∃ t, exec (.segInv w) s = .next t ∧
        (if g.pins = 0 ∧ g.moving = none ∧ s.here.held? name = false then t.Answers w.d 0 ∧ t.myCore.seg? s.cur.ctx name = none
         else t.Answers w.d 1 ∧ t.myCore.seg? s.cur.ctx name = some g))) ∧
  (∀ (w : SY) (s : State), s.Ready (.wide (.tarRd w)) [w.a] [w.d] → s.CanPop w.pre.tok →
    (192 ≤ (s.rd w.a).toNat → ∃ t, exec (.tarRd w) s = .next t ∧ t.Answers w.d (BitVec.allOnes 64)) ∧
    (∀ c : CoreId, c.val = (s.rd w.a).toNat → s.pkg.coreOwner[c.val] = some s.here.part →
      ∃ t v, exec (.tarRd w) s = .next t ∧ t.Answers w.d v ∧ (w.imm = 0 → v = (s.core c).tar.word) ∧
        (w.imm = 1 → v.extractLsb' 0 16 = (s.core c).temp ∧ v.extractLsb' 16 8 = BitVec.ofNat 8 (s.droop c))))

/-! ## The events of a core (R97-R114, R134-R136, R157, R158, R313-R317, R355) -/

/-- R97, R98, R102, R106, R34, R59: one cycle of a unit that may issue: a bubble passes; a bundle that is framed and whose header and
words pass their checks issues its words, after the cycles of its DLY; one whose word fails a check traps, and a header that is none
traps before words that cannot be fetched. Each is a cycle that the
core's loaded contexts count; a unit that may not issue changes nothing. Where no sequencer word, join or fork sends the unit
elsewhere and no loop level is active, it goes to the bundle after it, or to the target of the branch in its lowest-numbered slot
that is taken, with two bubble cycles. (That DLY is spent after the checks of the header and before those of the words, and what a header that
cannot be framed records, are the model's reading, log 27.) -/
def Obligations.BundleResults : Prop :=
  (∀ (c : CoreId) (x : Ctx) (p lead : Strand) (r : List Strand) (s : State), (s.ctx c x).unit p = lead :: r →
     ((s.core c).mayIssue x (lead :: r) = false → exec (.bundleIssue c x p) s = .next s) ∧
     ((s.core c).mayIssue x (lead :: r) = true → (s.strand c x lead).bubble ≠ 0 → exec (.bundleIssue c x p) s =
       .next ((s.modUnit c x (lead :: r) fun t => { t.cycle with bubble := t.bubble - 1 }).tick c)) ∧
     ((s.core c).mayIssue x (lead :: r) = true → (s.strand c x lead).bubble = 0 →
       (∀ q ∈ lead :: r, (s.ctx c x).meStall q = none) → ∀ (s1 : State) (hdr len : Nat) (fs : List Framed) (h : Header),
         (s.begin c x (lead :: r) lead).frame (s.strand c x lead).pc = .ok s1 hdr fs len → decodeHeader hdr = some h →
         (h.sync = 1 ↔ (s1.strand c x lead).joined = true) →
         (h.dly ≠ 0 → (s1.strand c x lead).delayed = false → exec (.bundleIssue c x p) s =
           .next ((s1.modUnit c x (lead :: r) fun t => { t.cycle with delayed := true, bubble := h.dly.toNat - 1 }).afterIssue c x)) ∧
         (h.dly = 0 ∨ (s1.strand c x lead).delayed = true →
           (∀ ws, checkWords lead (lead :: r) x (h.sync == 1) len (xWord fs) fs = .ok ws → exec (.bundleIssue c x p) s =
             .next ((({ s1 with cur := { s1.cur with len := len, joint := h.sync == 1, xword := xWord fs } }).issueWords c x (lead :: r) h
               len ws).afterIssue c x)) ∧
           (∀ e, checkWords lead (lead :: r) x (h.sync == 1) len (xWord fs) fs = .error e →
             exec (.bundleIssue c x p) s = .next ((s1.bundleTrap e).afterIssue c x)))) ∧
     (∀ (hdr : Nat) (fs : List Framed) (why : Fetch) (s0 : State), (s.core c).mayIssue x (lead :: r) = true →
       (s.strand c x lead).bubble = 0 → (∀ q ∈ lead :: r, (s.ctx c x).meStall q = none) → s0 = s.begin c x (lead :: r) lead →
       s0.frame (s.strand c x lead).pc = .short hdr fs why → decodeHeader hdr = none →
       exec (.bundleIssue c x p) s =
         .next ((s0.bundleTrap ⟨lead, .illegal, lead, 0, (s.strand c x lead).pc.setWidth 64⟩).afterIssue c x))) ∧
  (∀ (c : CoreId) (x : Ctx) (u : List Strand) (hdr next : Addr) (joint : Bool) (s : State), u.Nodup →
     (∀ q ∈ u, (s.strand c x q).forced = none ∧ (joint = true → (s.strand c x q).joined = true)) → (s.ctx c x).activeLevels = [] →
     ((∀ q ∈ u, (s.strand c x q).redirect = none) → ∀ q ∈ u,
       ((s.goOn c x u hdr next joint).strand c x q).pc = next ∧
       ((s.goOn c x u hdr next joint).strand c x q).bubble = (s.strand c x q).bubble) ∧
     (∀ (a : Addr) (b : Strand) (l r : List Strand), u = l ++ b :: r → (s.strand c x b).redirect = some a →
       (∀ q ∈ l, (s.strand c x q).redirect = none) → ∀ q ∈ u,
       ((s.goOn c x u hdr next joint).strand c x q).pc = a ∧
       ((s.goOn c x u hdr next joint).strand c x q).bubble = max (s.strand c x q).bubble 2))

/-- R103, R104, R105: a result at its cycle is written to its register, bit, vector register or queue and leaves the landing buffer;
an interlocked result is written and its register is free again; a write to g0 is discarded. -/
def Obligations.LandingResults : Prop :=
  (∀ (c : CoreId) (x : Ctx) (p : Strand) (s : State) (e : Landing), (s.core c).freeze = 0 →
    (s.strand c x p).landDue = some e → e.push = 0 →
    ∃ t, exec (.resultLanding c x p) s = .next t ∧ ((∀ l, e.what ≠ .elems l) → t.mem = s.mem) ∧
      (∀ d v, e.what = .reg d v → (t.strand c x p).land = eraseLanding (s.strand c x p).land ∧
        (t.strand c x p).sat = ((s.strand c x p).sat || e.sat) ∧
        ∀ r, (t.strand c x p).read r = if r = d ∧ d ≠ 0 then v else (s.strand c x p).read r) ∧
      (∀ d b v, e.what = .bit d b v → (t.strand c x p).land = eraseLanding (s.strand c x p).land ∧
        (∀ r, r ≠ d ∨ d = 0 → (t.strand c x p).read r = (s.strand c x p).read r) ∧
        (d ≠ 0 → ∀ i, i < 64 → ((t.strand c x p).read d).getLsbD i = if i = b.toNat then v else ((s.strand c x p).read d).getLsbD i)) ∧
      (∀ d n v po, e.what = .vec d n v po → (t.strand c x p).land = eraseLanding (s.strand c x p).land ∧
        ∀ i : Fin 16, (t.ctx c x).v[i.val] = if i.val = d.toNat then ((s.ctx c x).v[i.val]).put n v po else (s.ctx c x).v[i.val]) ∧
      (∀ v, e.what = .push v → (t.strand c x p).land = eraseLanding (s.strand c x p).land ∧
        (t.ctx c x).qxs = (s.ctx c x).qxs ++ [v])) ∧
  (∀ (c : CoreId) (x : Ctx) (p : Strand) (s : State) (q : Pend) (v : Word), (s.core c).freeze = 0 → (s.core c).save = none →
    (s.strand c x p).pend.find? (·.val.isSome) = some q → q.val = some v →
    ∃ t, exec (.interlockedResult c x p) s = .next t ∧ (t.strand c x p).pend = (s.strand c x p).pend.erase q ∧
      ∀ r, (t.strand c x p).read r = if r = q.d ∧ q.d ≠ 0 then v else (s.strand c x p).read r)

/-- R111, R112, R114, R351: an issue fault stops the strand's group, records the bundle's address, the cause and %eval, and changes no register
and no memory; in the firmware context it halts that context; a completion fault does so at a boundary, with LATE set; the
firmware strand of the same letter copies what the trapped one recorded and starts at the trap entry. Where the model holds no image of
the firmware, its handlers act whole (log 75): that of FEBUDGET gives the strand the region's budget and returns, always by policy 1 and
once for a task by policy 2, else the task fails; that of EXITQ sends the vector of the task's queue with the discard count, and the strand
ends. -/
def Obligations.TrapResults : Prop :=
  (∀ (s : State) (c : Cause) (ev : Word), (s.trap c ev).cur.res = .trapped ∧ (s.trap c ev).mem = s.mem ∧ (s.trap c ev).pkg = s.pkg ∧
    (∀ q ∈ s.here.stopGroup s.cur.strand, ((s.trap c ev).here.strand q).life = .trapped) ∧
    (∀ q, ((s.trap c ev).here.strand q).g = (s.here.strand q).g ∧ ((s.trap c ev).here.strand q).land.length ≤ (s.here.strand q).land.length) ∧
    (s.trap c ev).me.code = c.code ∧ (s.trap c ev).me.slot.toNat = s.cur.strand.num ∧ (s.trap c ev).me.late = false ∧
    (s.trap c ev).me.len = BitVec.ofNat 5 s.cur.len ∧ (s.trap c ev).me.epc = s.cur.hdr.extractLsb' 2 55 ∧ (s.trap c ev).me.eval = ev ∧
    (s.cur.ctx ≠ .fw → (s.trap c ev).myCore.trapQueue = s.myCore.trapQueue ++ [(s.cur.ctx, s.cur.strand)]) ∧
    (s.cur.ctx = .fw → (s.trap c ev).myCore.fwHalted = true ∧ (s.trap c ev).myCore.trapQueue = s.myCore.trapQueue)) ∧
  (∀ (c : CoreId) (x : Ctx) (p : Strand) (s : State) (f : FaultRec) (rest : List FaultRec), (s.core c).freeze = 0 → x ≠ .fw →
    (s.core c).fwHalted = false → (s.strand c x p).atBoundary = true → (s.ctx c x).inJoin p = false → (s.strand c x p).due = f :: rest →
    ∃ t, exec (.completionFault c x p) s = .next t ∧ (∀ q ∈ (s.ctx c x).stopGroup p, (t.strand c x q).life = .trapped) ∧
      (t.strand c x p).code = f.cause.code ∧ (t.strand c x p).slot.toNat = f.slot.num ∧ (t.strand c x p).late = true ∧
      (t.strand c x p).epc = (s.strand c x p).pc.extractLsb' 2 55 ∧ (t.strand c x p).eval = f.eval ∧
      (t.strand c x p).g = (s.strand c x p).g ∧ (t.core c).trapQueue = (s.core c).trapQueue ++ [(x, p)]) ∧
  (∀ (c : CoreId) (p q : Strand) (x : Ctx) (s : State), (s.core c).freeze = 0 → (s.core c).serving.get p = none →
    (s.core c).fwHalted = false → (s.core c).trapQueue.find? (·.2 == p) = some (x, q) →
    s.noImage c = false ∨ ((s.strand c x q).code ≠ Cause.febudget.code ∧ (s.strand c x q).code ≠ Cause.exitq.code) →
    ∃ t, exec (.firmwareTrapEntry c p) s = .next t ∧ (t.core c).serving.get p = some (x, q) ∧
      (t.core c).trapQueue = (s.core c).trapQueue.erase (x, q) ∧ (t.strand c .fw p).life = .running ∧
      (t.strand c .fw p).pc = s.pkg.trapEntry ∧ (t.strand c .fw p).code = (s.strand c x q).code ∧
      (t.strand c .fw p).slot = (s.strand c x q).slot ∧ (t.strand c .fw p).late = (s.strand c x q).late ∧
      (t.strand c .fw p).len = (s.strand c x q).len ∧ (t.strand c .fw p).epc = (s.strand c x q).epc ∧
      (t.strand c .fw p).eval = (s.strand c x q).eval ∧ (t.strand c .fw p).g = (s.strand c .fw p).g) ∧
  (∀ (c : CoreId) (p q : Strand) (x : Ctx) (s : State), (s.core c).freeze = 0 → (s.core c).serving.get p = none →
    (s.core c).fwHalted = false → (s.core c).trapQueue.find? (·.2 == p) = some (x, q) → x ≠ .fw → s.noImage c = true →
    ((s.strand c x q).code = Cause.febudget.code → (s.strand c x q).ending = false → (∀ r, (s.strand c x r).lateq = []) →
      (s.ctx c x).terms.febPol = 1 ∨ ((s.ctx c x).terms.febPol = 2 ∧ (s.ctx c x).refilled = false) →
      ∃ t, exec (.firmwareTrapEntry c p) s = .next t ∧ (t.strand c x q).feb = (s.ctx c x).terms.feb ∧ (t.ctx c x).refilled = true ∧
        (t.strand c x q).life ≠ .trapped ∧ (t.core c).serving.get p = none) ∧
    ((s.strand c x q).code = Cause.febudget.code → (s.ctx c x).busy = true → (s.part (s.ctx c x).part).split.getLsbD 3 = false →
      (s.ctx c x).terms.febPol ≠ 1 ∧ ((s.ctx c x).terms.febPol ≠ 2 ∨ (s.ctx c x).refilled = true) →
      ∃ t, exec (.firmwareTrapEntry c p) s = .next t ∧ (t.ctx c x).busy = false) ∧
    ((s.strand c x q).code = Cause.exitq.code → (s.strand c x q).ending = true →
      ∃ t, exec (.firmwareTrapEntry c p) s = .next t ∧ (t.strand c x q).life = .ended ∧
        LogEntry.discarded c (s.ctx c x).task.word (s.strand c x q).eval ∈ t.pkg.log ∧
        ∀ u b, s.queue? ⟨(s.ctx c x).task.die.toNat, (s.ctx c x).task.die.isLt⟩ (s.ctx c x).task.queue = some u → u.copy = some b →
          (.vf b.vf, b.vec) ∈ t.pkg.msix))

/-- R134, R135, R136, R157: CONTEXT_SWITCH, FIRMWARE_CREDIT, CORRECTABLE_ERROR and FREEZE_END complete. A core whose active context waits goes
to its sibling that can go on, which takes 8 cycles; firmware gains a credit, at most four; a correctable error stops the core for
24 cycles and is counted once, and one detected in the freeze makes it longer by 1 to 24 cycles and is not counted (which number of
cycles is a free value, log 74); at the end of the freeze every loaded context has counted all its cycles. -/
def Obligations.CoreSharingResults : Prop :=
  (∀ (c : CoreId) (s : State) (a : Ctx), (s.core c).freeze = 0 → a = (s.core c).active → (s.ctx c a).runnable = false →
    ({ s.ctx c a.sibling with yielding := false } : Context).runnable = true →
    ∃ t, exec (.contextSwitch c) s = .next t ∧ (t.core c).active = a.sibling ∧ (t.ctx c a.sibling).yielding = false ∧
      ∀ x, (s.ctx c x).busy = true → (t.ctx c x).cycle = (s.ctx c x).cycle + 8 ∧
        ∀ q, (t.strand c x q) = (s.strand c x q)) ∧
  (∀ (c : CoreId) (s : State), ∃ t, exec (.firmwareCredit c) s = .next t ∧
    (t.core c).fwCredit.toNat = min 4 ((s.core c).fwCredit.toNat + 1) ∧ (t.core c).ctxs = (s.core c).ctxs) ∧
  (∀ (c : CoreId) (s : State), ∃ t, exec (.correctableError c) s = .next t ∧ (t.core c).ctxs = (s.core c).ctxs ∧
    ((s.core c).freeze = 0 → (t.core c).freeze = 24 ∧
      (t.core c).freezeCount.toNat = min (2 ^ 32 - 1) ((s.core c).freezeCount.toNat + 1)) ∧
    ((s.core c).freeze ≠ 0 → (s.core c).freeze < (t.core c).freeze ∧ (t.core c).freeze ≤ (s.core c).freeze + 24 ∧
      (t.core c).freezeCount = (s.core c).freezeCount)) ∧
  (∀ (c : CoreId) (s : State), ∃ t, exec (.freezeEnd c) s = .next t ∧ (t.core c).freeze = 0 ∧
    (t.core c).freezeCount = (s.core c).freezeCount ∧
    (∀ x, x = .fw ∨ (s.ctx c x).busy = true → (t.ctx c x).cycle = (s.ctx c x).cycle + BitVec.ofNat 64 (s.core c).freeze) ∧
    ∀ x q, t.strand c x q = s.strand c x q)

/-- R158: what an uncorrectable error does to a line of a store, a lane group, a sub-array's cells, a cache entry, a translation that a TLB keeps,
an entry of a queue, of the landing buffer and of the late-fault queue. (That a struck landing-buffer entry comes due as ECCUE at its own cycle, without its
SAT effect and tokens, is the model's reading, log 46.) -/
def Obligations.UncorrectableErrorResults : Prop :=
  (∀ (c : CoreId) (n : Nat) (s : State), n < 65536 → ∃ t, exec (.uncorrectableError c (.localLine n)) s = .next t ∧
    ∀ a, (t.core c).lstore.poisoned a = ((s.core c).lstore.poisoned a || a / 64 == n) ∧
      (t.core c).lstore.byte a = (s.core c).lstore.byte a) ∧
  (∀ (c : CoreId) (n : Nat) (s : State), n < 16384 → ∃ t, exec (.uncorrectableError c (.accLine n)) s = .next t ∧
    ∀ a, (t.core c).astore.poisoned a = ((s.core c).astore.poisoned a || a / 64 == n) ∧
      (t.core c).astore.byte a = (s.core c).astore.byte a) ∧
  (∀ (c : CoreId) (x : Ctx) (v : BitVec 4) (g : BitVec 3) (s : State), ∃ t, exec (.uncorrectableError c (.vreg x v g)) s = .next t ∧
    ((t.ctx c x).v[v.toNat]).val = ((s.ctx c x).v[v.toNat]).val ∧
    ∀ i, i < 8 → ((t.ctx c x).v[v.toNat]).poison.getLsbD i = (((s.ctx c x).v[v.toNat]).poison.getLsbD i || i == g.toNat)) ∧
  (∀ (c : CoreId) (x : Ctx) (n : BitVec 2) (s : State), ∃ t, exec (.uncorrectableError c (.cells x n)) s = .next t ∧
    ((t.ctx c x).acc.get (Strand.ofNum n.toNat)).ue = true ∧
    ((t.ctx c x).acc.get (Strand.ofNum n.toNat)).cells = ((s.ctx c x).acc.get (Strand.ofNum n.toNat)).cells) ∧
  (∀ (c : CoreId) (s : State), exec (.uncorrectableError c .cache) s = .next s) ∧
  (∀ (c : CoreId) (i : Nat) (s : State), ∃ t, exec (.uncorrectableError c (.tlb i)) s = .next t ∧
    (t.core c).tlb = (s.core c).tlb.eraseIdx i ∧ t.mem = s.mem) ∧
  (∀ (c : CoreId) (x : Ctx) (p : Strand) (i : Nat) (e : Landing) (s : State), (s.strand c x p).land[i]? = some e →
    ∃ t, exec (.uncorrectableError c (.landing x p i)) s = .next t ∧
      (t.strand c x p).land[i]? = some ⟨e.left, e.sqd, false, 0, .fault ⟨.eccue, p, BitVec.allOnes 64⟩ false e.what.target⟩) ∧
  (∀ (c : CoreId) (x : Ctx) (p : Strand) (i : Nat) (f : FaultRec) (s : State), (s.strand c x p).lateq[i]? = some f →
    ∃ t, exec (.uncorrectableError c (.lateFault x p i)) s = .next t ∧
      (t.strand c x p).lateq[i]? = some ⟨.eccue, f.slot, BitVec.allOnes 64⟩) ∧
  (∀ (c : CoreId) (x : Ctx) (i : Nat) (s : State), i < (s.ctx c x).qlx.length →
    ∃ t, exec (.uncorrectableError c (.queueEntry x 1 i)) s = .next t ∧ (1, i) ∈ (t.ctx c x).qbad ∧ (t.ctx c x).qlx = (s.ctx c x).qlx)

/-! ## Moves of segments (R142-R153, R203, R371) -/

/-- R145, R151, R152, R371: a touched absent segment that the quota and the frames admit gets the lowest free frame and starts its
recall; without quota the victim starts its push-out, or in host-assisted mode the host is asked, whose answer names the victim or
fails those who wait; a push-out starts on a resident segment that nobody pins, holds or
moves, but not of itself where the host chooses; a segment adrift comes into the frames at once (the model's reading, log 37); a relocation starts on free
granules; a waiting pin set that fits is admitted. (Which free frame a segment gets, the lowest of its context's window, is the model's
choice, log 20.) -/
def Obligations.SegmentEventStarts : Prop :=
  (∀ (c : CoreId) (x : Ctx) (name : BitVec 16) (s : State) (u : Toucher) (g : Seg) (b : Nat), (s.core c).freeze = 0 →
    (s.ctx c x).oldestTouch name = some u → (s.ctx c x).seg? name = none → (s.ctx c x).adriftSeg? name = none →
    s.segDesc c x name = .found g → g.granules ≤ (s.ctx c x).room g.isAcc → (s.ctx c x).usedGranules g.isAcc + g.granules ≤ (s.ctx c x).quota g.isAcc →
    firstFit (s.frames c g.isAcc) ((s.core c).frameWindow x g.isAcc) g.granules = some b →
    ∃ t, exec (.segmentTouch c x name) s = .next t ∧
      (((s.ctx c x).touch.map (·.name)).eraseDups = [name] → exec (.roomAvailable c x) s = .next t) ∧
      (t.ctx c x).segs = (s.ctx c x).segs ++
        [{ g with base := BitVec.ofNat 10 b, moving := some .recall, touched := (s.core c).now }]) ∧
  (∀ (c : CoreId) (x : Ctx) (name : BitVec 16) (s : State) (u : Toucher) (g : Seg) (src : Store) (b : Nat), (s.core c).freeze = 0 →
    (s.ctx c x).oldestTouch name = some u → (s.ctx c x).seg? name = none → (s.ctx c x).adriftSeg? name = some (g, src) → g.name = name →
    g.granules ≤ (s.ctx c x).room g.isAcc → (s.ctx c x).usedGranules g.isAcc + g.granules ≤ (s.ctx c x).quota g.isAcc →
    firstFit (s.frames c g.isAcc) ((s.core c).frameWindow x g.isAcc) g.granules = some b →
    ∃ t, exec (.segmentTouch c x name) s = .next t ∧ (t.ctx c x).adriftSeg? name = none ∧ (∀ v ∈ (t.ctx c x).touch, v.name ≠ name) ∧
      (t.ctx c x).segs = (s.ctx c x).segs ++ [{ g with base := BitVec.ofNat 10 b, touched := (s.core c).now }]) ∧
  (∀ (c : CoreId) (x : Ctx) (name : BitVec 16) (s : State) (u : Toucher) (g v : Seg), (s.core c).freeze = 0 →
    (s.ctx c x).oldestTouch name = some u → (s.ctx c x).seg? name = none → (s.ctx c x).adriftSeg? name = none →
    s.segDesc c x name = .found g → g.granules ≤ (s.ctx c x).room g.isAcc → (s.ctx c x).quota g.isAcc < (s.ctx c x).usedGranules g.isAcc + g.granules →
    (∀ h ∈ (s.ctx c x).segs, h.isAcc = g.isAcc → h.moving ≠ some .pushOut) → (s.ctx c x).victim g.isAcc name = some v →
    ∃ t, exec (.segmentTouch c x name) s = .next t ∧
      (if (s.part (s.ctx c x).part).split.getLsbD 0 = true then (t.ctx c x).askHost = true ∧ (t.ctx c x).segs = (s.ctx c x).segs
       else ∃ v', (t.ctx c x).seg? v.name = some v' ∧ v'.moving = some .pushOut)) ∧
  (∀ (c : CoreId) (x : Ctx) (name : BitVec 16) (s : State) (g : Seg), (s.core c).freeze = 0 → x ≠ .fw →
    (s.ctx c x).seg? name = some g → g.pins = 0 → (s.ctx c x).held? name = false → g.moving = none → g.stuck = false →
    ((s.part (s.ctx c x).part).split.getLsbD 0 = true → exec (.pushOut c x name) s = .next s) ∧
    ((s.part (s.ctx c x).part).split.getLsbD 0 = false →
      ∃ t, exec (.pushOut c x name) s = .next t ∧ ∃ g', (t.ctx c x).seg? name = some g' ∧ g'.moving = some .pushOut ∧ g'.base = g.base)) ∧
  (∀ (c : CoreId) (x : Ctx) (name : BitVec 16) (s : State) (g : Seg), (s.core c).freeze = 0 → (s.ctx c x).askHost = true → x ≠ .fw →
    (s.ctx c x).seg? name = some g → g.pins = 0 → (s.ctx c x).held? name = false → g.moving = none → g.stuck = false →
    ∃ t, exec (.hostPushOutReply c x (some name)) s = .next t ∧ (t.ctx c x).askHost = false ∧
      ∃ g', (t.ctx c x).seg? name = some g' ∧ g'.moving = some .pushOut) ∧
  (∀ (c : CoreId) (x : Ctx) (s : State), (s.core c).freeze = 0 → (s.ctx c x).askHost = true →
    ∃ t, exec (.hostPushOutReply c x none) s = .next t ∧ (t.ctx c x).askHost = false ∧
      ∀ u ∈ (t.ctx c x).touch, (t.ctx c x).seg? u.name = none → u.failed = true) ∧
  (∀ (c : CoreId) (x : Ctx) (name : BitVec 16) (base : BitVec 10) (s : State) (g : Seg), (s.core c).freeze = 0 → x ≠ .fw →
    (s.ctx c x).seg? name = some g → g.pins = 0 → g.moving = none →
    frameFree ((s.frames c g.isAcc).filter (·.1 != g.base.toNat)) ((s.core c).frameWindow x g.isAcc) base.toNat g.granules = true →
    ∃ t, exec (.relocation c x name base) s = .next t ∧
      ∃ g', (t.ctx c x).seg? name = some g' ∧ g'.moving = some (.relocate base) ∧ g'.base = g.base) ∧
  (∀ (c : CoreId) (x : Ctx) (s : State) (m : Word) (l : List (BitVec 16 × BitVec 6)) (gs : List (Seg × BitVec 6)),
    (s.core c).freeze = 0 → (s.ctx c x).pinWait = some (m, false) → maskNames (s.ctx c x) x m allHandles = .ok l →
    s.pinSet c x l = .ok gs → (s.ctx c x).pinFits gs = true →
    ∃ t, exec (.pinSetAdmitted c x) s = .next t ∧ (t.ctx c x).pinWait = some (m, true))

/-- R145, R146, R203: a recall brings in every byte of the home with its F bit and its line's poison, and changes no other byte of the store,
clean, and ends every wait for the segment; a push-out at which nobody waits writes a dirty granule home, with its F and poison bits,
and nothing else, and frees the frame; that of a ring writes HEAD and TAIL to its directory entry and nothing else of it; a relocation
carries every byte, F bit and poison bit to the new base; the next element of a device stream that the fetch side does not hold arrives, as its bytes stand now. -/
def Obligations.SegmentEventEnds : Prop :=
  (∀ (c : CoreId) (x : Ctx) (name : BitVec 16) (s : State) (g : Seg) (pa : Nat → Nat), (s.core c).freeze = 0 → s.Canonical →
    (s.ctx c x).seg? name = some g → g.moving = some .recall →
    (∀ i, i < g.granules → s.translate (s.ctx c x).root ((homeOf g i).setWidth 64) needRd = .ok (pa i) s.mem ∧
      s.hbm.badMeta (pa i) granule = false ∧ s.badData (pa i) granule = false ∧ pa i % 64 = 0) →
    ∃ t, exec (.recallComplete c x name) s = .next t ∧ t.mem = s.mem ∧ (∀ u ∈ (t.ctx c x).touch, u.name ≠ name) ∧
      (∃ g', (t.ctx c x).seg? name = some g' ∧ g'.moving = none ∧ g'.dirty = [] ∧ g'.base = g.base) ∧
      (∀ i o, i < g.granules → o < granule →
        ((t.core c).storeOf g).byte (g.phys (granule * i) + o) = s.mem.byte (pa i + o) ∧
        ((t.core c).storeOf g).fbit (g.phys (granule * i) + o) = s.mem.fbit (pa i + o) ∧
        ((t.core c).storeOf g).poisoned (g.phys (granule * i) + o) = s.mem.poisoned (pa i + o)) ∧
      (∀ a, a < g.phys 0 ∨ g.phys 0 + g.bytes ≤ a → ((t.core c).storeOf g).byte a = ((s.core c).storeOf g).byte a)) ∧
  (∀ (c : CoreId) (x : Ctx) (name : BitVec 16) (s : State) (g : Seg), (s.core c).freeze = 0 →
    (∀ d, (s.die d).waiters = []) → (s.ctx c x).seg? name = some g → g.moving = some .pushOut → g.cls ≠ 1 → g.dirty = [] →
    ∃ t, exec (.pushOutComplete c x name) s = .next t ∧ t.mem = s.mem ∧ (t.ctx c x).seg? name = none) ∧
  (∀ (c : CoreId) (x : Ctx) (name : BitVec 16) (s : State) (g : Seg) (i pa : Nat), (s.core c).freeze = 0 → s.Canonical →
    (∀ d, (s.die d).waiters = []) → (s.ctx c x).seg? name = some g → g.moving = some .pushOut → g.cls ≠ 1 → g.dirty = [i] → i < g.granules →
    s.translate (s.ctx c x).root ((homeOf g i).setWidth 64) needWr = .ok pa s.mem → pa % 64 = 0 →
    ∃ t, exec (.pushOutComplete c x name) s = .next t ∧ (t.ctx c x).seg? name = none ∧
      ∀ a, if pa ≤ a ∧ a < pa + granule then
          t.mem.byte a = ((s.core c).storeOf g).byte (g.phys (granule * i) + (a - pa)) ∧
          t.mem.fbit a = ((s.core c).storeOf g).fbit (g.phys (granule * i) + (a - pa)) ∧
          t.mem.poisoned a = ((s.core c).storeOf g).poisoned (g.phys (granule * i) + (a - pa))
        else t.mem.byte a = s.mem.byte a ∧ t.mem.fbit a = s.mem.fbit a ∧ t.mem.poisoned a = s.mem.poisoned a) ∧
  (∀ (c : CoreId) (x : Ctx) (name : BitVec 16) (s : State) (g : Seg) (pa : Nat) (m : Store), (s.core c).freeze = 0 → s.Canonical →
    (∀ d, (s.die d).waiters = []) → (s.ctx c x).seg? name = some g → g.moving = some .pushOut → g.cls = 1 → g.dirty = [] →
    s.translate (s.ctx c x).root (dirAddr (s.ctx c x) g.name) needWr = .ok pa m → m.wf = true →
    ∃ t, exec (.pushOutComplete c x name) s = .next t ∧ (t.ctx c x).seg? name = none ∧
      t.mem.read pa 16 % 2 ^ 82 = m.read pa 16 % 2 ^ 82 ∧ t.mem.read pa 16 / 2 ^ 82 % 2 ^ 23 = g.head.toNat ∧
      t.mem.read pa 16 / 2 ^ 105 % 2 ^ 23 = g.tail.toNat ∧ ∀ a, a < pa ∨ pa + 16 ≤ a → t.mem.byte a = m.byte a) ∧
  (∀ (c : CoreId) (x : Ctx) (name : BitVec 16) (base : BitVec 10) (s : State) (g : Seg), (s.core c).freeze = 0 → s.Canonical →
    (s.ctx c x).seg? name = some g → g.moving = some (.relocate base) →
    ∃ t, exec (.relocationComplete c x name) s = .next t ∧
      (∃ g', (t.ctx c x).seg? name = some g' ∧ g'.moving = none ∧ g'.base = base) ∧
      ∀ o, o < g.bytes → ((t.core c).storeOf g).byte (granule * base.toNat + o) = ((s.core c).storeOf g).byte (g.phys o) ∧
        ((t.core c).storeOf g).fbit (granule * base.toNat + o) = ((s.core c).storeOf g).fbit (g.phys o) ∧
        ((t.core c).storeOf g).poisoned (granule * base.toNat + o) = ((s.core c).storeOf g).poisoned (g.phys o)) ∧
  (∀ (c : CoreId) (x : Ctx) (n : BitVec 5) (width pa : Nat) (m : Store) (s : State) (r : StreamReg) (e : Spot) (k : Nat),
     (s.core c).freeze = 0 → width = 2 ∨ width = 4 ∨ width = 8 ∨ width = 16 ∨ width = 32 → r = (s.ctx c x).streams[n.toNat] →
     r.bound = true → r.space = 1 → r.ahead = [] → k = r.pos % r.total → e = r.spot width 0 k → e.addr % e.bytes = 0 →
     (s.ctx c x).replayHolds .X e.eval.toNat = false →
     s.xlat c .vector (s.ctx c x).root e.eval needRd = .ok pa m → s.hbm.badPoison pa e.bytes = false →
     ∃ t, exec (.streamFetch c x n width) s = .next t ∧ t.mem = m ∧ (t.ctx c x).streams[n.toNat] = { r with
       arrived := max r.arrived (r.consumed + 1)
       ahead := [⟨k, width, m.read pa e.bytes / 2 ^ e.bit % 2 ^ width, m.anyPoison pa e.bytes⟩] })

/-! ## Engines (R149, R161, R185, R227, R241, R251, R310-R317) -/

/-- R149, R227, R240-R242, R268: a seed at the head of the matrix queue takes effect; a command that names no segment starts; one
that holds all it names, and whose barrier handle and rings admit it, starts holding them; a started step whose operands are there
accumulates, past its commit point, and each sub-array's KCNT rises by 24 for each block, up to its highest value. -/
def Obligations.CommandStartResults : Prop :=
  (∀ (c : CoreId) (x : Ctx) (s : State) (q : MxCmd) (r : List MxCmd) (v : BitVec 32), (s.core c).freeze = 0 →
    (s.ctx c x).mx = q :: r → (s.core c).mxTurn x q = true → q.seed = some v →
    ∃ t, exec (.matrixCommandStart c x) s = .next t ∧ (t.ctx c x).mx = r ∧ (t.ctx c x).srDrain = v) ∧
  (∀ (c : CoreId) (x : Ctx) (s : State) (q : MxCmd) (r : List MxCmd), (s.core c).freeze = 0 → (s.ctx c x).mx = q :: r →
    (s.core c).mxTurn x q = true → q.seed = none → q.phase = .queued → q.names = [] → mxKind q.word = .zero ∨ mxKind q.word = .stat →
    ∃ t q' r', exec (.matrixCommandStart c x) s = .next t ∧ (t.ctx c x).mx = q' :: r' ∧ q'.word = q.word ∧ q'.phase = .started) ∧
  (∀ (c : CoreId) (x : Ctx) (s s1 : State) (q : MxCmd) (r : List MxCmd) (l : List (BitVec 16)), (s.core c).freeze = 0 →
    (s.ctx c x).mx = q :: r → (s.core c).mxTurn x q = true → q.seed = none → q.phase = .queued →
    s.holdAll c x .X q.tag.serial (q.tag.ticket.getD 0) (firstNames q.names []) = .all s1 l → s1.mxStartFault c x q = none →
    exec (.matrixCommandStart c x) s =
      .next (s1.modCtx c x (·.modMx q.tag.serial fun q => { q with phase := .started, holds := l }))) ∧
  (∀ (c : CoreId) (x : Ctx) (s : State) (q : MxCmd) (r : List MxCmd), (s.ctx c x).mx = q :: r → (s.core c).mxTurn x q = false →
    exec (.matrixCommandStart c x) s = .next s) ∧
  (∀ (c : CoreId) (x : Ctx) (s s1 : State) (q : MxCmd) (r : List MxCmd) (o : Operands), (s.core c).freeze = 0 →
    (s.ctx c x).mx = q :: r → q.seed = none → q.phase = .started → mxKind q.word = .step → s.gather c x q = .ok s1 o →
    ∃ t, exec (.matrixCommit c x) s = .next t ∧ (t.ctx c q.target).acc = stepAcc q o (s1.ctx c q.target).acc ∧
      ∀ p, ((t.ctx c q.target).acc.get p).kcnt.toNat =
        min 0x1FFFF ((if q.w.first = 1 then 0 else ((s1.ctx c q.target).acc.get p).kcnt.toNat) + 24 * q.w.kb.toNat)) ∧
  (∀ (c : CoreId) (x : Ctx) (p : Strand) (s : State) (q : CopyCmd) (r : List CopyCmd) (d : Snap), (s.core c).freeze = 0 →
    (s.ctx c x).held = false → p = .L ∨ p = .S → (s.ctx c x).copyQueue p = q :: r → q.phase = .queued → q.bar = none → q.names = [] →
    (q.kind = .plain ∨ q.kind = .zero ∨ q.kind = .red ∨ q.kind = .fe) → q.dst = some d → d.reg.space = 1 →
    ∃ t q' r', exec (.copyCommandStart c x p) s = .next t ∧ (t.ctx c x).copyQueue p = q' :: r' ∧ q'.word = q.word ∧
      q'.phase = .started ∧ q'.tails = [])

/-- R161, R185-R187, R245, R246, R248-R251, R264: what completes. A copy, gather, scatter, broadcast, reduction or zeroing of one element
writes it to device memory and no other byte; cp.bc to a local stream writes it at both of two receivers; cp.fe changes only F bits; an
index past the end faults SEGBOUND and nothing is written; cp.w writes its source's bytes into the shadow quarter through the weight
stream and no other byte of the bank. mdrain writes every cell, rounded once, at its place in the tile, poisons the lines that have a
poisoned element and leaves the accumulation state; mzero clears the four sub-arrays; mcorr.st writes the images of the masked
sub-arrays, clean, and mcorr.ld takes them; mstat answers the status. A held completion adds its increment to its counter; a
memory-extended queue that has drained stays as it is. (No save of the core stands, which a completion of the matrix queue could
end, R355.) -/
def Obligations.CommandCompletionResults : Prop :=
  (∀ (c : CoreId) (x : Ctx) (p : Strand) (s s1 s2 : State) (q : CopyCmd) (d e : Snap) (ps : Place) (pb : Nat) (k : CpKind),
    (k = .plain ∨ k = .bcast ∨ k = .red) → s.CopyAt c x p q k → q.w.fe = 0 → q.dst = some d → q.src = some e → d.reg.space = 1 →
    d.reg.total = 1 → e.reg.total = 1 → s.ElementAt c x q e needRd 0 s1 ps →
    s1.ElementAt c x q d (if k = .red then needRW else needWr) 0 s2 (.dev pb) → s2.Canonical → s2.Unwaited →
    ∃ t, exec (.commandCompletion c x (copyEngine p)) s = .next t ∧ s2.CopiedTo t c x p q pb q.size
      (let v := s1.readPlace ps q.size
       let f := Fmt.ofCode q.w.rfmt
       if k = .red then (fitTo f .rne false 0 (addVal .rne (f.val (s2.mem.read pb q.size)) (f.val v))).code else v)) ∧
  (∀ (c : CoreId) (x : Ctx) (p : Strand) (s s0 s1 s2 : State) (q : CopyCmd) (d e : Snap) (ps : Place) (pb j : Nat) (k : CpKind),
    (k = .gather ∧ d.reg.total = 1 ∨ k = .scatter ∧ e.reg.total = 1) → s.CopyAt c x p q k → q.w.fe = 0 → q.dst = some d → q.src = some e →
    d.reg.space = 1 → s.indexAt c x q 0 = .ok s0 j →
    (j < (if k = .gather then e.reg.total else d.reg.total) → s0.ElementAt c x q e needRd (if k = .gather then j else 0) s1 ps →
      s1.ElementAt c x q d needWr (if k = .gather then 0 else j) s2 (.dev pb) → s2.Canonical → s2.Unwaited →
      ∃ t, exec (.commandCompletion c x (copyEngine p)) s = .next t ∧ s2.CopiedTo t c x p q pb q.size (s1.readPlace ps q.size)) ∧
    ((if k = .gather then e.reg.total else d.reg.total) ≤ j → s.Unwaited →
      (s.strand c x q.tag.strand).life ≠ .trapped → (s.strand c x q.tag.strand).life ≠ .ended →
      ∃ t, exec (.commandCompletion c x (copyEngine p)) s = .next t ∧ t.mem = s.mem ∧ (t.strand c x q.tag.strand).due =
        (s.strand c x q.tag.strand).due ++ [⟨.segbound, q.tag.strand, BitVec.ofNat 64 j⟩])) ∧
  (∀ (c d : CoreId) (x y : Ctx) (p : Strand) (s s1 s2 : State) (q : CopyCmd) (r e : Snap) (g : Seg) (ps : Place) (off : Nat),
    s.CopyAt c x p q .bcast → q.w.fe = 0 → q.dst = some r → q.src = some e → r.reg.space = 0 → r.reg.total = 1 → e.reg.total = 1 →
    q.tails = [] → s.stillThere c x q = [(c, x), (d, y)] → d ≠ c → s.unpinned q r [(c, x), (d, y)] = false →
    s.ElementAt c x q e needRd 0 s1 ps → s1.ElementAt c x q r needWr 0 s2 (.seg c x r.name off) →
    (s2.core d).seg? y r.name = some g → off + q.size ≤ g.bytes → s2.Canonical → s2.Unwaited →
    ∃ t, exec (.commandCompletion c x (copyEngine p)) s = .next t ∧ t.mem = s2.mem ∧
      t.readPlace (.seg c x r.name off) q.size = s1.readPlace ps q.size ∧
      t.readPlace (.seg d y r.name off) q.size = s1.readPlace ps q.size) ∧
  (∀ (c : CoreId) (x : Ctx) (p : Strand) (s s2 : State) (q : CopyCmd) (d : Snap) (pb : Nat), q.dst = some d → d.reg.space = 1 →
    d.reg.total = 1 → s2.Canonical → s2.Unwaited →
    (s.CopyAt c x p q .zero → q.w.fe = 0 → s.ElementAt c x q d needWr 0 s2 (.dev pb) →
      ∃ t, exec (.commandCompletion c x (copyEngine p)) s = .next t ∧ s2.CopiedTo t c x p q pb q.size 0) ∧
    (s.CopyAt c x p q .fe → q.w.fe = 2 ∨ q.w.fe = 3 → s.ElementAt c x q d needFe 0 s2 (.dev pb) →
      s2.badFPlace (.dev pb) q.size = false →
      ∃ t, exec (.commandCompletion c x (copyEngine p)) s = .next t ∧ ∀ a, t.mem.byte a = s2.mem.byte a ∧
        t.mem.poisoned a = s2.mem.poisoned a ∧
        t.mem.fbit a = if pb / 4 ≤ a / 4 ∧ a / 4 ≤ (pb + q.size - 1) / 4 then q.w.fe == 2 else s2.mem.fbit a)) ∧
  (∀ (c : CoreId) (x : Ctx) (p : Strand) (s s1 : State) (q : CopyCmd) (e : Snap) (ps : Place) (a : BitVec 1) (ws : WStream),
    s.CopyAt c x p q .weight → q.src = some e → e.reg.total = 1 → s.ElementAt c x q e needRd 0 s1 ps → q.w.fe = 0 →
    a = (s1.position c).active → ws = (s1.position c).streams[q.w.dst.toNat] → ((s1.position c).half (~~~a)).store.wf = true →
    ∃ t, exec (.commandCompletion c x (copyEngine p)) s = .next t ∧ t.mem = s1.mem ∧ (t.position c).half a = (s1.position c).half a ∧
      (∀ b, b < q.size → ((t.position c).half (~~~a)).store.byte (ws.at_ (q.wpos + b)) =
        BitVec.ofNat 8 (s1.readPlace ps q.size / 256 ^ b)) ∧
      ∀ o, (∀ b, b < q.size → o ≠ ws.at_ (q.wpos + b)) →
        ((t.position c).half (~~~a)).store.byte o = ((s1.position c).half (~~~a)).store.byte o) ∧
  (∀ (c : CoreId) (x : Ctx) (s : State) (q : MxCmd) (r : List MxCmd) (g : Seg) (k : Nat), (s.core c).freeze = 0 → (s.core c).save = none →
    (s.ctx c x).mx = q :: r → q.seed = none → q.phase = .started → (s.core c).seg? x q.nameD = some g → k = 4096 * q.w.off.toNat →
    k + q.extent ≤ g.bytes → s.Canonical → s.Unwaited →
    (∀ w, mxKind q.word = .drain → q.w.fuse.toNat ≤ 3 → w = (Fmt.ofCode q.w.dfmt).width →
      ∃ t, exec (.commandCompletion c x .matrix) s = .next t ∧ t.mem = s.mem ∧ (t.ctx c q.target).acc = (s.ctx c q.target).acc ∧
        (∀ (b : Fin 4) (i j : Fin 64),
          let v := q.drained (s.ctx c q.target).acc (s.ctx c q.target).srDrain b i j
          let n := drainIndex q.w.fuse b.val i.val j.val
          t.readPlace (.seg c x q.nameD (k + n * w / 8)) ((w + 7) / 8) / 2 ^ (n * w % 8) % 2 ^ w = v.code % 2 ^ w ∧
            (v.sat = true → (t.strand c x .X).sat = true)) ∧
        (∀ l, 64 * l < 16384 * w / 8 → (t.poisonPlace (.seg c x q.nameD (k + 64 * l)) 64 = true ↔
          ∃ (b : Fin 4) (i j : Fin 64), drainIndex q.w.fuse b.val i.val j.val * w / 8 / 64 = l ∧
            q.drainedBad (s.ctx c q.target).acc (s.ctx c q.target).srDrain b i j = true))) ∧
    (mxKind q.word = .store →
      ∃ t, exec (.commandCompletion c x .matrix) s = .next t ∧ t.mem = s.mem ∧ (t.ctx c q.target).acc = (s.ctx c q.target).acc ∧
        ∀ i p, (maskSubs q.w.mask)[i]? = some p →
          (let h := t.imageHead c x q.nameD (k + 69632 * i)
           ((s.ctx c q.target).acc.get p).IsImage h (t.imageCell c x q.nameD (k + 69632 * i)) ∧
             h.testBit 147 = ((s.ctx c q.target).acc.get p).ue) ∧
          t.poisonPlace (.seg c x q.nameD (k + 69632 * i)) 69632 = false) ∧
    (mxKind q.word = .load →
      ∃ t, exec (.commandCompletion c x .matrix) s = .next t ∧ t.mem = s.mem ∧
        (∀ i p, (maskSubs q.w.mask)[i]? = some p →
          (let h := s.imageHead c x q.nameD (k + 69632 * i)
           ((t.ctx c q.target).acc.get p).IsImage h (s.imageCell c x q.nameD (k + 69632 * i)) ∧
             ((t.ctx c q.target).acc.get p).ue = (h.testBit 147 || s.poisonPlace (.seg c x q.nameD (k + 69632 * i)) 69632))) ∧
        ∀ p, maskBit q.w.mask p = false → (t.ctx c q.target).acc.get p = (s.ctx c q.target).acc.get p)) ∧
  (∀ (c : CoreId) (x : Ctx) (s : State) (q : MxCmd) (r : List MxCmd), (s.core c).freeze = 0 → (s.core c).save = none →
    (s.ctx c x).mx = q :: r → q.seed = none → q.phase = .started →
    (mxKind q.word = .zero → ∃ t, exec (.commandCompletion c x .matrix) s = .next t ∧
      ∀ p, (t.ctx c q.target).acc.get p = Accum.zero) ∧
    (mxKind q.word = .stat → ∃ t, exec (.commandCompletion c x .matrix) s = .next t ∧
      ∀ e ∈ (s.strand c x .X).pend, e.serial = q.tag.serial → e.d = q.w.statD → e.val = none →
        ∃ e' ∈ (t.strand c x .X).pend, e'.d = q.w.statD ∧ e'.val = some (accStat (s.ctx c q.target).acc))) ∧
  (∀ (c : CoreId) (x : Ctx) (p : Strand) (s : State), (s.core c).freeze = 0 → p = .L ∨ p = .S → (s.ctx c x).meQueue p = [] →
    exec (.commandCompletion c x (meEngine p)) s = .next s) ∧
  (∀ (c : CoreId) (x : Ctx) (e : Engine) (s : State) (g : Stage), (s.core c).freeze = 0 → (s.ctx c x).stages e = [g] →
    g.bar = none → g.follow = none → g.ccDone = false → g.tag.push &&& 12 = 0 →
    ∃ t, exec (.completionStageResume c x e) s = .next t ∧ (t.ctx c x).stages e = [] ∧
      ((t.ctx c x).cc[g.tag.cc.toNat]).toNat = (((s.ctx c x).cc[g.tag.cc.toNat]).toNat + g.tag.inc.toNat) % 2 ^ 16)

/-- R310-R316: the one waiter of a home whose condition holds is performed and leaves its queue and the list, a waiting load with its
value; the oldest parked waiter moves into the wait table; each multiple of 1,024 cycles takes one unit of the budget of a
waiting access, and one whose budget is exhausted is abandoned with FEBUDGET. -/
def Obligations.WaiterResults : Prop :=
  (∀ (c : CoreId) (s : State) (w : Waiter) (q : MeCmd), (s.core c).freeze = 0 → (s.core c).waitList = [w] → w.core = c →
    s.waitersAt w.place = ([w], []) → s.meOf w = some q → (s.ctx c w.ctx).meL ++ (s.ctx c w.ctx).meS = [q] → s.condHolds w.cond w.place w.bytes = true →
    ∃ t, exec (.waiterPerformed (.core c)) s = .next t ∧ (t.core c).waitList = [] ∧
      (t.ctx c w.ctx).meL ++ (t.ctx c w.ctx).meS = [] ∧
      (q.kind = .load true false → q.bytes ≠ 16 → s.poisonPlace w.place q.bytes = false → s.badAt true true w.place q.bytes = false →
        ∀ e ∈ (s.strand c w.ctx q.tag.strand).pend, e.serial = q.tag.serial → e.d = q.w.d → e.val = none →
          ∃ e' ∈ (t.strand c w.ctx q.tag.strand).pend, e'.d = q.w.d ∧
            e'.val = some (meValue q.w q.bytes (s.readPlace w.place q.bytes)))) ∧
  (∀ (d : DieId) (s : State) (w : Waiter) (q : MeCmd), (s.die d).waiters = [w] → (s.die d).qwaits = [] →
    s.waitersAt w.place = ([w], []) → s.meOf w = some q → (s.ctx w.core w.ctx).meL ++ (s.ctx w.core w.ctx).meS = [q] → s.condHolds w.cond w.place w.bytes = true →
    ∃ t, exec (.waiterPerformed (.die d)) s = .next t ∧ (t.die d).waiters = [] ∧
      (t.ctx w.core w.ctx).meL ++ (t.ctx w.core w.ctx).meS = []) ∧
  (∀ (d : DieId) (s : State) (w : Waiter), s.nextWake d = some w →
    (w.isBarrier = true → ∃ t, exec (.parkWake d) s = .next t ∧ (t.die d).waiters = (s.die d).waiters ++ [{ w with record := none }] ∧
      (t.die d).parked = (s.die d).parked.erase w) ∧
    (∀ q, w.isBarrier = false → s.meOf w = some q → (s.strand w.core w.ctx w.strand).feb = 0 →
      (s.strand w.core w.ctx q.tag.strand).life ≠ .trapped → (s.strand w.core w.ctx q.tag.strand).life ≠ .ended →
      ∃ t, exec (.parkWake d) s = .next t ∧ (t.strand w.core w.ctx q.tag.strand).due =
        (s.strand w.core w.ctx q.tag.strand).due ++ [⟨.febudget, q.tag.strand, q.loc⟩])) ∧
  (∀ (c : CoreId) (x : Ctx) (s : State) (q : MeCmd) (r : List MeCmd) (n : Nat), (s.core c).freeze = 0 → (s.ctx c x).febDue = true →
    (s.ctx c x).meL = q :: r → (s.ctx c x).meS = [] → q.phase = .waiting n ∨ q.phase = .parked n →
    ((s.strand c x .L).feb ≠ 0 → ∃ t, exec (.febBoundaryCharge c x) s = .next t ∧ (t.ctx c x).febDue = false ∧
      (t.strand c x .L).feb = (s.strand c x .L).feb - 1 ∧ (t.ctx c x).meL = q :: r) ∧
    ((s.strand c x .L).feb = 0 → (s.strand c x q.tag.strand).life ≠ .trapped → (s.strand c x q.tag.strand).life ≠ .ended →
      ∃ t, exec (.febBoundaryCharge c x) s = .next t ∧ (t.ctx c x).febDue = false ∧
        (∃ q' r', (t.ctx c x).meL = q' :: r' ∧ q'.phase = .abandoned) ∧
        (t.strand c x q.tag.strand).due = (s.strand c x q.tag.strand).due ++ [⟨.febudget, q.tag.strand, q.loc⟩]))

/-- R265, R266, R267, R273: a swap takes effect when no earlier command of the core uses the bank: ACTIVE flips, SWAPS and the
counter rise; a position that is due is refreshed by taking and counting a weight-read slot when the table has no refresh slot;
every 1,024 frames the sensor is sampled; a ratio change ends. -/
def Obligations.WeightLayerEvents : Prop :=
  (∀ (k : ClusterId) (pos : BitVec 2) (s : State) (c : CoreId) (w : Swap), c = coreAt k ⟨pos.toNat, pos.isLt⟩ →
    (s.position c).pend = some w → s.swapReady c w = true →
    ∃ t, exec (.weightSwapEffect k pos) s = .next t ∧ (t.position c).active = ~~~(s.position c).active ∧
      (t.position c).swaps = (s.position c).swaps + 1 ∧ (t.position c).pend = none ∧
      (t.position c).half0 = (s.position c).half0 ∧ (t.position c).half1 = (s.position c).half1 ∧
      (w.ctx = .fw ∨ (s.ctx c w.ctx).task = w.tasks.get w.ctx →
        ((t.ctx c w.ctx).cc[w.cc.toNat]).toNat = (((s.ctx c w.ctx).cc[w.cc.toNat]).toNat + w.inc.toNat) % 2 ^ 16 ∧
        (t.ctx c w.ctx).swaps = (s.ctx c w.ctx).swaps - 1)) ∧
  (∀ (k : ClusterId) (pos : BitVec 2) (s : State) (c : CoreId), c = coreAt k ⟨pos.toNat, pos.isLt⟩ →
    (∀ w, (s.position c).pend = some w → s.swapReady c w = false) → exec (.weightSwapEffect k pos) s = .next s) ∧
  (∀ (k : ClusterId) (pos : BitVec 2) (frame : Nat) (s : State), (s.cluster k).hotNext = none →
    (∀ e ∈ ((s.cluster k).atFrame frame).ruling.toList, e.toNat / 4 ≠ 3) →
    BitVec.ofNat 5 pos.toNat ∈ ((s.cluster k).atFrame frame).ruling.toList →
    (if (s.cluster k).hot = true then frame % 32 = 8 * pos.toNat else frame % 64 = 16 * pos.toNat) →
    ∃ t, exec (.weightRefresh k pos frame) s = .next t ∧
      ((t.cluster k).pos[pos.toNat]).stalls.toNat = min (2 ^ 32 - 1) (((s.cluster k).pos[pos.toNat]).stalls.toNat + 1)) ∧
  (∀ (k : ClusterId) (temp : BitVec 16) (frame : Nat) (s : State), frame % 1024 = 0 →
    ∃ t, exec (.refreshSensorSample k temp frame) s = .next t ∧ (t.cluster k).temp = temp ∧
      (t.cluster k).hotNext = some (decide (85 * 64 < temp.toInt), frame + 64)) ∧
  (∀ (k : ClusterId) (s : State) (r : BitVec 2), (s.cluster k).chg = some r →
    exec (.clockRatioChangeDone k) s = .next (s.modCluster k fun c => { c with ratio := r, chg := none }))

/-! ## Device memory and paging (R280-R282, R288-R292) -/

/-- R280, R282, R288, R289, R291, R292: an access to an absent page that is not malformed records its fault once; the service gives a
demand-zero page a free frame of zeros and the host one that it names, and nothing else of memory changes but the entry; a
refused page is refused to every strand that waits for it, and a request of another package that it delays is answered PAGE; a page that is paged out leaves its image in host memory and its
entry with V clear and MIG set; an uncorrectable error of data poisons its line and no other, one of the F bits or the poison bit
makes the line's metadata unusable; correctable errors are counted; a frame whose clear has ended is scrubbed. -/
def Obligations.PagingAndMemoryErrors : Prop :=
  (∀ (c : CoreId) (x : Ctx) (va : Addr) (s : State) (e pte size : Nat), walk s.mem (s.ctx c x).root va.toNat = .absent e pte size →
    (s.part (s.ctx c x).part).split.getLsbD 1 = true ∨ pte.testBit 1 = true ∨ pte.testBit 2 = true →
    (∀ f ∈ s.hbm.faults, f.root ≠ (s.ctx c x).root ∨ f.va.toNat ≠ va.toNat / 65536 * 65536) →
    ∃ t f, exec (.pageFault c x va) s = .next t ∧ t.hbm.faults = s.hbm.faults ++ [f] ∧ f.root = (s.ctx c x).root ∧
      f.va.toNat = va.toNat / 65536 * 65536 ∧ f.part = (s.ctx c x).part ∧
      f.host = (s.part (s.ctx c x).part).split.getLsbD 1 ∧ t.mem = s.mem) ∧
  (∀ (root va : Addr) (s : State) (f : PFault) (e pte size frame : Nat), s.Canonical → (∀ c x, (s.ctx c x).replay = []) →
    (∀ i ∈ s.pkg.saved ++ s.pkg.images, i.k.replay = []) →
    s.faultAt root va = some f → f.host = false → s.leaf root va = some (e, pte, size) → pte.testBit 0 = false → pte.testBit 1 = false →
    s.pkg.delayed = [] → s.outAt root va.toNat = none → s.freeFrame f.part size = some frame →
    ∃ t, exec (.pageFaultServed root va) s = .next t ∧ t.mem.read e 8 = mapEntry pte frame % 2 ^ 64 ∧
      (∀ g ∈ t.hbm.faults, g.root = f.root → g.va ≠ f.va) ∧ frame ∈ t.hbm.taken ∧
      ∀ a, a < e ∨ e + 8 ≤ a → t.mem.byte a = if 65536 * frame ≤ a ∧ a < 65536 * frame + size then 0 else s.mem.byte a) ∧
  (∀ (root va frame : Addr) (s : State) (f : PFault) (e pte size n : Nat), s.Canonical → (∀ c x, (s.ctx c x).replay = []) →
    (∀ i ∈ s.pkg.saved ++ s.pkg.images, i.k.replay = []) →
    s.faultAt root va = some f → f.host = true → s.leaf root va = some (e, pte, size) → pte.testBit 0 = false →
    s.pkg.delayed = [] → s.outAt root va.toNat = none → n = frame.toNat / size * (size / 65536) →
    ∃ t, exec (.hostPageReply root va (.map frame)) s = .next t ∧
      t.mem.read e 8 = mapEntry pte n % 2 ^ 64 ∧ (∀ g ∈ t.hbm.faults, g.root = f.root → g.va ≠ f.va) ∧
      ∀ a, a < e ∨ e + 8 ≤ a → t.mem.byte a = if 65536 * n ≤ a ∧ a < 65536 * n + size then 0 else s.mem.byte a) ∧
  (∀ (root va : Addr) (s : State) (f : PFault), s.faultAt root va = some f → f.host = true → s.outAt root va.toNat = none →
    (∀ d, (s.die d).queues = []) → s.pkg.delayed = [] →
    ∃ t, exec (.hostPageReply root va .refuse) s = .next t ∧ t.mem = s.mem ∧ ∀ c x p, (s.ctx c x).root = root →
      (s.ctx c x).busy = true → ∀ q ∈ (t.strand c x p).pages, pageOf q.va = pageOf va → q.refused = true) ∧
  (∀ (root va : Addr) (s : State) (f : PFault) (q : Delayed) (i : Fin 64) (addr : Word) (n pte : Nat), s.faultAt root va = some f →
    f.host = true → s.outAt root va.toNat = none → (∀ d, (s.die d).queues = []) → s.pkg.delayed = [q] → s.admits q.req = some i →
    (s.part q.req.dst).inroot.setWidth 57 <<< 12 = root → q.req.op = .load addr (n + 1) →
    addr.toNat / 65536 = f.va.toNat / 65536 → s.inXlat (s.dieOfRequest q.sub q.req i) root addr needRd = .absent pte →
    ∃ t, exec (.hostPageReply root va .refuse) s = .next t ∧ t.pkg.delayed = [] ∧ s.Answered t q (.fault .page)) ∧
  (∀ (root va host : Addr) (s : State) (e pte size : Nat), s.Canonical → s.leaf root va = some (e, pte, size) → pte.testBit 0 = true →
    s.outAt root va.toNat = none → s.objectPage e = false →
    (s.holdsPages (fun _ => true) root (va.toNat / size * size) size = false → s.frameWaited (entryAddr pte) size = false →
      e + 8 ≤ entryAddr pte / 65536 * 65536 ∨ entryAddr pte + size ≤ e →
      ∃ t, exec (.pageOut root va host) s = .next t ∧
        t.mem.read e 8 = (pte % 4096 / 8 * 8 + 2 + host.toNat / 4096 * 4096) % 2 ^ 64 ∧ entryAddr pte / 65536 ∉ t.hbm.taken ∧
        ∀ i, i < size → t.hbm.host.byte (host.toNat / 4096 * 4096 + i) = s.mem.byte (entryAddr pte + i)) ∧
    (s.holdsPages (fun _ => true) root (va.toNat / size * size) size = true →
      ∃ t, exec (.pageOut root va host) s = .next t ∧ (t.outAt root va.toNat).isSome = true ∧ t.hbm.taken = s.hbm.taken ∧
        t.mem.read e 8 = (pte % 4096 / 8 * 8 + 2 + host.toNat / 4096 * 4096) % 2 ^ 64 ∧
        ∀ a, a < e ∨ e + 8 ≤ a → t.mem.byte a = s.mem.byte a)) ∧
  (∀ (pa : Addr) (s : State), dataArea pa.toNat = true → s.hbm.live pa.toNat = true → ∃ t, exec (.hbmUncorrectableError pa .data) s = .next t ∧
    ∀ a, t.mem.poisoned a = (s.mem.poisoned a || a / 64 == pa.toNat / 64) ∧ t.mem.byte a = s.mem.byte a ∧
      t.mem.fbit a = s.mem.fbit a) ∧
  (∀ (pa : Addr) (s : State) (site : HbmSite), dataArea pa.toNat = true → s.hbm.live pa.toNat = true →
    (site = .fbits → ∃ t, exec (.hbmUncorrectableError pa site) s = .next t ∧ t.mem = s.mem ∧ t.hbm.badF pa.toNat 1 = true ∧
      t.hbm.ueP = s.hbm.ueP) ∧
    (site = .poison → ∃ t, exec (.hbmUncorrectableError pa site) s = .next t ∧ t.mem = s.mem ∧ t.hbm.badPoison pa.toNat 1 = true ∧
      t.hbm.ueF = s.hbm.ueF)) ∧
  (∀ (pa : Addr) (s : State) (site : HbmSite), s.hbm.live pa.toNat = false → exec (.hbmUncorrectableError pa site) s = .next s) ∧
  (∀ (n : BitVec 3) (s : State), ∃ t, exec (.hbmCorrectableError n) s = .next t ∧ t.mem = s.mem ∧
    ∀ i : Fin 8, (t.hbm.corrected[i.val]).toNat =
      if i.val = n.toNat then min (2 ^ 32 - 1) ((s.hbm.corrected[i.val]).toNat + 1) else (s.hbm.corrected[i.val]).toNat) ∧
  (∀ (frame : Nat) (l : List Nat) (s : State), (frame, l) ∈ s.hbm.clearing →
    ∃ t, exec (.frameClearDone frame) s = .next t ∧ t.mem = s.mem ∧ markGet t.hbm.scrubbed frame = true ∧
      ∀ q ∈ t.hbm.clearing, q.1 ≠ frame)

/-! ## Links and inbound requests (R361, R400-R416) -/

/-- R403-R410, R413: a request that passes its checks goes out on the path in use with the next number of its pair; an xfence at the
head of its queue completes; an answered load or atomic fills its register and leaves its queue, and none completes before one of its
queue that started earlier (R161). An inbound request, by itself or in a
flit, that no entry admits is answered PROT and changes nothing; a repeated one is acknowledged again and not performed; a store that is
admitted writes its bytes and no other; one whose page is being served is delayed, and what comes from its source after it stands
behind it, of whatever queue, and a copy of it that is sent again on another path takes its place (both the model's reading, log 63). -/
def Obligations.RemoteAccessResults : Prop :=
  (∀ (c : CoreId) (x : Ctx) (p : Strand) (s : State) (q : FabCmd) (r : List FabCmd) (pe : Peer) (sel : BitVec 1), p = .L ∨ p = .S →
    (s.ctx c x).fabQueue p = q :: r → q.phase = .queued → (q.kind = .load ∨ q.kind = .store ∨ q.kind = .atomic) → q.names = [] →
    (∀ e ∈ r, e.kind ≠ .fence) → s.fabHeld c x q = false → pe = s.peer (s.ctx c x).part q.peerIdx → q.check pe = none →
    (s.core c).freeze = 0 → (s.ctx c x).held = false → s.pathFor (s.ctx c x).part pe = some sel → s.unacked (s.ctx c x).part q.peerIdx < 2048 →
    ∃ t q' r' o, exec (.fabricCommandSend c x p) s = .next t ∧ (t.ctx c x).fabQueue p = q' :: r' ∧ q'.phase = .started ∧
      q'.num = pe.next ∧ (t.peer (s.ctx c x).part q.peerIdx).next = (pe.next + 1) % 2 ^ 64 ∧
      (t.peer (s.ctx c x).part q.peerIdx).sent = pe.sent ++ [o] ∧ o.num = pe.next ∧ o.serial = q.tag.serial ∧
      o.path = pe.path sel ∧ o.op = (match q.kind with
        | .load => .load q.a q.bytes
        | .store => .store q.a q.bytes q.data q.fe
        | _ => .atomic (q.w.imm.setWidth 4) q.a q.w.fmt q.c q.data)) ∧
  (∀ (c : CoreId) (x : Ctx) (p : Strand) (s : State) (q : FabCmd) (r : List FabCmd), p = .L ∨ p = .S →
    (s.core c).freeze = 0 → (s.ctx c x).held = false → (s.ctx c x).fabQueue p = q :: r → q.kind = .fence →
    ∃ t, exec (.fabricCommandSend c x p) s = .next t ∧ ∀ e ∈ (t.ctx c x).fabQueue p, e.tag.serial ≠ q.tag.serial) ∧
  (∀ (c : CoreId) (x : Ctx) (p : Strand) (s : State) (q : FabCmd) (r : List FabCmd), (s.core c).freeze = 0 → (s.core c).save = none →
    p = .L ∨ p = .S → (s.ctx c x).fabQueue p = q :: r → q.phase = .started → q.answer = none →
    exec (.commandCompletion c x (fabEngine p)) s = .next s) ∧
  (∀ (c : CoreId) (x : Ctx) (p : Strand) (s : State) (q : FabCmd) (r : List FabCmd) (v : Word), (s.core c).freeze = 0 → (s.core c).save = none →
    p = .L ∨ p = .S → (s.ctx c x).fabQueue p = q :: r → q.phase = .started → q.answer = some (.done v) →
    ∃ t, exec (.commandCompletion c x (fabEngine p)) s = .next t ∧ (∀ e ∈ (t.ctx c x).fabQueue p, e.tag.serial ≠ q.tag.serial) ∧
      ∀ e ∈ (s.strand c x p).pend, e.serial = q.tag.serial → e.d = q.d → e.val = none →
        ∃ e' ∈ (t.strand c x p).pend, e'.d = q.d ∧ e'.val = some (q.result v)) ∧
  (∀ (e : Instr) (q : Delayed) (s s' : State), s.Brings e q s' → s'.admits q.req = none →
    ∃ t, exec e s = .next t ∧ t.mem = s.mem ∧ t.parts = s.parts ∧ s'.Answered t q (.fault .prot)) ∧
  (∀ (e : Instr) (q : Delayed) (s s' : State) (i : Fin 64), s.Brings e q s' → s'.admits q.req = some i →
    (s'.peer q.req.dst (BitVec.ofNat 6 i.val)).seen q.req.num = true →
    ∃ t r, exec e s = .next t ∧ t.mem = s.mem ∧ t.parts = s.parts ∧ s'.Answered t q r) ∧
  (∀ (e : Instr) (q : Delayed) (s s' s1 : State) (i : Fin 64) (addr v : Word) (n pa : Nat) (l : List Nat), s1.Canonical →
    s.Brings e q s' → s'.admits q.req = some i → (s'.peer q.req.dst (BitVec.ofNat 6 i.val)).seen q.req.num = false →
    q.req.op = .store addr n v 0 → (∀ o ∈ s'.pkg.delayed, sameSource o.req q.req = false) →
    s'.inboundBytes (s'.dieOfRequest q.sub q.req i) q.req.dst ((s'.part q.req.dst).inroot.setWidth 57 <<< 12) none addr.toNat needFill false
      (List.range n) = .ok s1 (pa :: l) →
    (s1.waitersAt (.dev pa)).1 = [] →
    ∃ t, exec e s = .next t ∧ s1.Answered t q (.done 0) ∧
      (t.peer q.req.dst (BitVec.ofNat 6 i.val)).seen q.req.num = true ∧
      ∀ a, t.mem.byte a = if pa ≤ a ∧ a < pa + n then BitVec.ofNat 8 (v.toNat % 2 ^ (8 * n) / 256 ^ (a - pa)) else
        (s1.dirtyInbound (s'.dieOfRequest q.sub q.req i) ((s'.part q.req.dst).inroot.setWidth 57 <<< 12)
          ((pagesOf addr n).map (·.toNat))).mem.byte a) ∧
  (∀ (e : Instr) (q : Delayed) (s s' s1 : State) (i : Fin 64) (addr v : Word) (n : Nat), s.Brings e q s' → s'.admits q.req = some i →
    (s'.peer q.req.dst (BitVec.ofNat 6 i.val)).seen q.req.num = false → q.req.op = .store addr n v 0 →
    (∀ o ∈ s'.pkg.delayed, sameSource o.req q.req = false) →
    s'.inboundBytes (s'.dieOfRequest q.sub q.req i) q.req.dst ((s'.part q.req.dst).inroot.setWidth 57 <<< 12) none addr.toNat needFill false
      (List.range n) = .waits s1 →
    exec e s = .next (s1.modPkg fun k => { k with delayed := k.delayed ++ [q] })) ∧
  (∀ (e : Instr) (q o : Delayed) (s s' : State) (i : Fin 64), s.Brings e q s' → s'.admits q.req = some i →
    (s'.peer q.req.dst (BitVec.ofNat 6 i.val)).seen q.req.num = false → o ∈ s'.pkg.delayed → sameSource o.req q.req = true →
    ((∀ o ∈ s'.pkg.delayed, o.req ≠ q.req) → exec e s = .next (s'.modPkg fun k => { k with delayed := k.delayed ++ [q] })) ∧
    (o.req = q.req → exec e s = .next (s'.modPkg fun k => { k with delayed := k.delayed.map fun d => if d.req == q.req then q else d })))

/-- R361, R400, R401, R409, R416: a sub-link that trains is up and has its partner; a flit out of order, with a bad CRC or without
room is discarded and asked for again, one that is in order moves the count on; a sub-link that fails is down and flagged, and the
requests that it brought and that wait for pages are gone; a die pair counts what it receives until it fails; a time message that comes by a time port
sets the offset, and with lock the fabric time. (That an answer to a KIND 1 peer is taken on any sub-link, log 81, what is done with a
request that its partition's path does not carry and with held flits, log 63, and that acknowledgements and replay requests are not
acknowledged themselves, log 84, are the model's choices.) -/
def Obligations.LinkResults : Prop :=
  (∀ (n : Fin 96) (m : LinkPartner) (s : State) (k : Nat), subWidth (s.pkg.links[(linkOf n).val]).split (n.val % 8) = some k →
    ∃ t, exec (.linkTraining n m) s = .next t ∧ t.subUp n.val = true ∧
      (t.pkg.links[(linkOf n).val]).ppkg = m.pkg ∧ (t.pkg.links[(linkOf n).val]).plink = m.link ∧
      (m.table = none → (t.pkg.links[(linkOf n).val]).req = 40 ∧ (t.pkg.links[(linkOf n).val]).rsp = 16 ∧ (t.pkg.links[(linkOf n).val]).sig = 8) ∧
      (t.pkg.subs[n.val]).tx = ((s.pkg.subs[n.val]).waiting.filter fun f => (t.pkg.links[(linkOf n).val]).slots f.use != 0).length ∧
      (t.pkg.subs[n.val]).rx = 0) ∧
  (∀ (n : Fin 96) (f : Flit) (s : State), f.crcOk = false ∨ f.room = false ∨ f.seq ≠ (s.pkg.subs[n.val]).rx →
    ∃ t, exec (.flitReceive n f) s = .next t ∧ t.mem = s.mem ∧ t.parts = s.parts ∧
      (let k := s.pkg.subs[n.val]
       ((s.pkg.links[(linkOf n).val]).rsp = 0 → t.pkg.subs[n.val] = { k with asks := true, waiting := k.waiting ++ [.replay k.rx] }) ∧
       ((s.pkg.links[(linkOf n).val]).rsp ≠ 0 → t.pkg.subs[n.val] = { k with
         asks := true, tx := k.tx + 1, held := k.held ++ [(k.tx, .replay k.rx)], line := k.line ++ [(k.tx, .replay k.rx)] }))) ∧
  (∀ (n : Fin 96) (f : Flit) (q : Nat) (s : State), f.crcOk = true → f.room = true → f.seq = (s.pkg.subs[n.val]).rx →
    (f.body = .ack q → exec (.flitReceive n f) s = .next (s.modSub n fun k => { k with
      rx := k.rx + 1, asks := false, acked := q, held := k.held.filter fun e => q < e.1 })) ∧
    (f.body = .replay q → exec (.flitReceive n f) s = .next (s.modSub n fun k => { k with
      rx := k.rx + 1, asks := false, line := k.line ++ k.held.filter fun e => q ≤ e.1 })) ∧
    (∀ r, f.body = .request r →
      (s.subOwned r.dst n.val = false → ∃ t, exec (.flitReceive n f) s = .next t ∧ t.mem = s.mem ∧ t.parts = s.parts ∧
        t.pkg.answers = s.pkg.answers ∧
        (let k := s.pkg.subs[n.val]
         ((s.pkg.links[(linkOf n).val]).rsp = 0 → t.pkg.subs[n.val] = { k with
           rx := k.rx + 1, asks := false, waiting := k.waiting ++ [.ack f.seq] }) ∧
         ((s.pkg.links[(linkOf n).val]).rsp ≠ 0 → t.pkg.subs[n.val] = { k with
           rx := k.rx + 1, asks := false, tx := k.tx + 1, held := k.held ++ [(k.tx, .ack f.seq)], line := k.line ++ [(k.tx, .ack f.seq)] }))) ∧
      (s.subOwned r.dst n.val = true → s.admits r = none → ∃ t, exec (.flitReceive n f) s = .next t ∧ t.mem = s.mem ∧
        (t.pkg.subs[n.val]).rx = (s.pkg.subs[n.val]).rx + 1)) ∧
    (∀ (part : PartId) (i : BitVec 6) (num : Nat) (res : RemoteResult), f.body = .answer part i num res →
      s.subOwned part n.val = true ∨ (s.peer part i).kind = 1 → ∃ t, exec (.flitReceive n f) s = .next t ∧ t.mem = s.mem ∧
        (t.peer part i).sent = (s.peer part i).sent.filter (·.num != num))) ∧
  (∀ (n : Fin 96) (s : State), ∃ t, exec (.sublinkFailure n) s = .next t ∧ ((∀ d, (s.die d).parked = []) → t.mem = s.mem) ∧ t.subUp n.val = false ∧
    (t.pkg.links[(linkOf n).val]).failed.getLsbD (n.val % 8) = true ∧ (t.pkg.subs[n.val]).fails = (s.pkg.subs[n.val]).fails + 1 ∧
    t.pkg.delayed = s.pkg.delayed.filter fun q => q.sub != some n) ∧
  (∀ (n : Fin 6) (ok : Bool) (s : State), (s.pkg.pairs[n.val]).failed = false → ∃ t, exec (.dieToDieFlit n ok) s = .next t ∧
    t.pkg.pairs[n.val] = (if ok then { s.pkg.pairs[n.val] with rx := (s.pkg.pairs[n.val]).rx + 1 }
      else { s.pkg.pairs[n.val] with resent := (s.pkg.pairs[n.val]).resent + 1 })) ∧
  (∀ (n : Fin 6) (s : State), ∃ t, exec (.pairFailure n) s = .next t ∧ (t.pkg.pairs[n.val]).failed = true ∧
    (t.pkg.pairs[n.val]).fails = (s.pkg.pairs[n.val]).fails + 1) ∧
  (∀ (m : TimeMessage) (time : Word) (s : State),
    (s.pkg.timePorts.getLsbD m.port.toNat = true →
      exec (.timeMessage m true time) s = .next (s.modPkg fun k => { k with offs := m.offs, locked := true, fabricTime := time }) ∧
      exec (.timeMessage m false time) s = .next (s.modPkg fun k => { k with offs := m.offs, locked := false })) ∧
    (s.pkg.timePorts.getLsbD m.port.toNat = false → ∀ lock, exec (.timeMessage m lock time) s = .next s))

/-! ## Bandwidth, heat and energy (R343, R349, R366, R375-R389) -/

/-- R366, R375, R376, R377, R343: a refill gives the n cores of each active partition of a die, one that spent a token or of which a
request waits, a total of its grant, the first ones one token more, and the die's other cores none; a sensor reading above 102 degrees stops a core until one of at most 100; a droop
is counted up to 255; with no core spent a window end starts USED and SPENT again and leaves the allowances and the droop counts; a
core whose task has not left in time is throttled. -/
def Obligations.HeatResults : Prop :=
  (∀ (d : DieId) (waiting : List PartId) (s : State) (act : List PartId),
    act = ((s.spenders d ++ waiting).eraseDups).filter (fun p => !(s.coresOf p d).isEmpty) → (act.map s.baseOf).sum ≠ 0 →
    ∃ t, exec (.bandwidthRefill d waiting) s = .next t ∧ (∀ c, dieOf c = d → (t.core c).drew = false) ∧
      (∀ p ∈ act, ∀ (j : Nat) (c : CoreId), (s.coresOf p d)[j]? = some c →
        (t.core c).tokens =
          (let base (q : PartId) := 57344 * s.shareOf q / 1024
           let g := base p + min (57344 * s.capOf p / 1024 - base p) ((57344 - (act.map base).sum) * base p / (act.map base).sum)
           g / (s.coresOf p d).length + (if j < g % (s.coresOf p d).length then 1 else 0))) ∧
      (∀ c, dieOf c = d → (∀ p ∈ act, c ∉ s.coresOf p d) → (t.core c).tokens = 0) ∧
      (∀ c, dieOf c ≠ d → t.core c = s.core c)) ∧
  (∀ (c : CoreId) (temp : BitVec 16) (s : State), ∃ t, exec (.junctionSensor c temp) s = .next t ∧ (t.core c).temp = temp ∧
    (102 * 64 < temp.toInt → (t.core c).hot = true) ∧ (temp.toInt ≤ 100 * 64 → (t.core c).hot = false) ∧
    (100 * 64 < temp.toInt → temp.toInt ≤ 102 * 64 → (t.core c).hot = (s.core c).hot) ∧ ∀ e, e ≠ c → t.core e = s.core e) ∧
  (∀ (c : CoreId) (s : State), ∃ t, exec (.voltageDroop c) s = .next t ∧
    t.droop c = min 255 (s.droop c + 1) ∧ ∀ e, e ≠ c → t.core e = s.core e) ∧
  (∀ (heat : List HeatInput) (s : State), (∀ c, (s.core c).tar.spent = false) →
    ∃ t, exec (.thermalWindowEnd heat) s = .next t ∧ (∀ c, (t.core c).tar.used = 0 ∧ (t.core c).tar.spent = false ∧
      (t.core c).tar.allow = (s.core c).tar.allow ∧ (t.core c).droops = (s.core c).droops ∧ (t.core c).throttled = false ∧ (t.core c).ctxs = (s.core c).ctxs) ∧
      t.energyTotal = s.energyTotal) ∧
  (∀ (c : CoreId) (s : State), ((s.core c).moving = true → ∃ t, exec (.moveTimeout c) s = .next t ∧ (t.core c).throttled = true ∧
      ∀ e, e ≠ c → t.core e = s.core e) ∧
    ((s.core c).moving = false → exec (.moveTimeout c) s = .next s))

/-- R349, R362, R380, R384, R385, R387, R389, R416: in each period the counters of the partitions and of the house together rise by exactly what was
measured, and die time and fabric time by 1,000 ns; the renewal of a node's core-time budget leaves every other node's usage; at a
window end each partition that has been created has a record of its counters, numbered in sequence, and the nodes' energy budgets
start again; the oldest mark of a partition becomes a record announced on vector 0 of its function; a checkpoint holds the
counters, the record sequence, the epoch and its time, and the state of the region nodes (that, the model's reading, log 64); after the
final one no request is served. -/
def Obligations.EnergyAccounting : Prop :=
  (∀ (l : List DomainReading) (s : State), ∃ t, exec (.energyPeriod l) s = .next t ∧
    t.energyTotal = s.energyTotal + ((l.map (·.measured)).sum : Nat) ∧
    (∀ d, (t.die d).time = (s.die d).time + 1000) ∧ t.pkg.fabricTime = s.pkg.fabricTime + 1000 ∧ t.mem = s.mem) ∧
  (∀ (a : Addr) (s : State), ∃ t, exec (.coreTimeWindowEnd a) s = .next t ∧ (t.pkg.region a).core = 0 ∧
    (t.pkg.region a).energy = (s.pkg.region a).energy ∧ ∀ b, b ≠ a → t.pkg.region b = s.pkg.region b) ∧
  (∀ s : State, ∃ t l, exec .accountingWindowEnd s = .next t ∧ t.pkg.records = s.pkg.records ++ l ∧
    l.map (·.part) = allParts.filter (fun p => (s.part p).made) ∧
    (∀ r ∈ l, r.epoch = s.pkg.epoch ∧ r.markNo = 0 ∧ r.t1 = (s.die 0).time ∧ r.path = [(s.part r.part).root] ∧
      ∀ i : Fin 12, r.counters[i.val] = (s.part r.part).counters.read i.val) ∧
    (∀ (i : Nat) (r : Record), l[i]? = some r → r.seq = s.pkg.seq + BitVec.ofNat 64 i) ∧
    t.pkg.seq = s.pkg.seq + BitVec.ofNat 64 l.length ∧
    (∀ g ∈ t.pkg.regions, g.energy = 0 ∧ g.told = false) ∧ t.parts = s.parts ∧ t.mem = s.mem) ∧
  (∀ (p : PartId) (m : Mark) (r : List Mark) (s : State), (s.part p).marks = m :: r →
    ∃ t e, exec (.markRecord p) s = .next t ∧ (t.part p).marks = r ∧ t.pkg.records = s.pkg.records ++ [e] ∧ e.part = p ∧
      e.markNo = m.number ∧ e.t1 = m.time ∧ e.seq = s.pkg.seq ∧ t.pkg.seq = s.pkg.seq + 1 ∧ e.path = m.path.map (·.1) ∧
      t.pkg.msix = s.pkg.msix ++ [(.vf m.vf, 0)] ∧ (t.part p).counters = (s.part p).counters) ∧
  (∀ (p : PartId) (s : State), (s.part p).marks = [] → exec (.markRecord p) s = .next s) ∧
  (∀ s : State, ∃ t f, exec .checkpoint s = .next t ∧ t = (s.modPkg fun k => { k with flash := f :: k.flash }) ∧
    f.counters = s.parts.map (·.counters) ∧ f.house = s.pkg.house ∧ f.regions = s.pkg.regions ∧ f.seq = s.pkg.seq ∧
    f.epoch = s.pkg.epoch ∧ f.time = (s.die 0).time ∧ f.final = false) ∧
  (∀ s : State, ∃ t f, exec .moduleInputFailure s = .next t ∧ t.pkg.flash = f :: s.pkg.flash ∧ f.counters = s.parts.map (·.counters) ∧
    f.seq = s.pkg.seq ∧ f.epoch = s.pkg.epoch ∧ f.final = true ∧ t.pkg.running = false ∧ t.parts = s.parts) ∧
  (∀ (rq : Req) (p : BitVec 8) (s : State), s.pkg.running = false → exec (.partCreate rq p) s = .next s)

/-! ## Queues and packets (R331-R339, R345, R346, R385) -/

/-- R331, R332, R334, R336, R346, R419: a doorbell count, written at the offset of the queue's doorbell in BAR0, between RDIDX and RDIDX plus
the ring's entries is taken, any other stops the queue with 0x02, and an index that no queue has is ignored; a control block is adopted when it is closed and valid; with no slot in use the ready queue of strictly highest
priority is mapped; a fetch takes an entry whose PSEQ is its index, and ends fetching ahead at another. (That a block which restarts its
queue clears ERR and owes the read-index word again, and that a misaligned RBASE makes it invalid, are the model's reading, log 57.) -/
def Obligations.QueueResults : Prop :=
  (∀ (fn : Func) (d : DieId) (n : BitVec 12) (a r : Nat) (count : Word) (s : State) (q : Queue) (c : Qcb), s.Quiet → s.BellAt fn d n a r →
    s.bellOf fn d n = some q → q.copy = some c →
    (q.rd ≤ count.toNat → count.toNat ≤ q.rd + 2 ^ (c.rsize.toNat + 4) →
      exec (.doorbell fn (bellPage a) (bellOff a) count) s = .next (s.modQueue d n fun q => { q with count := count, ended := false })) ∧
    (count.toNat < q.rd ∨ q.rd + 2 ^ (c.rsize.toNat + 4) < count.toNat →
      ∃ t q', exec (.doorbell fn (bellPage a) (bellOff a) count) s = .next t ∧ t.queue? d n = some q' ∧ q'.err = 0x02 ∧ q'.slot = none ∧
        q'.count = q.count)) ∧
  (∀ (d : DieId) (n : BitVec 12) (a r : Nat) (count : Word) (s : State), s.BellAt .pf d n a r → s.bellOf .pf d n = none →
    exec (.doorbell .pf (bellPage a) (bellOff a) count) s = .next s ∧ exec (.reloadDoorbell .pf (bellPage r) (bellOff r)) s = .next s) ∧
  (∀ (v : VfId) (k : Nat) (count : Word) (s : State), k < 1024 →
    (∀ d n q, s.bellOf (.vf v) d n = some q → q.bell ≠ some (BitVec.ofNat 10 k)) →
    exec (.doorbell (.vf v) (bellPage (8 * k)) (bellOff (8 * k)) count) s = .next s ∧
    exec (.reloadDoorbell (.vf v) (bellPage (0x2000 + 8 * k)) (bellOff (0x2000 + 8 * k))) s = .next s) ∧
  (∀ (fn : Func) (d : DieId) (n : BitVec 12) (a r : Nat) (s : State) (q : Queue), s.BellAt fn d n a r → s.bellOf fn d n = some q →
    ∃ t, exec (.reloadDoorbell fn (bellPage r) (bellOff r)) s = .next t ∧ s.Adopted t d n q) ∧
  (∀ (d : DieId) (n : BitVec 12) (s : State) (q : Queue), s.queue? d n = some q → q.v = true → q.reread = true →
    ∃ t, exec (.qcbReread d n) s = .next t ∧ s.Adopted t d n q) ∧
  (∀ (d : DieId) (s : State) (q : Queue), ((s.die d).queues.map (·.num)).Nodup → q ∈ (s.die d).queues → s.queueReady q = true →
    (∀ r ∈ (s.die d).queues, r.slot = none ∧ r.owed = false) →
    (∀ r ∈ (s.die d).queues, s.queueReady r = true → r ≠ q → s.queuePrio r < s.queuePrio q) →
    ∃ t q', exec (.queueMap d) s = .next t ∧ t.queue? d q.num = some q' ∧ q'.slot = some (0, (s.die d).mappings) ∧
      q'.fetched = [] ∧ q'.rd = q.rd ∧ (t.die d).lastMapped = q.num ∧ (t.die d).mappings = (s.die d).mappings + 1 ∧
      ∀ r ∈ (s.die d).queues, r ≠ q → r ∈ (t.die d).queues) ∧
  (∀ (d : DieId) (n : BitVec 12) (s : State) (q : Queue) (c : Qcb) (pa : Nat) (m : Store), s.queue? d n = some q → q.copy = some c →
    q.slot.isSome = true → s.queueReady q = true → q.fetched = [] → q.ended = false → q.count.toNat = q.rd + 1 →
    s.translate (s.queueRoot c) (c.entryAddr q.rd) needRd = .ok pa m →
    ∃ t q', exec (.packetFetch d n) s = .next t ∧ t.mem = m ∧ t.queue? d n = some q' ∧ q'.rd = q.rd ∧
      (if m.read pa 64 / 2 ^ 32 % 2 ^ 32 = q.rd % 2 ^ 32 then q'.fetched = [⟨q.rd, BitVec.ofNat 512 (m.read pa 64)⟩]
       else q'.fetched = [] ∧ q'.ended = true))

/-- R334, R337, R345, R346, R385: a NOP passes its entry and completes; a WAIT completes when its word has reached its value and
otherwise takes an entry of the wait table; a SIGNAL sets its word or adds to it and writes nothing else; a COPY of four bytes
leaves the source's bytes at the destination with the F bit of its mode; a MARK captures the counters; a word that must be zero
and is not stops the queue with 0x01. -/
def Obligations.PacketResults : Prop :=
  (∀ (d : DieId) (n : BitVec 12) (s : State) (q : Queue) (c : Qcb) (e : RingEntry) (r : List RingEntry) (m mr : Store) (pr : Nat),
    s.PacketAt d n 0 q c e r m mr pr →
    (e.bits.toNat / 2 ^ 64 = 0 → ∃ t, exec (.nop d n) s = .next t ∧ t.Passed d n q 1 pr ∧ t.pkg.msix = s.pkg.msix ++ irqOf c e) ∧
    (e.bits.toNat / 2 ^ 64 ≠ 0 → ∃ t, exec (.nop d n) s = .next t ∧ t.Stopped d n q 0x01)) ∧
  (∀ (d : DieId) (n : BitVec 12) (s : State) (q : Queue) (c : Qcb) (e : RingEntry) (r : List RingEntry) (m mr m2 : Store) (pr pa : Nat),
    s.PacketAt d n 2 q c e r m mr pr → q.resend = false → e.bits.toNat / 2 ^ 192 = 0 → (entryWord e.bits 1).toNat % 8 = 0 →
    (State.marked s m).translate ((State.marked s m).queueRoot c) (entryWord e.bits 1) needRd = .ok pa m2 →
    m2.poisoned pa = false → s.hbm.badPoison pa 8 = false →
    ((entryWord e.bits 2).toNat ≤ m2.read pa 8 →
      ∀ m3, (State.marked s m2).translate ((State.marked s m2).queueRoot c) (word57 c.rdaddr) needWr = .ok pr m3 →
      ∃ t, exec (.wait d n) s = .next t ∧ t.Passed d n q 1 pr ∧ t.pkg.msix = s.pkg.msix ++ irqOf c e) ∧
    (¬(entryWord e.bits 2).toNat ≤ m2.read pa 8 → s.tableRoom (dieOfPa pa) (((State.marked s m2).queuePart c).getD 0) = true →
      (∀ w ∈ (s.die (dieOfPa pa)).qwaits, ¬(w.die = d ∧ w.queue = n)) →
      ∃ t w, exec (.wait d n) s = .next t ∧ (t.die (dieOfPa pa)).qwaits = (s.die (dieOfPa pa)).qwaits ++ [w] ∧ w.die = d ∧ w.queue = n ∧
        w.pa = pa ∧ w.value = entryWord e.bits 2 ∧ ∃ q', t.queue? d n = some q' ∧ q'.rd = q.rd)) ∧
  (∀ (d : DieId) (n : BitVec 12) (s : State) (q : Queue), s.queue? d n = some q →
    (q.resend = false → exec (.waitResend d n) s = .next s) ∧
    (q.resend = true → ∃ t, exec (.waitResend d n) s = .next t ∧
      exec (.wait d n) (s.modQueue d n fun q => { q with resend := false }) = .next t)) ∧
  (∀ (d : DieId) (n : BitVec 12) (s s2 : State) (q : Queue) (c : Qcb) (e : RingEntry) (r : List RingEntry) (m mr m2 : Store)
    (pr pa : Nat), s.PacketAt d n 3 q c e r m mr pr → e.bits.toNat / 2 ^ 256 = 0 → (entryWord e.bits 3).toNat ≤ 1 →
    (entryWord e.bits 1).toNat % 8 = 0 →
    s2 = ((State.marked s m).modQueue d n fun k => { k with started := k.started ++ [⟨q.rd, headerIrq (entryWord e.bits 0), none, some (e.bits, 0)⟩] }).passed d n 1 →
    s2.translate (s2.queueRoot c) (entryWord e.bits 1) (if entryWord e.bits 3 = 1 then needRmw else needFill) = .ok pa m2 →
    (entryWord e.bits 3 = 1 → m2.poisoned pa = false ∧ s2.hbm.badPoison pa 8 = false) →
    ∃ t, exec (.signal d n) s = .next t ∧
      t.mem.read pa 8 = ((if entryWord e.bits 3 = 1 then m2.read pa 8 else 0) + (entryWord e.bits 2).toNat) % 2 ^ 64 ∧
      (∀ a, (a < pa ∨ pa + 8 ≤ a) → t.mem.byte a = (dirtied m2 (s2.queueRoot c) (entryWord e.bits 1).toNat).byte a) ∧
      (∀ a, t.mem.fbit a = m2.fbit a) ∧
      (∃ q', t.queue? d n = some q' ∧ q'.rd = q.rd + 1 ∧ q'.started = []) ∧ t.pkg.msix = s.pkg.msix ++ irqOf c e) ∧
  (∀ (d : DieId) (n : BitVec 12) (s s2 : State) (q : Queue) (c : Qcb) (e : RingEntry) (r : List RingEntry) (m mr m2 m3 m4 : Store)
    (pr pf pt : Nat), s.PacketAt d n 4 q c e r m mr pr → e.bits.toNat / 2 ^ 320 = 0 → (entryWord e.bits 4).toNat ≤ 3 →
    (entryWord e.bits 1).toNat % 4 = 0 → (entryWord e.bits 2).toNat % 4 = 0 → (entryWord e.bits 3).toNat = 4 →
    s2 = ((State.marked s m).modQueue d n fun k => { k with started := k.started ++ [⟨q.rd, headerIrq (entryWord e.bits 0), none, some (e.bits, 0)⟩] }).passed d n 1 →
    s2.translate (s2.queueRoot c) (entryWord e.bits 2) needRd = .ok pf m2 →
    (State.marked s2 m2).translate ((State.marked s2 m2).queueRoot c) (entryWord e.bits 1) needFill = .ok pt m3 →
    (State.marked s2 m2).queueRoot c = s2.queueRoot c → m4 = dirtied m3 (s2.queueRoot c) (entryWord e.bits 1).toNat →
    (∀ m, m = m3 ∨ m = m4 → (State.marked s2 m).paOf (s2.queueRoot c) (entryWord e.bits 2).toNat = pf ∧
      (State.marked s2 m).paOf (s2.queueRoot c) (entryWord e.bits 1).toNat = pt) →
    s2.unreadable (decide (entryWord e.bits 4 = 1)) pf = false → s2.unreadable (decide (entryWord e.bits 4 ≠ 0)) pt = false →
    ∃ t, exec (.copy d n) s = .next t ∧ t.mem.read pt 4 = m4.read pf 4 ∧
      (∀ a, (a < pt ∨ pt + 4 ≤ a) → t.mem.byte a = m4.byte a) ∧
      t.mem.fbit pt = (match (entryWord e.bits 4).toNat with
        | 0 => m4.fbit pt
        | 1 => m4.fbit pf
        | 2 => true
        | _ => false) ∧
      (∃ q', t.queue? d n = some q' ∧ q'.rd = q.rd + 1 ∧ q'.started = []) ∧ t.pkg.msix = s.pkg.msix ++ irqOf c e) ∧
  (∀ (d : DieId) (n : BitVec 12) (s : State) (q : Queue) (c : Qcb) (e : RingEntry) (r : List RingEntry) (m mr : Store) (pr : Nat) (p : PartId),
    s.PacketAt d n 5 q c e r m mr pr → e.bits.toNat / 2 ^ 128 = 0 → (entryWord e.bits 1).toNat < 2 ^ 32 →
    (State.marked s m).queuePart c = some p → (s.part p).marks.length < 256 →
    ∃ t k, exec (.mark d n) s = .next t ∧ t.Passed d n q 1 pr ∧ (t.part p).marks = (s.part p).marks ++ [k] ∧
      k.number.toNat = (entryWord e.bits 1).toNat ∧ k.time = (s.die d).time ∧ k.vf = c.vf ∧ k.counters = (s.part p).counters ∧
      t.pkg.msix = s.pkg.msix ++ irqOf c e)

/-- R337, R338, R339, R346, R391: a LAUNCH that passes its checks is numbered and waits to be placed with as many tasks as it says, its
queue placing nothing else; one that fails a check stops the queue with that check's code; a launch whose tasks have all ended
completes, and one with a task left does not; a message that no entry matches is left to the service or the host; one whose
entry's queue has room and whose record and pages are there becomes two entries at the queue's count; one that does not is
declined. (That an unmatched message goes to the host when some partition has INGRESS, and that MAXLEN counts the Sorrel header, are the
model's reading, log 65.) -/
def Obligations.LaunchAndMessageResults : Prop :=
  (∀ (d : DieId) (n : BitVec 12) (s : State) (q : Queue) (c : Qcb) (e f : RingEntry) (r : List RingEntry) (m mr : Store) (pr : Nat)
    (o : ObjSlot) (p : PartId), s.PacketAt d n 1 q c e (f :: r) m mr pr →
    (State.marked s m).launchCheck d ⟨q, c, q.rd, e.bits, f.bits⟩ = .ok o → (State.marked s m).queuePart c = some p →
    (State.marked s m).energySpent (addr57 (entryWord e.bits 2)) = false → (State.marked s m).coreSpent (addr57 (entryWord e.bits 2)) = false →
    (∀ l ∈ s.pkg.launches, l.id < s.pkg.nextLaunch) →
    ∃ t l, exec (.launch d n) s = .next t ∧ t.pkg.launches = s.pkg.launches ++ [l] ∧ t.pkg.nextLaunch = s.pkg.nextLaunch + 1 ∧
      l.id = s.pkg.nextLaunch ∧ l.open_ = true ∧ l.live = (entryWord e.bits 1).toNat / 2 ^ 8 % 2 ^ 16 + 1 ∧
      l.todo = List.range ((entryWord e.bits 1).toNat / 2 ^ 8 % 2 ^ 16 + 1) ∧ l.slot.toNat = (entryWord e.bits 1).toNat % 2 ^ 8 ∧
      l.gang.toNat = (entryWord e.bits 1).toNat / 2 ^ 24 % 4 ∧ l.rcb.toNat = (entryWord e.bits 2).toNat ∧
      l.scratch.toNat = (entryWord e.bits 3).toNat ∧ l.pmap.toNat = (entryWord e.bits 4).toNat ∧ l.part = p ∧ l.vf = c.vf ∧
      l.lser = q.lser ∧ (∀ i : Fin 8, l.args[i.val] = entryWord f.bits i.val) ∧
      ∃ q', t.queue? d n = some q' ∧ q'.opening = some s.pkg.nextLaunch ∧ q'.rd = q.rd ∧ q'.lser = q.lser + 1) ∧
  (∀ (d : DieId) (n : BitVec 12) (s : State) (q : Queue) (c : Qcb) (e f : RingEntry) (r : List RingEntry) (m mr : Store) (pr : Nat)
    (code : BitVec 8), s.PacketAt d n 1 q c e (f :: r) m mr pr →
    (State.marked s m).launchCheck d ⟨q, c, q.rd, e.bits, f.bits⟩ = .error code →
    ∃ t, exec (.launch d n) s = .next t ∧ t.Stopped d n q code ∧ t.pkg.launches = s.pkg.launches) ∧
  (∀ (d : DieId) (n : BitVec 12) (i : Nat) (s : State) (q : Queue) (c : Qcb) (e : Started) (id : Nat), s.queue? d n = some q →
    q.copy = some c → q.started.find? (·.index == i) = some e → e.launch = some id →
    ((∃ l ∈ s.pkg.launches, l.id = id ∧ l.live ≠ 0) → exec (.packetComplete d n i) s = .next s) ∧
    ((∀ l ∈ s.pkg.launches, l.id = id → l.live = 0) →
      ∃ t q', exec (.packetComplete d n i) s = .next t ∧ t.queue? d n = some q' ∧ q'.started = q.started.filter (·.index != i) ∧
        t.pkg.launches = s.pkg.launches.filter (·.id != id) ∧
        t.pkg.msix = s.pkg.msix ++ (if e.irq = true then [(.vf c.vf, c.vec)] else []))) ∧
  (∀ (port : BitVec 3) (src : BitVec 32) (b : List Byte) (s : State),
    s.pkg.services.find? (fun e => e.v && e.svc.toNat == listWord b 0 4 && e.ports.getLsbD port.toNat && 16 ≤ b.length) = none →
    exec (.sendMessage port src b) s = .next (s.logIt (.unmatched port (s.parts.any fun p => p.made && p.split.getLsbD 2)))) ∧
  (∀ (port : BitVec 3) (src : BitVec 32) (b : List Byte) (s s1 s2 : State) (e : Service) (q : Queue) (c : Qcb) (p : PartId) (buf scr : Nat),
    s.Quiet → s.pkg.services.find? (fun e => e.v && e.svc.toNat == listWord b 0 4 && e.ports.getLsbD port.toNat && 16 ≤ b.length) = some e →
    s.serviceQueue e = some q → q.v = true → q.copy = some c → s.queuePart c = some p → (s.part p).split.getLsbD 2 = false →
    b.length ≤ e.maxlen.toNat → q.rd ≤ q.count.toNat → q.count.toNat + 2 ≤ q.rd + 2 ^ (c.rsize.toNat + 4) → q.count.toNat + 2 < 2 ^ 64 →
    s.bufRecord (s.queueRoot c) e = some (s1, buf, scr) →
    s1.mayAccess (s.queueRoot c) needWr (pagesOf (BitVec.ofNat 64 buf) (b.drop 16).length ++ [c.entryAddr q.count.toNat,
      c.entryAddr (q.count.toNat + 1)]) = some s2 →
    ∃ t q', exec (.sendMessage port src b) s = .next t ∧ t.pkg.arrivals = s.pkg.arrivals + 1 ∧ t.queue? e.home e.queue = some q' ∧
      q'.count.toNat = q.count.toNat + 2 ∧ q'.rd = q.rd ∧ t.cores = s.cores) ∧
  (∀ (port : BitVec 3) (src : BitVec 32) (b : List Byte) (s : State) (e : Service) (q : Queue) (c : Qcb) (p : PartId),
    s.pkg.services.find? (fun e => e.v && e.svc.toNat == listWord b 0 4 && e.ports.getLsbD port.toNat && 16 ≤ b.length) = some e →
    s.serviceQueue e = some q → q.copy = some c → s.queuePart c = some p → (s.part p).split.getLsbD 2 = false →
    e.maxlen.toNat < b.length ∨ q.rd + 2 ^ (c.rsize.toNat + 4) < q.count.toNat + 2 ∨ s.bufRecord (s.queueRoot c) e = none →
    exec (.sendMessage port src b) s = .next (s.logIt (.declined port)))

/-! ## Tasks, domains, ticks and messages (R91, R116, R340-R355, R371, R391, R416) -/

/-- R91, R116, R340, R343: a launch's next task goes into a free context, every strand at the object's entry with the arguments in
g1 to g8; a task whose four strands have ended frees its context, its launch having one task less, and the accumulation state
stays in the cells. (When the copying of a created task's segments ends, and that an ended task's segments are dropped, are the model's
reading, log 53.) -/
def Obligations.TaskPlacementAndEnd : Prop :=
  (∀ (d : DieId) (s : State) (l : Launch) (o : ObjSlot) (t : Nat) (ts : List Nat) (c : CoreId) (x : Ctx), s.Quiet →
    s.copiesReady d = [] → s.waitingLaunches d = [l] → (s.part l.part).slots.find? (·.num == l.slot) = some o → l.gang = 0 → l.todo = t :: ts →
    t ∉ ts → s.openCores l.part d = [c] → s.freeCtx c = some x → s.capMode l.part = 0 →
    ∃ u, exec (.taskPlacement d) s = .next u ∧ (u.ctx c x).busy = true ∧ (u.ctx c x).part = l.part ∧ (u.ctx c x).vf = l.vf ∧
      (u.ctx c x).root = s.effRoot l.rcb ∧ (u.ctx c x).region = l.rcb ∧ (u.ctx c x).launch = l.id ∧
      (u.ctx c x).task.index = BitVec.ofNat 16 t ∧ (u.ctx c x).task.lser = l.lser ∧ (u.ctx c x).task.slot = l.slot ∧
      (u.ctx c x).aepoch = (s.ctx c x).aepoch + 1 ∧
      (u.ctx c x).copying = !(s.createFaults (s.effRoot l.rcb) o ((l.scratch.toNat + t * o.scrsz) / 16 % 2 ^ 53 * 16)).isEmpty ∧
      (∀ p, (u.strand c x p).pc = o.entry ∧ (u.strand c x p).life = .running ∧
        ∀ i : Fin 8, (u.strand c x p).read (BitVec.ofNat 5 (i.val + 1)) = l.args[i.val]) ∧
      (∀ e y, (e, y) ≠ (c, x) → u.ctx e y = s.ctx e y) ∧
      (u.die d).pointer = (c.val % 48 + 1) % 48 ∧
      u.pkg.launches = s.pkg.launches.map fun m => if m.id = l.id then { m with todo := ts } else m) ∧
  (∀ (d : DieId) (s : State), s.copiesReady d = [] → s.waitingLaunches d = [] → exec (.taskPlacement d) s = .next s) ∧
  (∀ (d : DieId) (s : State) (c : CoreId) (x : Ctx), s.copiesReady d = [(c, x)] → s.pkg.launches = [] →
    ∃ u, exec (.taskPlacement d) s = .next u ∧ (u.ctx c x).copying = false ∧ (u.ctx c x).strands = (s.ctx c x).strands ∧
      ∀ e y, (e, y) ≠ (c, x) → u.ctx e y = s.ctx e y) ∧
  (∀ (c : CoreId) (x : Ctx) (s : State), x ≠ .fw → (s.ctx c x).busy = true → (∀ p, (s.strand c x p).life = .ended) →
    ∃ u, exec (.taskEnd c x) s = .next u ∧ (u.ctx c x).busy = false ∧ (u.ctx c x).segs = [] ∧ (u.ctx c x).acc = (s.ctx c x).acc ∧
      (u.ctx c x).aepoch = (s.ctx c x).aepoch ∧
      u.pkg.launches = s.pkg.launches.map fun m => if m.id = (s.ctx c x).launch then { m with live := m.live - 1 } else m) ∧
  (∀ (c : CoreId) (x : Ctx) (p : Strand) (s : State), (s.strand c x p).life ≠ .ended → exec (.taskEnd c x) s = .next s)

/-- R350, R368, R371: a fault domain that stops ends its tasks and stops its queues with 0x06; with TRIAGE the failing ones are held
instead; a task that the host releases goes on, or is ended as a failure of its domain. (That a queue takes 0x06 whatever error had
stopped it is the model's reading, log 60.) -/
def Obligations.FaultDomainResults : Prop :=
  (∀ (p : PartId) (f : BitVec 16) (s : State), (s.part p).split.getLsbD 3 = true →
    (∃ c x, x ≠ .fw ∧ (s.ctx c x).busy = true ∧ (s.ctx c x).part = p ∧ (s.ctx c x).fdom = f ∧ (s.ctx c x).triage = false ∧
      s.failing c x = true) →
    ∃ u, exec (.faultDomainStop p f) s = .next u ∧ u.mem = s.mem ∧ u.pkg = s.pkg ∧ ∀ c x, (u.ctx c x).busy = (s.ctx c x).busy ∧
      (u.ctx c x).triage = ((s.ctx c x).triage || (x != .fw && (s.ctx c x).busy && (s.ctx c x).part == p && (s.ctx c x).fdom == f &&
        s.failing c x))) ∧
  (∀ (p : PartId) (f : BitVec 16) (s : State), s.Still → (s.part p).split.getLsbD 3 = false → s.pkg.saved = [] →
    (∀ c x, (s.ctx c x).Calm) → (∀ c, (s.core c).fwHalted = false) → (∀ d, (s.die d).queues = []) →
    ∃ u, exec (.faultDomainStop p f) s = .next u ∧ u.mem = s.mem ∧
      (∀ c x, x ≠ .fw → (s.ctx c x).busy = true → (s.ctx c x).part = p → (s.ctx c x).fdom = f → (u.ctx c x).busy = false) ∧
      (∀ c x, x = .fw ∨ (s.ctx c x).part ≠ p ∨ (s.ctx c x).fdom ≠ f → u.ctx c x = s.ctx c x) ∧
      (∀ v, (v, p) ∈ s.pkg.vfs → (Func.vf v, 0) ∈ u.pkg.msix)) ∧
  (∀ (p : PartId) (f : BitVec 16) (s : State) (d : DieId) (q : Queue) (c : Qcb), s.Still → (s.part p).split.getLsbD 3 = false →
    s.pkg.saved = [] → s.tasksOf p (fun _ => true) = [] → (∀ e, e ≠ d → (s.die e).queues = []) → (s.die d).queues = [q] →
    q.copy = some c → s.queuePart c = some p → s.effFdom c.region = f →
    ∃ u, exec (.faultDomainStop p f) s = .next u ∧ u.Stopped d q.num q 0x06) ∧
  (∀ (p : PartId) (k : Word) (s : State) (c : CoreId) (x : Ctx) (r : List (CoreId × Ctx)),
    s.tasksOf p (fun t => t.triage && t.task.word == k) = (c, x) :: r →
    exec (.triageRelease p k false) s = .next (s.modCtx c x fun t => { t with triage := false }) ∧
    (s.Still → s.pkg.saved = [] → (∀ c x, (s.ctx c x).Calm) → (∀ d, (s.die d).queues = []) →
      ∃ u, exec (.triageRelease p k true) s = .next u ∧ (u.ctx c x).busy = false ∧
        (∀ e y, y = .fw ∨ (s.ctx e y).part ≠ p → (s.core e).fwHalted = false → u.ctx e y = s.ctx e y)))

/-- R252, R352, R353, R355, R416: a tick, where fabric time is a multiple of TICK, notes the gangs that it gives cores, and saves a task that is to leave; without lock it is
counted; a die that has not saved in time has missed; at their limit the epilogues of a tick end in hard stops; the timeout
of ctx.sv.epi ends it as one, with an answer of 1. -/
def Obligations.TickResults : Prop :=
  (∀ (p : PartId) (s : State), s.tickDue p = false → exec (.gangTick p) s = .next s) ∧
  (∀ (p : PartId) (s : State), s.tickDue p = true → s.Still → s.pkg.saved = [] →
    s.tasksOf p (fun k => !((s.chosen p).map (·.id)).contains k.gangId) = [] →
    ∃ u, exec (.gangTick p) s = .next u ∧ u.cores = s.cores ∧ (u.part p).tick = (s.die 0).time ∧
      (u.part p).ran = (s.part p).ran.filter (fun n => !((s.chosen p).map (·.id)).contains n) ++ (s.chosen p).map (·.id) ∧
      u.pkg.freeTicks = s.pkg.freeTicks + (if s.pkg.locked = true then 0 else 1)) ∧
  (∀ (p : PartId) (s : State) (c : CoreId) (x : Ctx), s.tickDue p = true → s.Still → s.pkg.saved = [] → s.pkg.incoming = [] →
    s.tasksOf p (fun k => !((s.chosen p).map (·.id)).contains k.gangId) = [(c, x)] → (s.ctx c x).Calm →
    (s.ctx c x).activeLevels = [] →
    ∃ u g, exec (.gangTick p) s = .next u ∧ (u.ctx c x).busy = false ∧ u.pkg.saved = [g] ∧ g.core = c ∧ g.sctx = x ∧ g.epi = false ∧
      g.k.task = (s.ctx c x).task ∧ g.k.acc = (s.ctx c x).acc ∧ ∀ q, (g.k.strand q).g = (s.strand c x q).g ∧ (g.k.strand q).pc = (s.strand c x q).pc) ∧
  (∀ (d : DieId) (s : State), ∃ u, exec (.tickMiss d) s = .next u ∧ u.cores = s.cores ∧ u.mem = s.mem ∧
    ∀ p, (u.part p).misses = (s.part p).misses + (if s.unsaved p d = true ∧ 250000 ≤ s.sinceTick p ∧ s.missed p d = false then 1 else 0)) ∧
  (∀ (s : State) (c : CoreId) (sv : Save), (∀ e, (s.core e).later = none ∧ (e ≠ c → (s.core e).save = none)) →
    (s.core c).save = some sv → sv.service = true → sv.move = none → s.pkg.incoming = [] → (s.ctx c sv.ctx).busy = true →
    300000 ≤ s.sinceTick (s.ctx c sv.ctx).part → sv.ctx ≠ .fw → (s.ctx c sv.ctx).Calm →
    ∃ u g, exec .epilogueLimit s = .next u ∧ (u.core c).save = none ∧ (u.ctx c sv.ctx).busy = false ∧ u.pkg.saved = s.pkg.saved ++ [g] ∧
      g.epi = false ∧ g.k.task = (s.ctx c sv.ctx).task) ∧
  (∀ s : State, (∀ c sv, (s.core c).save = some sv → sv.service = false ∨ sv.move.isSome = true ∨
    s.sinceTick (s.ctx c sv.ctx).part < 300000) → exec .epilogueLimit s = .next s) ∧
  (∀ (s : State) (c : CoreId) (sv : Save), s.Canonical → (∀ d, (s.die d).waiters = [] ∧ (s.die d).parked = []) →
    (∀ e, (s.core e).waitList = []) → (s.core c).save = some sv → (s.core c).later = none → sv.service = false → sv.move = none →
    sv.ctx ≠ .fw → (s.ctx c sv.ctx).busy = true → (s.ctx c sv.ctx).Calm →
    ∃ u g, exec (.epilogueTimeout c) s = .next u ∧ (u.core c).save = none ∧ (u.ctx c sv.ctx).busy = false ∧ g ∈ u.pkg.images ∧
      g.pa = sv.pa ∧ g.epi = false ∧ g.k.task = (s.ctx c sv.ctx).task ∧ (u.mem.byte sv.pa).getLsbD 0 = true ∧
      (u.mem.byte sv.pa).getLsbD 1 = false ∧
      ∀ e ∈ (s.strand c .fw .K).pend, e.d = sv.d → e.val = none → ∃ e' ∈ (u.strand c .fw .K).pend, e'.d = sv.d ∧ e'.val = some 1) ∧
  (∀ (c : CoreId) (s : State), (s.core c).save = none → ∃ u, exec (.epilogueTimeout c) s = .next u ∧ u.core c = s.core c ∧ u.mem = s.mem)

/-! ## Context words of firmware (R355-R357) -/

/-- R355, R356, R357: ctx.sv answers 2 for an empty context and 3 for an area that is not one, and otherwise stops the context, writes its
image and answers 1; with an epilogue time it waits for a clamped context's epilogue; ctx.ld answers 1, 3, 4 or 5 where it loads
nothing, and otherwise puts the image's task into the context, held or not, and answers 0; ctx.ld.go lets a held context go. (That of the
128 KiB area only the first 64 bytes are written is the model's reading, log 22.) -/
def Obligations.ContextWordResults : Prop :=
  (∀ (w : SY) (s : State), s.Ready (.wide (.ctxSv w)) [w.a, w.b] [w.d] → s.CanPop w.pre.tok → s.myCore.save = none →
    ((s.ctx s.cur.core (ctxNumber w)).busy = false → ∃ t, exec (.ctxSv w) s = .next t ∧ t.Answers w.d 2 ∧ t.mem = s.mem) ∧
    ((s.ctx s.cur.core (ctxNumber w)).busy = true → s.imageArea (s.rd w.a) = none →
      ∃ t, exec (.ctxSv w) s = .next t ∧ t.Answers w.d 3 ∧ t.mem = s.mem) ∧
    (∀ pa, (s.ctx s.cur.core (ctxNumber w)).busy = true → s.imageArea (s.rd w.a) = some pa → s.Still → s.cur.ctx = .fw → s.cur.strand = .K →
      (s.ctx s.cur.core (ctxNumber w)).Calm →
      ∃ t g, exec (.ctxSv w) s = .next t ∧ t.Answers w.d 1 ∧ (t.ctx s.cur.core (ctxNumber w)).busy = false ∧
        t.pkg.images = g :: s.pkg.images.filter (fun i => i.pa != pa) ∧ g.pa = pa ∧ g.epi = false ∧ g.core = s.cur.core ∧
        g.sctx = ctxNumber w ∧ g.k.task = (s.ctx s.cur.core (ctxNumber w)).task ∧
        (∀ q, (g.k.strand q).g = (s.strand s.cur.core (ctxNumber w) q).g ∧ (g.k.strand q).pc = (s.strand s.cur.core (ctxNumber w) q).pc) ∧
        (∀ a, a < pa ∨ pa + 64 ≤ a → t.mem.byte a = s.mem.byte a) ∧ (t.mem.byte pa).getLsbD 0 = true)) ∧
  (∀ (w : SY) (s : State), s.Ready (.wide (.ctxSvEpi w)) [w.a, w.b] [w.d] → s.CanPop w.pre.tok → s.myCore.save = none →
    ((s.ctx s.cur.core (ctxNumber w)).busy = false → ∃ t, exec (.ctxSvEpi w) s = .next t ∧ t.Answers w.d 2 ∧ t.mem = s.mem) ∧
    (∀ pa, (s.ctx s.cur.core (ctxNumber w)).busy = true → s.imageArea (s.rd w.a) = some pa →
      (s.ctx s.cur.core (ctxNumber w)).clamp.isSome = true → (s.ctx s.cur.core (ctxNumber w)).epilogueDone = false →
      (s.rd w.b).toNat % 2 ^ 32 ≠ 0 →
      ∃ t, exec (.ctxSvEpi w) s = .next t ∧ (t.ctx s.cur.core (ctxNumber w)).busy = true ∧
        (t.core s.cur.core).save = some ⟨ctxNumber w, pa, (s.rd w.b).toNat % 2 ^ 32, false, none, w.d⟩ ∧
        (t.core s.cur.core).named = ctxNumber w ∧ t.mem = s.mem)) ∧
  (∀ (w : SY) (s : State), s.Ready (.wide (.ctxSv w)) [w.a, w.b] [w.d] → s.myCore.save.isSome = true →
    ∃ t, exec (.ctxSv w) s = .next t ∧ t.me.life = .waiting .interlock ∧ t.mem = s.mem) ∧
  (∀ (w : SY) (s : State), s.Ready (.wide (.ctxLd w)) [w.a] [w.d] → s.CanPop w.pre.tok →
    ((s.ctx s.cur.core (ctxNumber w)).busy = true → ∃ t, exec (.ctxLd w) s = .next t ∧ t.Answers w.d 1 ∧ t.mem = s.mem) ∧
    ((s.ctx s.cur.core (ctxNumber w)).busy = false → s.imageArea (s.rd w.a) = none → ∃ t, exec (.ctxLd w) s = .next t ∧ t.Answers w.d 3 ∧ t.mem = s.mem) ∧
    (∀ pa, (s.ctx s.cur.core (ctxNumber w)).busy = false → s.imageArea (s.rd w.a) = some pa →
      (s.imageAt pa = none → ∃ t, exec (.ctxLd w) s = .next t ∧ t.Answers w.d 4 ∧ t.mem = s.mem) ∧
      (∀ g, s.imageAt pa = some g →
        (g.epi = false → s.inPlace s.cur.core (ctxNumber w) g = false → s.loadWaits w = false →
          ∃ t, exec (.ctxLd w) s = .next t ∧ t.Answers w.d 5 ∧ t.mem = s.mem) ∧
        (g.epi = true ∨ s.inPlace s.cur.core (ctxNumber w) g = true → g.core = s.cur.core → ctxNumber w ≠ s.cur.ctx →
          ∃ t, exec (.ctxLd w) s = .next t ∧ t.Answers w.d 0 ∧
            (let k := t.ctx s.cur.core (ctxNumber w)
             k.busy = g.k.busy ∧ k.task = g.k.task ∧ k.part = g.k.part ∧ k.root = g.k.root ∧ k.held = false ∧ k.unrestored = 0 ∧
              k.acc = (s.ctx s.cur.core (ctxNumber w)).acc ∧ k.segs = g.k.segs ∧ (∀ q, (k.strand q).g = (g.k.strand q).g)) ∧ t.mem = s.mem)))) ∧
  (∀ (w : SY) (s : State) (pa : Nat) (g : Image), s.Ready (.wide (.ctxLdHold w)) [w.a] [w.d] → s.CanPop w.pre.tok →
    (s.ctx s.cur.core (ctxNumber w)).busy = false → s.imageArea (s.rd w.a) = some pa → s.imageAt pa = some g → g.core = s.cur.core →
    ctxNumber w ≠ s.cur.ctx →
    ∃ t, exec (.ctxLdHold w) s = .next t ∧ t.Answers w.d 0 ∧ (t.ctx s.cur.core (ctxNumber w)).held = true ∧
      (t.ctx s.cur.core (ctxNumber w)).task = g.k.task ∧
      (t.ctx s.cur.core (ctxNumber w)).unrestored = (if g.epi = true ∨ s.inPlace s.cur.core (ctxNumber w) g = true then 0 else 0xF)) ∧
  (∀ (w : SY) (s : State), s.Ready (.wide (.ctxLdGo w)) [] [w.d] → s.CanPop w.pre.tok → ctxNumber w ≠ s.cur.ctx →
    ((s.ctx s.cur.core (ctxNumber w)).held = true → ∃ t, exec (.ctxLdGo w) s = .next t ∧ t.Answers w.d 0 ∧
      (let k := s.ctx s.cur.core (ctxNumber w)
       let k' := t.ctx s.cur.core (ctxNumber w)
       k'.held = false ∧ k'.unrestored = 0 ∧ (k'.acc.K.ue = (k.acc.K.ue || k.unrestored.getLsbD 0)) ∧
        (k'.acc.L.ue = (k.acc.L.ue || k.unrestored.getLsbD 1)) ∧ (k'.acc.X.ue = (k.acc.X.ue || k.unrestored.getLsbD 2)) ∧
        (k'.acc.S.ue = (k.acc.S.ue || k.unrestored.getLsbD 3)) ∧ k'.strands = k.strands)) ∧
    ((s.ctx s.cur.core (ctxNumber w)).held = false → ∃ t, exec (.ctxLdGo w) s = .next t ∧ t.Answers w.d 1 ∧
      (t.ctx s.cur.core (ctxNumber w)).held = false))

/-! ## The mailbox (R287, R348, R358, R359, R363-R365, R371-R374) -/

/-- R363, R364, R365, R372, R373, R348: a mailbox takes no request whose number is the last answered; a virtual function is refused
what is the physical function's alone; partitions are created empty with their counters going on, and destroyed with no
resource left; a core goes from the house to a partition; functions are bound; control words are written and read; a region
control block that meets its rules, at an address in the house area of its tree's partition, is written whole; while a request is served no
other is taken. (That a header whose OP is not the event's is answered as malformed is the model's choice, log 23, as are the house
areas' places, log 17.) -/
def Obligations.PartitionCommands : Prop :=
  (∀ (rq : Req) (p : BitVec 8) (s : State), (s.mail rq.fn).busy = none → rq.seq = (s.mail rq.fn).rspseq →
    exec (.partCreate rq p) s = .next s ∧ exec (.partDestroy rq p) s = .next s) ∧
  (∀ (rq : Req) (p : BitVec 8) (s : State), rq.again = false → (s.mail rq.fn).busy.isSome = true →
    exec (.partCreate rq p) s = .next s ∧ exec (.partDestroy rq p) s = .next s) ∧
  (∀ (rq : Req) (p : BitVec 8) (s : State), s.pkg.running = true → rq.again = false → (s.mail rq.fn).busy = none → rq.seq ≠ (s.mail rq.fn).rspseq →
    rq.op ≠ 0x0001 ∨ 1968 < rq.len.toNat →
    ∃ t, exec (.partCreate rq p) s = .next t ∧ t.Replied rq rq.op 2 [] ∧ t.parts = s.parts ∧ t.mem = s.mem) ∧
  (∀ (rq : Req) (v : VfId) (p k a : BitVec 8) (i : Word) (l : List Word) (f : VfId) (s : State), s.Takes rq → rq.fn = .vf v →
    (∃ t, exec (.partCreate (command rq 0x0001) p) s = .next t ∧ t.Replied rq 0x0001 3 [] ∧ t.parts = s.parts) ∧
    (∃ t, exec (.partDestroy (command rq 0x0002) p) s = .next t ∧ t.Replied rq 0x0002 3 [] ∧ t.parts = s.parts) ∧
    (∃ t, exec (.partAssign (command rq 0x0003) p k a l) s = .next t ∧ t.Replied rq 0x0003 3 [] ∧ t.parts = s.parts) ∧
    (∃ t, exec (.vfBind (command rq 0x0004) f p) s = .next t ∧ t.Replied rq 0x0004 3 [] ∧ t.pkg.vfs = s.pkg.vfs) ∧
    (∃ t, exec (.ctlWrite (command rq 0x0005) p k i l) s = .next t ∧ t.Replied rq 0x0005 3 [] ∧ t.parts = s.parts)) ∧
  (∀ (rq : Req) (p : BitVec 8) (q : PartId) (s : State), s.Takes rq → rq.fn = .pf → p.toNat = q.toNat →
    ((s.part q).made = false → ∃ t, exec (.partCreate (command rq 0x0001) p) s = .next t ∧ t.Replied rq 0x0001 0 [] ∧ (t.part q).made = true ∧
      (t.part q).counters = (s.part q).counters ∧ (t.part q).root = 0 ∧ (t.part q).slots = [] ∧ ∀ r, r ≠ q → t.part r = s.part r) ∧
    ((s.part q).made = true → ∃ t, exec (.partCreate (command rq 0x0001) p) s = .next t ∧ t.Replied rq 0x0001 1 [] ∧ t.parts = s.parts) ∧
    ((s.part q).made = true → s.partLives q = true → ∃ t, exec (.partDestroy (command rq 0x0002) p) s = .next t ∧ t.Replied rq 0x0002 5 [] ∧ t.parts = s.parts) ∧
    ((s.part q).made = true → s.partLives q = false → ∃ t, exec (.partDestroy (command rq 0x0002) p) s = .next t ∧ t.Replied rq 0x0002 0 [] ∧
      (t.part q).made = false ∧ (t.part q).counters = (s.part q).counters ∧ (∀ c : CoreId, t.pkg.coreOwner[c.val] ≠ some q) ∧
      (∀ r ∈ t.pkg.frames, r.part ≠ q) ∧ (∀ r ∈ t.pkg.runOwner, r.2.2 ≠ q) ∧ ∀ v, t.partOfVf v ≠ some q)) ∧
  (∀ (rq : Req) (p : BitVec 8) (q : PartId) (c : CoreId) (s : State), s.Takes rq → rq.fn = .pf → p.toNat = q.toNat → (s.part q).made = true →
    (s.pkg.coreOwner[c.val] = none → (s.ctx c .t0).busy = false → (s.ctx c .t1).busy = false →
      ∃ t, exec (.partAssign (command rq 0x0003) p 1 1 [BitVec.ofNat 64 c.val]) s = .next t ∧ t.Replied rq 0x0003 0 [1, 0, 0, 0, 0, 0, 0, 0] ∧
        t.pkg.coreOwner = s.pkg.coreOwner.set c.val (some q)) ∧
    (s.pkg.coreOwner[c.val] ≠ none →
      ∃ t, exec (.partAssign (command rq 0x0003) p 1 1 [BitVec.ofNat 64 c.val]) s = .next t ∧ t.Replied rq 0x0003 1 [0, 0, 0, 0, 0, 0, 0, 0] ∧
        t.pkg.coreOwner = s.pkg.coreOwner) ∧
    (s.pkg.coreOwner[c.val] = some q → (s.ctx c .t0).busy = true →
      ∃ t, exec (.partAssign (command rq 0x0003) p 1 2 [BitVec.ofNat 64 c.val]) s = .next t ∧ t.Replied rq 0x0003 5 [0, 0, 0, 0, 0, 0, 0, 0] ∧
        t.pkg.coreOwner = s.pkg.coreOwner)) ∧
  (∀ (rq : Req) (p : BitVec 8) (q : PartId) (v : VfId) (s : State), s.Takes rq → rq.fn = .pf → p.toNat = q.toNat →
    ((s.part q).made = true → s.partOfVf v = none → (s.pkg.vfs.filter (·.2 == q)).length < 16 →
      ∃ t, exec (.vfBind (command rq 0x0004) v p) s = .next t ∧ t.Replied rq 0x0004 0 [] ∧ t.partOfVf v = some q ∧ ∀ w, w ≠ v → t.partOfVf w = s.partOfVf w) ∧
    ((s.partOfVf v).isSome = true → ∃ t, exec (.vfBind (command rq 0x0004) v p) s = .next t ∧ t.Replied rq 0x0004 1 [] ∧ t.pkg.vfs = s.pkg.vfs) ∧
    ((∀ c x, x ≠ .fw → (s.ctx c x).busy = true → (s.ctx c x).vf ≠ v) →
      ∃ t, exec (.vfBind (command rq 0x0004) v 0xFF) s = .next t ∧ t.Replied rq 0x0004 0 [] ∧ t.partOfVf v = none)) ∧
  (∀ (rq : Req) (p : BitVec 8) (q : PartId) (i v : Word) (s : State), s.Takes rq → rq.fn = .pf → p.toNat = q.toNat →
    (∃ t, exec (.ctlWrite (command rq 0x0005) p 3 i [v]) s = .next t ∧ t.Replied rq 0x0005 0 [] ∧ (t.part q).thr = v.extractLsb' 8 8 ∧
      (t.part q).blk = v.extractLsb' 0 4 ∧ (t.part q).counters = (s.part q).counters) ∧
    (∃ t, exec (.ctlWrite (command rq 0x0005) p 6 i [v]) s = .next t ∧ t.Replied rq 0x0005 0 [] ∧ (t.part q).inen = v.getLsbD 0 ∧
      (t.part q).inroot = v.extractLsb' 12 45) ∧
    (∀ c : CoreId, ∃ t, exec (.ctlWrite (command rq 0x0005) p 8 (BitVec.ofNat 64 c.val) [v]) s = .next t ∧ t.Replied rq 0x0005 0 [] ∧
      (t.core c).tar = { (s.core c).tar with allow := v.setWidth 16 }) ∧
    (∃ t, exec (.ctlWrite (command rq 0x0005) p 3 i [v, v]) s = .next t ∧ t.Replied rq 0x0005 2 [] ∧ t.parts = s.parts)) ∧
  (∀ (rq : Req) (p : BitVec 8) (q : PartId) (i : Word) (s : State), s.Takes rq → p.toNat = q.toNat →
    (rq.fn = .pf ∨ s.callerPart rq = some q →
      ∃ t, exec (.ctlRead (command rq 0x0006) p 3 i) s = .next t ∧ t.Replied rq 0x0006 0 (bytesOf 8 ((s.part q).thr.toNat * 256 + (s.part q).blk.toNat)) ∧
        t.parts = s.parts ∧ t.mem = s.mem) ∧
    (rq.fn ≠ .pf → ∃ t, exec (.ctlRead (command rq 0x0006) p 13 i) s = .next t ∧ t.Replied rq 0x0006 3 [])) ∧
  (∀ (rq : Req) (node : Addr) (b : BitVec 2048) (s : State), s.Canonical → s.Quiet → s.Takes rq → rq.fn = .pf → node.toNat % 256 = 0 →
    (Config.houseArea node = s.treeOf node b.toNat → s.nodeOk node b.toNat (s.treeOf node b.toNat) = true →
      ∃ t, exec (.rcbWrite (command rq 0x0007) node b) s = .next t ∧ t.Replied rq 0x0007 0 [] ∧ t.mem.read node.toNat 256 = b.toNat ∧
        (∀ a, a < node.toNat ∨ node.toNat + 256 ≤ a → t.mem.byte a = s.mem.byte a) ∧
        (rcbDepth b.toNat = 0 → rcbValid b.toNat = true → (t.part (s.treeOf node b.toNat)).root = node)) ∧
    (Config.houseArea node ≠ s.treeOf node b.toNat ∨ s.nodeOk node b.toNat (s.treeOf node b.toNat) = false →
      ∃ t, exec (.rcbWrite (command rq 0x0007) node b) s = .next t ∧ t.Replied rq 0x0007 1 [] ∧ t.mem = s.mem ∧ t.parts = s.parts))

/-- R285, R287, R331, R358, R359, R369, R372, R373, R374, R387, R127: page-table entries are written; an invalidation completes when nobody
uses the address space's translations, and till then keeps the mailbox busy; a runlist entry makes a queue with a doorbell index,
or ends it; an object goes into an empty slot and leaves it when nothing uses it; a function's reset, a record on request, the
statistics, and a debugger's commands. (RUNLIST.SET's 8-byte answer, that a slot is LOADING until its pages are placed, and that OBJ.UNLOAD
keeps the mailbox busy till nothing uses the object, are the model's reading, log 61.) -/
def Obligations.ServiceCommands : Prop :=
  (∀ (rq : Req) (a : Addr) (e : Word) (s : State), s.Canonical → s.Quiet → s.Takes rq → rq.fn = .pf → a.toNat % 8 = 0 → s.hbm.faults = [] →
    ∃ t, exec (.ptWrite (command rq 0x0008) a [e]) s = .next t ∧ t.Replied rq 0x0008 0 [] ∧ t.mem.read a.toNat 8 = e.toNat ∧
      ∀ b, b < a.toNat ∨ a.toNat + 8 ≤ b → t.mem.byte b = s.mem.byte b) ∧
  (∀ (rq : Req) (base count : Word) (root : Addr) (all : Bool) (s : State), s.Takes rq → rq.fn = .pf →
    (invRange all base count = none → ∃ t, exec (.tlbInvCommand (command rq 0x0009) root base count all) s = .next t ∧
      t.Replied rq 0x0009 0 [] ∧ t.mem = s.mem ∧ t.cores = s.cores) ∧
    (∀ va size, invRange all base count = some (va, size) → s.holdsPages (fun _ => true) root va size = false →
      ∃ t, exec (.tlbInvCommand (command rq 0x0009) root base count all) s = .next t ∧ t.Replied rq 0x0009 0 [] ∧ t.mem = s.mem ∧
        (∀ (c : CoreId), ∀ e ∈ (t.core c).tlb, e.root = root → ¬(e.va < va + size ∧ va < e.va + e.size)) ∧
        ∀ (d : DieId), ∀ e ∈ (t.die d).inTlb, e.root = root → ¬(e.va < va + size ∧ va < e.va + e.size)) ∧
    (∀ va size, invRange all base count = some (va, size) → s.holdsPages (fun _ => true) root va size = true → ∃ t, exec (.tlbInvCommand (command rq 0x0009) root base count all) s = .next t ∧ (t.mail rq.fn).busy = some rq.seq ∧
      (t.mail rq.fn).rspseq = (s.mail rq.fn).rspseq ∧ t.mem = s.mem)) ∧
  (∀ (rq : Req) (d : DieId) (n : BitVec 12) (a : Addr) (s : State), s.Takes rq → rq.fn = .pf → a.toNat % 64 = 0 →
    (∀ k, s.queue? d n = none → (∀ e, ∀ q ∈ (s.die e).queues, q.qcb ≠ a) → s.freeBell (qcbOf (s.mem.read a.toNat 64)).vf = some k →
      ∃ t q, exec (.runlistSet (command rq 0x000A) d n a true) s = .next t ∧ t.Replied rq 0x000A 0 (bytesOf 8 k.toNat) ∧ t.queue? d n = some q ∧
        q.qcb = a ∧ q.v = true ∧ q.rd = 0 ∧ q.count = 0 ∧ q.bell = some k ∧ q.copy = none) ∧
    (∃ t, exec (.runlistSet (command rq 0x000A) d n a false) s = .next t ∧ t.Replied rq 0x000A 0 (bytesOf 8 0) ∧ t.queue? d n = none)) ∧
  (∀ (rq : Req) (p : BitVec 8) (q : PartId) (n : BitVec 8) (host : Word) (len : Nat) (plan : LoadPlan) (v : Ivo) (o : ObjSlot) (s : State),
    s.pkg.running = true → rq.len.toNat ≤ 1968 → rq.again = true → (s.mail rq.fn).busy = some rq.seq → (s.mail rq.fn).op = 0x000B →
    rq.fn = .pf → p.toNat = q.toNat →
    (s.part q).slots.find? (·.num == n) = some o → o.st = .loading → parseIvo (s.hostBytes host len) = some v →
    (s.part q).split.getLsbD 4 = true → plan.data = [] →
    ∃ t o, exec (.objLoad (command rq 0x000B) p n ⟨host, len⟩ plan) s = .next t ∧ t.Replied rq 0x000B 0 [] ∧ t.mem = s.mem ∧
      t.loadedSlot q n = some o ∧ o.entry = plan.textVa + BitVec.ofNat 57 (4 * v.entry) ∧ o.scrsz = v.scrsz ∧ o.segdir = v.segdir ∧
      o.segimg = v.segimg ∧ o.dircnt = BitVec.ofNat 16 v.dircnt) ∧
  (∀ (rq : Req) (p : BitVec 8) (q : PartId) (n : BitVec 8) (host : Word) (len : Nat) (plan : LoadPlan) (s : State), s.Takes rq → rq.fn = .pf →
    p.toNat = q.toNat →
    ((∀ o ∈ (s.part q).slots, o.num ≠ n) → parseIvo (s.hostBytes host len) = none →
      ∃ t, exec (.objLoad (command rq 0x000B) p n ⟨host, len⟩ plan) s = .next t ∧ t.Replied rq 0x000B 1 [] ∧ t.parts = s.parts ∧ t.mem = s.mem) ∧
    ((∃ o ∈ (s.part q).slots, o.num = n) →
      ∃ t, exec (.objLoad (command rq 0x000B) p n ⟨host, len⟩ plan) s = .next t ∧ t.Replied rq 0x000B 1 [] ∧ t.parts = s.parts) ∧
    ((∀ o ∈ (s.part q).slots, o.num ≠ n) → (parseIvo (s.hostBytes host len)).isSome = true →
      ∃ t o, exec (.objLoad (command rq 0x000B) p n ⟨host, len⟩ plan) s = .next t ∧ (t.mail rq.fn).busy = some rq.seq ∧
        (t.part q).slots = (s.part q).slots ++ [o] ∧ o.num = n ∧ o.st = .loading ∧ t.mem = s.mem) ∧
    (∀ o, (s.part q).slots.find? (·.num == n) = some o → o.pages = [] → s.slotUsed q n = false →
      ∃ t, exec (.objUnload (command rq 0x000C) p n) s = .next t ∧ t.Replied rq 0x000C 0 [] ∧ (∀ e ∈ (t.part q).slots, e.num ≠ n) ∧ t.mem = s.mem) ∧
    (∀ o, (s.part q).slots.find? (·.num == n) = some o → s.slotUsed q n = true →
      ∃ t, exec (.objUnload (command rq 0x000C) p n) s = .next t ∧ (t.mail rq.fn).busy = some rq.seq ∧ t.loadedSlot q n = none ∧
        { o with st := .unloading } ∈ (t.part q).slots) ∧
    ((∀ o ∈ (s.part q).slots, o.num ≠ n) → ∃ t, exec (.objUnload (command rq 0x000C) p n) s = .next t ∧ t.Replied rq 0x000C 1 [] ∧ t.parts = s.parts)) ∧
  (∀ (rq : Req) (v : VfId) (s : State), s.Takes rq →
    (rq.fn = .pf ∨ rq.fn = .vf v → s.Still → (∀ c x, (s.ctx c x).Calm) → (∀ d, (s.die d).queues = []) →
      ∃ t, exec (.vfReset (command rq 0x000D) v) s = .next t ∧ t.Replied rq 0x000D 0 [] ∧ s.ResetOf t v) ∧
    (∀ f, rq.fn = .vf f → f ≠ v → ∃ t, exec (.vfReset (command rq 0x000D) v) s = .next t ∧ t.Replied rq 0x000D 3 [] ∧ t.cores = s.cores)) ∧
  (∀ (rq : Req) (path : List Addr) (s : State), s.Takes rq →
    (rq.fn = .pf → ∃ t, exec (.recordReq (command rq 0x000E) path) s = .next t ∧ t.Replied rq 0x000E 3 [] ∧ t.pkg.records = s.pkg.records) ∧
    (∀ p node, s.callerPart rq = some p → path.getLast? = some node → (s.path node).reverse = path → path.head? = some (s.part p).root →
      ∃ t r, exec (.recordReq (command rq 0x000E) path) s = .next t ∧ t.Replied rq 0x000E 0 (bytesOf 8 s.pkg.seq.toNat) ∧
        t.pkg.records = s.pkg.records ++ [r] ∧ r.part = p ∧ r.path = path ∧ r.seq = s.pkg.seq ∧ t.pkg.seq = s.pkg.seq + 1)) ∧
  (∀ (rq : Req) (i : BitVec 32) (s : State), s.Takes rq → rq.fn = .pf →
    ∃ t body, exec (.statsRead (command rq 0x000F) i) s = .next t ∧ t.Replied rq 0x000F 0 body ∧ body.length = 16 * min 127 (367 - i.toNat) ∧
      (∀ c : CoreId, c.val = i.toNat → body.take 16 = [1, 0] ++ bytesOf 2 c.val ++ bytesOf 4 0 ++ bytesOf 8 (s.core c).freezeCount.toNat)) ∧
  (∀ (rq : Req) (k : Word) (mask : BitVec 4) (s : State) (c : CoreId) (x : Ctx), s.Takes rq → rq.fn = .pf →
    taskContexts.find? (fun q => (s.ctx q.1 q.2).busy && (s.ctx q.1 q.2).task.word == k) = some (c, x) →
    (∃ t, exec (.debug (command rq 0x0010) 1 k mask) s = .next t ∧ t.Replied rq 0x0010 0 [] ∧ t.ctx c x = { s.ctx c x with debugger := true }) ∧
    (∃ t, exec (.debug (command rq 0x0010) 2 k mask) s = .next t ∧ t.Replied rq 0x0010 0 [] ∧ t.ctx c x = { s.ctx c x with debugger := false }) ∧
    (∃ t, exec (.debug (command rq 0x0010) 3 k mask) s = .next t ∧ t.Replied rq 0x0010 0 [] ∧ ∀ p, (t.strand c x p).life =
      if maskBit mask p = true ∧ (s.strand c x p).life = .halted then .running else (s.strand c x p).life))

/-! ## Resets, recovery and the host's window (R14, R333, R369, R370, R388-R390, R400, R418, R419) -/

/-- R333, R369, R370, R388, R389, R390, R400, R418, R419: a cold boot starts over from its checkpoint, in recovery when the image does
not verify; a warm reset counts the epoch and keeps die time and the energy counters; a function's reset ends its tasks and
scrubs its partition's frames; recovery completes an update that the journal holds; BAR2 reads and writes plainly, and an access
that fails reads ones or is dropped, with an entry in the log. (EPOCH 1 after a cold boot that finds no checkpoint, log 64, what memories
and contexts hold after a reset where the spec is silent, logs 2 and 3, and the layout of the request area, log 23, are the model's
choices.) -/
def Obligations.ResetAndHostResults : Prop :=
  (∀ (fw : List FwSeg) (seals : List Bool) (s : State), ∃ t, exec (.coldBoot ⟨false, fw, seals⟩) s = .next t ∧ t.pkg.running = false ∧ t.mem = State.reset.mem ∧ t.cores = State.reset.cores ∧
    t.dies = State.reset.dies) ∧
  (∀ (fw : List FwSeg) (seals : List Bool) (s : State), newestSealed s.pkg.flash seals = none →
    ∃ t, exec (.coldBoot ⟨true, fw, seals⟩) s = .next t ∧ t.pkg.running = true ∧ t.pkg.epoch = 1 ∧
      t.mem = State.reset.mem ∧ t.cores = State.reset.cores.map (fun k => k.loadFirmware (fwSegs fw)) ∧ t.parts = State.reset.parts) ∧
  (∀ (fw : List FwSeg) (seals : List Bool) (s : State) (f : Checkpoint) (older : List Checkpoint),
    newestSealed s.pkg.flash seals = some (f, older) → ∃ t, exec (.coldBoot ⟨true, fw, seals⟩) s = .next t ∧ t.pkg.running = true ∧
    t.pkg.epoch = f.epoch + 1 ∧ t.pkg.seq = f.seq ∧ t.pkg.house = f.house ∧ t.pkg.gap = (if f.final = true then none else some f.time) ∧
    (∀ p, (t.part p).counters = f.counters[p.toNat]) ∧ t.mem = State.reset.mem ∧
    t.cores = State.reset.cores.map fun k => k.loadFirmware (fwSegs fw)) ∧
  (∀ s : State, ∃ t, exec .warmReset s = .next t ∧ t.pkg.epoch = s.pkg.epoch + 1 ∧ t.pkg.seq = s.pkg.seq ∧ t.pkg.house = s.pkg.house ∧
    (∀ p, (t.part p).counters = (s.part p).counters) ∧ (∀ d, (t.die d).time = (s.die d).time ∧ (t.die d).queues = []) ∧
    (∀ c, (t.core c).ctxs = (State.reset.core c).ctxs ∧ (t.core c).freezeCount = (s.core c).freezeCount) ∧ t.mem = State.reset.mem ∧
    t.pkg.vfs = [] ∧ t.pkg.launches = []) ∧
  (∀ (v : VfId) (s : State), s.Still → (∀ c x, (s.ctx c x).Calm) → (∀ d, (s.die d).queues = []) →
    ∃ t, exec (.functionLevelReset v) s = .next t ∧ s.ResetOf t v ∧ (t.mail (.vf v)).rspseq = 0 ∧ (t.mail (.vf v)).busy = none) ∧
  (∀ (n : BitVec 4) (s : State), (∀ d, ∀ q ∈ (s.die d).queues, q.v = false) → exec (.serviceWatchdogExpiry n) s = .next s) ∧
  (∀ (n : BitVec 4) (s : State) (d : DieId) (q : Queue) (a j seq : Nat), s.Canonical → s.Quiet → (∀ e, e ≠ d → (s.die e).queues = []) →
    (s.die d).queues = [q] → q.v = true → a = q.qcb.toNat → j = (qcbOf (s.mem.read a 64)).jrnl.toNat → a + 64 ≤ j ∨ j + 64 ≤ a →
    (s.mem.read j 8 % 2 = 1 → seq = s.mem.read (j + 56) 8 →
      ∃ t, exec (.serviceWatchdogExpiry n) s = .next t ∧ t.mem.read j 8 = 0 ∧ t.mem.read a 8 = seq ∧ t.mem.read (a + 56) 8 = seq ∧
        (∀ i, 1 ≤ i → i ≤ 6 → t.mem.read (a + 8 * i) 8 = s.mem.read (j + 8 * i) 8) ∧
        ∀ b, (b < a ∨ a + 64 ≤ b) → (b < j ∨ j + 8 ≤ b) → t.mem.byte b = s.mem.byte b) ∧
    (s.mem.read j 8 % 2 = 0 → ∃ t, exec (.serviceWatchdogExpiry n) s = .next t ∧ t.mem.read j 8 = 0 ∧
      ∀ b, (b < j ∨ j + 8 ≤ b) → t.mem.byte b = s.mem.byte b)) ∧
  (∀ (v : VfId) (off : BitVec 36) (n : Nat) (s : State),
    (s.bar2Root v = none → (∃ t, exec (.bar2Read v off n) s = .next t ∧ t.pkg.bar2 = List.replicate n 0xFF ∧
        t.pkg.log = s.pkg.log ++ [.unsupported v] ∧ t.mem = s.mem) ∧
      ∀ l, exec (.bar2Write v off l) s = .next (s.logIt (.unsupported v))) ∧
    (∀ root va s1, s.bar2Root v = some root → va = (s.winBase v).toNat + off.toNat →
      s.mayAccess root needRd (pagesOf (BitVec.ofNat 64 va) n) = some s1 →
      (∀ i, i < n → s1.mem.poisoned (s1.paOf root (va + i)) = false ∧ s1.hbm.badPoison (s1.paOf root (va + i)) 1 = false) →
      ∃ t, exec (.bar2Read v off n) s = .next t ∧ t.mem = s1.mem ∧ t.pkg.log = s.pkg.log ∧
        t.pkg.bar2 = (List.range n).map fun i => s1.mem.byte (s1.paOf root (va + i))) ∧
    (∀ root va s1 (b : Byte), s.Canonical → s.Quiet → s.bar2Root v = some root → va = (s.winBase v).toNat + off.toNat →
      s.mayAccess root needWr (pagesOf (BitVec.ofNat 64 va) 1) = some s1 →
      ∃ t, exec (.bar2Write v off [b]) s = .next t ∧ t.pkg.log = s.pkg.log ∧
        ∀ a, t.mem.byte a = if a = s1.paOf root va then b else s1.mem.byte a)) ∧
  (∀ (v : VfId) (x : Word) (s : State),
    ((s.partOfVf v).isSome = true → ∃ t, exec (.registerWrite (.bar0 (.vf v) 0x5000) x) s = .next t ∧
      (t.winBase v).toNat = x.toNat / 2 ^ 36 % 2 ^ 21 * 2 ^ 36 ∧ ∀ w, w ≠ v → t.winBase w = s.winBase w) ∧
    (s.partOfVf v = none → exec (.registerWrite (.bar0 (.vf v) 0x5000) x) s = .next s)) ∧
  (∀ (v : VfId) (o : Nat) (x : Word) (s : State), o < 248 → ∃ t,
    exec (.registerWrite (.bar0 (.vf v) (BitVec.ofNat 26 (0x4040 + 8 * o))) x) s = .next t ∧ t.mem = s.mem ∧
      t.mail (.vf v) = { s.mail (.vf v) with area := (s.mail (.vf v)).area.write (8 * o) 8 x.toNat }) ∧
  (∀ (l : Fin 12) (x : Word) (s : State), ∃ t, exec (.registerWrite (.linkStatus l) x) s = .next t ∧
    t.pkg.links[l.val] = { s.pkg.links[l.val] with failed := (s.pkg.links[l.val]).failed &&& ~~~x.extractLsb' 24 8 })

/-! ## Words as a whole: encoding, checks, guards, frames -/

/-- R32, R38-R58: every well-formed instruction word decodes back from its encoding, with every operand, whatever follows it. -/
def Obligations.EncodedWordsDecodeBack : Prop :=
  ∀ i : Instr, i.WellFormed → ∀ rest : List Byte, decode (encode i ++ rest) = .ok (i, rest)

/-- R32, R58: what decodes is a well-formed word, and no other bytes stand for it: the bytes read are its encoding. -/
def Obligations.DecodedBytesAreTheEncoding : Prop :=
  ∀ (bs rest : List Byte) (i : Instr), decode bs = .ok (i, rest) → i.WellFormed ∧ bs = encode i ++ rest

/-- R38-R53: words that the spec encodes bit by bit decode to the instructions that they stand for. -/
def Obligations.SpecWordsDecode : Prop :=
  decodeTableWord 32 0x00731410 = some (.add ⟨0, 5, 6, 7⟩) ∧
  decodeTableWord 32 0x0811A9B0 = some (.cgti ⟨0, 10, 3, 1, 2⟩) ∧
  decodeTableWord 32 0x00102C34 = some (.addi ⟨1, 11, 0, 1⟩) ∧
  decodeTableWord 32 0x00008284 = some (.trap ⟨1, 1⟩) ∧
  decodeTableWord 32 0x00001660 = some (.exit ⟨0, 0⟩) ∧
  decodeTableWord 32 0x00000000 = none

/-- R32, R97, R393, R394: a step performs the agenda's next event, else the one that the schedule names, and an idle machine stays
as it is; where no partition records or replays, that is exec of the event; where one records, an input that has crossed into it is
recorded too, or finds the area full; where one replays, an input of another kind than the recorded one stops the partition's queues;
the words of a bundle run as the instructions that their bits decode to, so that a bundle of one word that issues leaves what exec
of that instruction leaves at its slot, moved on past the bundle. (The agenda and the schedule, log 6, and how recording and replay meet
the events, log 25, are the model's choices.) -/
def Obligations.StepRunsDecodedWords : Prop :=
  (∀ (s : State) (i : Instr) (r : List Instr), s.agenda = i :: r →
    step s = ({ s with agenda := r } : State).perform i ∧ (s.captures = false → step s = exec i { s with agenda := r })) ∧
  (∀ (s t : State) (i : Instr), s.agenda = [] → s.schedule = some (i, t) →
    step s = t.perform i ∧ (s.captures = false → step s = exec i t)) ∧
  (∀ s : State, s.agenda = [] → s.schedule = none → step s = .next s) ∧
  (∀ (s t : State) (i : Instr) (p : PartId), s.inputOf i = some p → s.capMode p = 1 → s.deliverThyme = s → exec i s = .next t →
    crossed i s t = true → t.capMode p = 1 → t.clusters = s.clusters → (∀ d, (t.die d).ring = (s.die d).ring) →
    copyDone i s t = none → ∃ u, s.perform i = .next u ∧ (u.capMode p = 0 ∨
      (u.part p).cap.inputs = (t.part p).cap.inputs ++ [if (packetOf i).isSome = true then .packet i (s.packetWords i) else .event (inputEvent i)])) ∧
  (∀ (s t : State) (i j : Instr) (p : PartId) (l : List Crossing), s.inputOf i = some p → s.capMode p = 2 → s.deliverThyme = s →
    exec i s = .next t → crossed i s t = true → (s.part p).capLeft.inputs = .event j :: l → kindOf j ≠ kindOf i →
    s.perform i = .next (s.noteThyme (s.stopReplay p))) ∧
  (∀ (w : AnyWord) (s : State), runWord w s = exec w.instr s) ∧
  (∀ (n : Nat) (w : AnyWord) (bs : List Byte) (i : Instr) (rest : List Byte), decode bs = .ok (i, rest) → takeWord bs = .ok (n, rest) →
    decodeNat n = .ok w → i = w.instr) ∧
  (∀ (c : CoreId) (x : Ctx) (u : List Strand) (h : Header) (len : Nat) (w : SlotWord) (s t : State),
    (s.ctx c x).slotIssues s.cur.hdr (maskBit h.first w.slot) (maskBit h.last w.slot) = true →
    w.slot ≠ .X → exec w.word.instr (({ s with cur := { s.cur with carried := false } }).atSlot h w) = .next t → t.cur.res = .done → x ≠ .fw →
    s.issueWords c x u h len [w] = ((((t.modUnit c x u fun k => { k with blocked := 0, delayed := false }).goOn c x u s.cur.hdr
      (s.cur.hdr + BitVec.ofNat 57 (4 * len)) (h.sync == 1)).modUnit c x u StrandSt.cycle).exitTraps c x u).drainCtx c x)

/-- R59, R115: a word of any layout that fails an encoding check traps with that cause and its address, whatever its guard; one that
passes and whose guard is false performs nothing at all. -/
def Obligations.ChecksAndGuardsOfEveryWord : Prop :=
  ∀ (w : AnyWord) (s : State),
    (∀ c, s.check w = some c → exec w.instr s = .next (s.trap c (s.cur.at_.setWidth 64))) ∧
    (s.check w = none → s.me.pending (guardRegs w s.me) = false → (s.here.dbg = true → s.me.stale (guardRegs w s.me) = none) →
      guardHolds w s.me = false → exec w.instr s = .next s.issued)

/-- R104, R119-R124: a scalar word that writes one general register, when it issues, changes nothing of the machine but the results on
their way of its own strand, and those only by results for its destination; for g0 it adds none. -/
def Obligations.RegisterWordFrame : Prop :=
  ∀ (v : ScalarWord) (s t : State) (d : GReg), registerDest v = some d → exec (AnyWord.scalar v).instr s = .next t → t.cur.res = .done →
    ∃ l p, t = (s.issued.modMe fun u => { u with land := u.land ++ l, pend := u.pend ++ p }) ∧
      (∀ e ∈ l, d ≠ 0 ∧ ((∃ x, e.what = .reg d x) ∨ ∃ b x, e.what = .bit d b x)) ∧ (∀ e ∈ p, d ≠ 0 ∧ e.d = d)

/-- R129, R130: what the scalar stores leave alone: registers and results of every strand, the other stores, everything above the core,
and the F bits; the bytes that they leave are those of ScalarLoadAndStoreResults. -/
def Obligations.ScalarStoreFrames : Prop :=
  LocalStoreFrame .stlB .stlB 1 ∧ LocalStoreFrame .stlH .stlH 2 ∧ LocalStoreFrame .stlW .stlW 4 ∧ LocalStoreFrame .stlD .stlD 8 ∧
  GlobalStoreFrame .stgB .stgB 1 ∧ GlobalStoreFrame .stgH .stgH 2 ∧ GlobalStoreFrame .stgW .stgW 4 ∧ GlobalStoreFrame .stgD .stgD 8

/-- R363, R365, R372, R387, R388: no instruction word changes who owns a core, a frame or a runlist entry, which functions are bound,
the mailboxes, the records, their sequence, the epoch, the checkpoint or the service; only the service's events do. -/
def Obligations.WordsChangeNoOwnership : Prop :=
  ∀ (w : AnyWord) (s t : State), exec w.instr s = .next t →
    t.pkg.coreOwner = s.pkg.coreOwner ∧ t.pkg.frames = s.pkg.frames ∧ t.pkg.runOwner = s.pkg.runOwner ∧ t.pkg.vfs = s.pkg.vfs ∧
    t.pkg.mail = s.pkg.mail ∧ t.pkg.records = s.pkg.records ∧ t.pkg.seq = s.pkg.seq ∧ t.pkg.epoch = s.pkg.epoch ∧
    t.pkg.flash = s.pkg.flash ∧ t.pkg.running = s.pkg.running ∧ t.pkg.house = s.pkg.house

/-! ## Reset and the canonical form -/

/-- What reset leaves (R91, R137, R140, R256, R264, R291, R308, R363, R375, R390, R400): the values that the field maps give, every
resource with the house, and every memory in canonical form, listing nothing. (What contexts without a task hold, log 3, that unlisted
memory reads as zero, log 2, and the service's bookkeeping, log 14, are the model's choices.) -/
def Obligations.ResetState : Prop :=
  State.reset.Canonical ∧ State.reset.mem = Store.empty ∧
  (∀ c, (State.reset.core c).lstore = Store.empty ∧ (State.reset.core c).astore = Store.empty) ∧
  (∀ d, (State.reset.die d).window = Store.empty) ∧ State.reset.pkg.running = true ∧ State.reset.pkg.frames = [] ∧ State.reset.pkg.vfs = [] ∧
  (∀ c : CoreId, State.reset.pkg.coreOwner[c.val] = none ∧ (State.reset.core c).tar = ⟨6000, 0, false, false⟩ ∧ (State.reset.core c).fwD = 64 ∧
    (State.reset.core c).serving = ⟨none, none, none, none⟩ ∧ (State.reset.ctx c .t0).busy = false ∧ (State.reset.ctx c .t1).busy = false ∧
    ∀ x, (State.reset.ctx c x).vl = 128 ∧ (State.reset.ctx c x).srVec = 1 ∧ (State.reset.ctx c x).tokens = ⟨0, 0, 0, 0, 0, 0⟩ ∧
      ∀ p, (State.reset.strand c x p).epc = 0 ∧ (State.reset.strand c x p).eval = 0 ∧ (State.reset.strand c x p).feb = 0x100) ∧
  (∀ p, (State.reset.part p).made = false ∧ (State.reset.part p).thr = 128 ∧ (State.reset.part p).blk = 5 ∧ (State.reset.part p).split = 0) ∧
  (∀ k : ClusterId, (State.reset.cluster k).table = #v[0, 1, 2, 3, 4, 5, 6, 7, 0, 1, 2, 3, 8, 9, 10, 11] ∧ (State.reset.cluster k).ratio = 0) ∧
  (∀ d : DieId, (State.reset.die d).queues = [] ∧ (State.reset.die d).time = 0) ∧
  (∀ l : Fin 12, (State.reset.pkg.links[l.val]).split = 4 ∧ (State.reset.pkg.links[l.val]).owner = 0)

/-- The model's canonical form of memory (log 2): every step, of whatever event and from whatever state, keeps device memory, the stores of
every core and the sync windows in strictly rising order with no entry that reads as an unlisted address does. -/
def Obligations.EveryStepKeepsMemoryCanonical : Prop :=
  ∀ s t : State, s.Canonical → step s = .next t → t.Canonical
end

