-- ==== Sys2Proof/Laws/Store.lean ====
section
/-! SUPPORT. Byte stores: every operation keeps the canonical form, and what reading gives after writing (R11, R68, log 2). -/
namespace Sys2Proof.Machine

/-! ## The canonical form -/

theorem risingCells_iff (l : List Host.Cell) :
    risingCells l = true ↔ l.Pairwise (fun c d => c.1 < d.1) ∧ ∀ c ∈ l, c.2 ≠ 0 := by
  induction l with
  | nil => simp [risingCells]
  | cons c r ih =>
    obtain ⟨a, v⟩ := c
    cases r with
    | nil => simp [risingCells]
    | cons d r =>
      obtain ⟨b, w⟩ := d
      simp only [risingCells, Bool.and_eq_true, bne_iff_ne, ne_eq, decide_eq_true_eq, ih, List.pairwise_cons, List.mem_cons,
        forall_eq_or_imp]
      constructor
      · rintro ⟨⟨hv, hab⟩, ⟨hb, hr⟩, hw, hz⟩
        exact ⟨⟨⟨hab, fun e he => Nat.lt_trans hab (hb e he)⟩, hb, hr⟩, hv, hw, hz⟩
      · rintro ⟨⟨⟨hab, -⟩, hb, hr⟩, hv, hw, hz⟩
        exact ⟨⟨hv, hab⟩, ⟨hb, hr⟩, hw, hz⟩
theorem risingMarks_iff (l : List Nat) : risingMarks l = true ↔ l.Pairwise (· < ·) := by
  induction l with
  | nil => simp [risingMarks]
  | cons a r ih =>
    cases r with
    | nil => simp [risingMarks]
    | cons b r =>
      simp only [risingMarks, Bool.and_eq_true, decide_eq_true_eq, ih, List.pairwise_cons, List.mem_cons, forall_eq_or_imp]
      exact ⟨fun ⟨h, hb, hr⟩ => ⟨⟨h, fun e he => Nat.lt_trans h (hb e he)⟩, hb, hr⟩, fun ⟨⟨h, _⟩, hb, hr⟩ => ⟨h, hb, hr⟩⟩
theorem Store.wf_iff (m : Store) :
    m.wf = true ↔ risingCells m.bytes = true ∧ risingMarks m.full = true ∧ risingMarks m.poison = true := by
  simp [Store.wf, and_assoc]
theorem Store.empty_wf : Store.empty.wf = true := rfl

theorem mem_cellPut {l : List Host.Cell} {a : Nat} {v : Byte} {c : Host.Cell} (h : c ∈ cellPut l a v) :
    (c = (a, v) ∧ v ≠ 0) ∨ c ∈ l := by
  have key (hv : ¬v = 0) (k : List Host.Cell) (hc : c ∈ (a, v) :: k) : (c = (a, v) ∧ v ≠ 0) ∨ c ∈ k :=
    (List.mem_cons.mp hc).imp (fun e => ⟨e, hv⟩) id
  induction l with
  | nil =>
    simp only [cellPut] at h
    split at h
    · exact .inr h
    · exact key ‹_› _ h
  | cons d r ih =>
    obtain ⟨b, w⟩ := d
    simp only [cellPut] at h
    split at h
    · split at h
      · exact .inr (List.mem_cons_of_mem _ h)
      · exact (key ‹_› _ h).imp id (List.mem_cons_of_mem _)
    · split at h
      · split at h
        · exact .inr h
        · exact key ‹_› _ h
      · exact (List.mem_cons.mp h).elim (fun e => .inr (e ▸ List.mem_cons_self ..)) fun e => (ih e).imp id (List.mem_cons_of_mem _)
theorem cellPut_rising {l : List Host.Cell} (h : risingCells l = true) (a : Nat) (v : Byte) : risingCells (cellPut l a v) = true := by
  rw [risingCells_iff] at h ⊢
  refine ⟨?_, fun c hc => (mem_cellPut hc).elim (fun e => by rw [e.1]; exact e.2) (h.2 c)⟩
  obtain ⟨h, -⟩ := h
  induction l with
  | nil =>
    simp only [cellPut]
    split
    · exact List.Pairwise.nil
    · exact List.pairwise_cons.mpr ⟨fun _ he => absurd he List.not_mem_nil, List.Pairwise.nil⟩
  | cons d r ih =>
    obtain ⟨b, w⟩ := d
    rw [List.pairwise_cons] at h
    simp only [cellPut]
    split
    · next e =>
      subst e
      split
      · exact h.2
      · exact List.pairwise_cons.mpr h
    · split
      · next hlt =>
        split
        · exact List.pairwise_cons.mpr h
        · exact List.pairwise_cons.mpr ⟨by simpa using ⟨hlt, fun x y hx => Nat.lt_trans hlt (h.1 _ hx)⟩, List.pairwise_cons.mpr h⟩
      · next hne hge =>
        refine List.pairwise_cons.mpr ⟨fun c hc => ?_, ih h.2⟩
        rcases mem_cellPut hc with ⟨rfl, -⟩ | hm
        · exact Nat.lt_of_le_of_ne (Nat.le_of_not_lt hge) (Ne.symm hne)
        · exact h.1 c hm
theorem mem_markPut {l : List Nat} {a c : Nat} {v : Bool} (h : c ∈ markPut l a v) : c = a ∨ c ∈ l := by
  induction l with
  | nil => cases v <;> simp_all [markPut]
  | cons b r ih =>
    simp only [markPut] at h
    split at h
    · cases v
      · exact .inr (List.mem_cons_of_mem _ h)
      · exact .inr h
    · split at h
      · cases v
        · exact .inr h
        · exact List.mem_cons.mp h
      · exact (List.mem_cons.mp h).elim (fun e => .inr (e ▸ List.mem_cons_self ..)) fun e => (ih e).imp id (List.mem_cons_of_mem _)
theorem markPut_rising {l : List Nat} (h : risingMarks l = true) (a : Nat) (v : Bool) : risingMarks (markPut l a v) = true := by
  rw [risingMarks_iff] at h ⊢
  induction l with
  | nil => cases v <;> simp [markPut]
  | cons b r ih =>
    rw [List.pairwise_cons] at h
    simp only [markPut]
    split
    · cases v
      · exact h.2
      · exact List.pairwise_cons.mpr h
    · split
      · next hlt =>
        cases v
        · exact List.pairwise_cons.mpr h
        · exact List.pairwise_cons.mpr ⟨by simpa using ⟨hlt, fun x hx => Nat.lt_trans hlt (h.1 _ hx)⟩, List.pairwise_cons.mpr h⟩
      · next hne hge =>
        refine List.pairwise_cons.mpr ⟨fun c hc => ?_, ih h.2⟩
        rcases mem_markPut hc with rfl | hm
        · exact Nat.lt_of_le_of_ne (Nat.le_of_not_lt hge) (Ne.symm hne)
        · exact h.1 c hm
theorem filter_rising {l : List Host.Cell} (h : risingCells l = true) (f : Host.Cell → Bool) : risingCells (l.filter f) = true := by
  rw [risingCells_iff] at h ⊢
  exact ⟨h.1.filter f, fun c hc => h.2 c ((List.mem_filter.mp hc).1)⟩
theorem filter_risingMarks {l : List Nat} (h : risingMarks l = true) (f : Nat → Bool) : risingMarks (l.filter f) = true := by
  rw [risingMarks_iff] at h ⊢
  exact h.filter f

/-! ## Every operation keeps the form -/

theorem Store.setByte_wf {m : Store} (h : m.wf = true) (a : Nat) (v : Byte) : (m.setByte a v).wf = true := by
  rw [Store.wf_iff] at h ⊢
  exact ⟨cellPut_rising h.1 a v, h.2⟩
theorem Store.setF_wf {m : Store} (h : m.wf = true) (a : Nat) (v : Bool) : (m.setF a v).wf = true := by
  rw [Store.wf_iff] at h ⊢
  exact ⟨h.1, markPut_rising h.2.1 (a / 4) v, h.2.2⟩
theorem Store.setPoison_wf {m : Store} (h : m.wf = true) (a : Nat) (v : Bool) : (m.setPoison a v).wf = true := by
  rw [Store.wf_iff] at h ⊢
  exact ⟨h.1, h.2.1, markPut_rising h.2.2 (a / 64) v⟩
theorem Store.foldl_wf {α : Type} (f : Store → α → Store) (hf : ∀ m x, m.wf = true → (f m x).wf = true) (l : List α) {m : Store}
    (h : m.wf = true) : (l.foldl f m).wf = true := by
  induction l generalizing m with
  | nil => exact h
  | cons x r ih => exact ih (hf m x h)
theorem Store.setFs_wf {m : Store} (h : m.wf = true) (a n : Nat) (v : Bool) : (m.setFs a n v).wf = true :=
  Store.foldl_wf _ (fun _ w hm => Store.setF_wf hm w v) _ h
theorem Store.write_wf {m : Store} (h : m.wf = true) (a n v : Nat) : (m.write a n v).wf = true := by
  induction n generalizing m a v with
  | zero => exact h
  | succ n ih => exact ih (Store.setByte_wf h a _) (a + 1) _
theorem Store.writeList_wf {m : Store} (h : m.wf = true) (a : Nat) (l : List Byte) : (m.writeList a l).wf = true := by
  induction l generalizing m a with
  | nil => exact h
  | cons b r ih => exact ih (Store.setByte_wf h a b) (a + 1)
theorem Store.writeClean_wf {m : Store} (h : m.wf = true) (a : Nat) (l : List Byte) : (m.writeClean a l).wf = true :=
  Store.foldl_wf _ (fun _ _ hm => Store.setPoison_wf hm _ false) _ (Store.writeList_wf h a l)
theorem Store.clear_wf {m : Store} (h : m.wf = true) (a n : Nat) : (m.clear a n).wf = true := by
  rw [Store.wf_iff] at h ⊢
  exact ⟨filter_rising h.1 _, filter_risingMarks h.2.1 _, filter_risingMarks h.2.2 _⟩
theorem Store.paste_wf {m : Store} (h : m.wf = true) (a n : Nat) (src : Store) : (m.paste a n src).wf = true :=
  Store.foldl_wf _ (fun _ _ hm => Store.setPoison_wf hm _ true) _
    (Store.foldl_wf _ (fun _ _ hm => Store.setF_wf hm _ true) _
      (Store.foldl_wf _ (fun _ _ hm => Store.setByte_wf hm _ _) _ (Store.clear_wf h a n)))

/-! ## Reading after writing -/

theorem cellGet_absent {l : List Host.Cell} {a : Nat} (h : ∀ c ∈ l, c.1 ≠ a) : cellGet l a = 0 := by
  induction l with
  | nil => rfl
  | cons c r ih =>
    obtain ⟨b, w⟩ := c
    have hb : a ≠ b := fun e => h (b, w) (List.mem_cons_self ..) e.symm
    simp only [cellGet, hb, if_false]
    split
    · rfl
    · exact ih fun c hc => h c (List.mem_cons_of_mem _ hc)
theorem cellGet_cellPut {l : List Host.Cell} (h : risingCells l = true) (a b : Nat) (v : Byte) :
    cellGet (cellPut l a v) b = if b = a then v else cellGet l b := by
  have hr := ((risingCells_iff l).mp h).1
  clear h
  induction l with
  | nil =>
    simp only [cellPut]
    split
    · next hv => subst hv; simp only [cellGet]; split <;> rfl
    · simp only [cellGet]; split
      · rfl
      · split <;> rfl
  | cons d r ih =>
    obtain ⟨c, w⟩ := d
    rw [List.pairwise_cons] at hr
    have hc : ∀ x, x ≤ c → cellGet r x = 0 := fun x hx => cellGet_absent fun e he => Nat.ne_of_gt (Nat.lt_of_le_of_lt hx (hr.1 e he))
    simp only [cellPut]
    split
    · next e =>
      subst e
      split
      · next hv =>
        subst hv
        by_cases hb : b = a
        · rw [if_pos hb, hc b (Nat.le_of_eq hb)]
        · rw [if_neg hb, cellGet, if_neg hb]
          split
          · next hlt => exact hc b (Nat.le_of_lt hlt)
          · rfl
      · simp only [cellGet]; split <;> rfl
    · next hne =>
      split
      · next hlt =>
        split
        · next hv =>
          subst hv
          by_cases hb : b = a
          · rw [if_pos hb, cellGet, if_neg (by omega), if_pos (by omega)]
          · rw [if_neg hb]
        · by_cases hb : b = a
          · rw [if_pos hb, cellGet, if_pos hb]
          · rw [if_neg hb, cellGet, if_neg hb]
            split
            · rw [cellGet, if_neg (by omega), if_pos (by omega)]
            · rfl
      · simp only [cellGet, ih hr.2]
        by_cases hb : b = a
        · rw [if_pos hb, if_neg (by omega), if_neg (by omega), if_pos hb]
        · rw [if_neg hb, if_neg hb]
theorem markGet_markPut {l : List Nat} (h : risingMarks l = true) (a b : Nat) (v : Bool) :
    markGet (markPut l a v) b = if b = a then v else markGet l b := by
  have hr := (risingMarks_iff l).mp h
  clear h
  have absent : ∀ (l : List Nat) (x : Nat), (∀ c ∈ l, c ≠ x) → markGet l x = false := by
    intro l x hl
    induction l with
    | nil => rfl
    | cons c r ih =>
      have hx : x ≠ c := fun e => hl c (List.mem_cons_self ..) e.symm
      simp only [markGet, hx, if_false]
      split
      · rfl
      · exact ih fun c hc => hl c (List.mem_cons_of_mem _ hc)
  induction l with
  | nil => cases v <;> by_cases hb : b = a <;> simp [markPut, markGet, hb]
  | cons c r ih =>
    rw [List.pairwise_cons] at hr
    have hc : ∀ x, x ≤ c → markGet r x = false := fun x hx => absent r x fun e he => Nat.ne_of_gt (Nat.lt_of_le_of_lt hx (hr.1 e he))
    simp only [markPut]
    split
    · next e =>
      subst e
      by_cases hb : b = a
      · cases v <;> simp [markGet, hb, hc a (Nat.le_refl a)]
      · cases v
        · rw [if_neg Bool.false_ne_true, if_neg hb, markGet, if_neg hb]
          split
          · next hlt => exact hc b (Nat.le_of_lt hlt)
          · rfl
        · simp [markGet, hb]
    · next hne =>
      split
      · next hlt =>
        by_cases hb : b = a
        · subst hb; cases v <;> simp [markGet, hne, hlt]
        · cases v
          · simp [hb]
          · rw [if_pos rfl, if_neg hb, markGet, if_neg hb]
            split
            · rw [markGet, if_neg (by omega), if_pos (by omega)]
            · rfl
      · simp only [markGet, ih hr.2]
        by_cases hb : b = a
        · rw [if_pos hb, if_neg (by omega), if_neg (by omega), if_pos hb]
        · rw [if_neg hb, if_neg hb]

theorem Store.byte_setByte {m : Store} (h : m.wf = true) (a b : Nat) (v : Byte) :
    (m.setByte a v).byte b = if b = a then v else m.byte b :=
  cellGet_cellPut ((Store.wf_iff m).mp h).1 a b v
theorem Store.fbit_setF {m : Store} (h : m.wf = true) (a b : Nat) (v : Bool) :
    (m.setF a v).fbit b = if b / 4 = a / 4 then v else m.fbit b :=
  markGet_markPut ((Store.wf_iff m).mp h).2.1 (a / 4) (b / 4) v
theorem Store.poisoned_setPoison {m : Store} (h : m.wf = true) (a b : Nat) (v : Bool) :
    (m.setPoison a v).poisoned b = if b / 64 = a / 64 then v else m.poisoned b :=
  markGet_markPut ((Store.wf_iff m).mp h).2.2 (a / 64) (b / 64) v
@[simp] theorem Store.fbit_setByte (m : Store) (a b : Nat) (v : Byte) : (m.setByte a v).fbit b = m.fbit b := rfl
@[simp] theorem Store.poisoned_setByte (m : Store) (a b : Nat) (v : Byte) : (m.setByte a v).poisoned b = m.poisoned b := rfl
@[simp] theorem Store.byte_setF (m : Store) (a b : Nat) (v : Bool) : (m.setF a v).byte b = m.byte b := rfl
@[simp] theorem Store.byte_setPoison (m : Store) (a b : Nat) (v : Bool) : (m.setPoison a v).byte b = m.byte b := rfl
@[simp] theorem Store.fbit_write (m : Store) (a n v b : Nat) : (m.write a n v).fbit b = m.fbit b := by
  induction n generalizing m a v with
  | zero => rfl
  | succ n ih => exact ih _ _ _
@[simp] theorem Store.poisoned_write (m : Store) (a n v b : Nat) : (m.write a n v).poisoned b = m.poisoned b := by
  induction n generalizing m a v with
  | zero => rfl
  | succ n ih => exact ih _ _ _
/-- The bytes of a write, little-endian; every other byte as before. -/
theorem Store.byte_write {m : Store} (h : m.wf = true) (a n v b : Nat) :
    (m.write a n v).byte b = if a ≤ b ∧ b < a + n then BitVec.ofNat 8 (v / 256 ^ (b - a)) else m.byte b := by
  induction n generalizing m a v with
  | zero => simp only [Store.write]; rw [if_neg (by omega)]
  | succ n ih =>
    simp only [Store.write]
    rw [ih (Store.setByte_wf h a _), Store.byte_setByte h]
    by_cases hb : b = a
    · subst hb
      rw [if_neg (by omega), if_pos rfl, if_pos ⟨Nat.le_refl b, by omega⟩]
      simp
    · by_cases hin : a + 1 ≤ b ∧ b < a + 1 + n
      · rw [if_pos hin, if_pos (by omega), Nat.div_div_eq_div_mul]
        have : b - a = (b - (a + 1)) + 1 := by omega
        rw [this, Nat.pow_succ, Nat.mul_comm]
      · rw [if_neg hin, if_neg hb, if_neg (by omega)]
theorem Store.read_congr {m k : Store} {a n : Nat} (h : ∀ b, a ≤ b → b < a + n → m.byte b = k.byte b) : m.read a n = k.read a n := by
  induction n generalizing a with
  | zero => rfl
  | succ n ih =>
    simp only [Store.read, h a (Nat.le_refl a) (by omega)]
    rw [ih fun b hb hn => h b (by omega) (by omega)]
/-- A read of what has just been written gives the value's low bytes. -/
theorem Store.read_write {m : Store} (h : m.wf = true) (a n v : Nat) : (m.write a n v).read a n = v % 256 ^ n := by
  induction n generalizing m a v with
  | zero => simp [Store.read, Nat.mod_one]
  | succ n ih =>
    simp only [Store.read]
    rw [Store.byte_write h, if_pos ⟨Nat.le_refl a, by omega⟩]
    have e := ih (Store.setByte_wf h a (BitVec.ofNat 8 v)) (a + 1) (v / 256)
    simp only [Store.write, e, Nat.sub_self, Nat.pow_zero, Nat.div_one, BitVec.toNat_ofNat]
    rw [show 256 ^ (n + 1) = 256 * 256 ^ n by rw [Nat.pow_succ, Nat.mul_comm], Nat.mod_mul]
/-- A read apart from a write is as before. -/
theorem Store.read_write_apart {m : Store} (h : m.wf = true) (a n v b k : Nat) (d : b + k ≤ a ∨ a + n ≤ b) :
    (m.write a n v).read b k = m.read b k :=
  Store.read_congr fun c hc hk => by rw [Store.byte_write h, if_neg (by omega)]
/-- Clearing a range leaves zeros there and every other byte as before. -/
theorem Store.byte_clear {m : Store} (h : m.wf = true) (a n b : Nat) :
    (m.clear a n).byte b = if a ≤ b ∧ b < a + n then 0 else m.byte b := by
  have hr := ((risingCells_iff m.bytes).mp ((Store.wf_iff m).mp h).1).1
  show cellGet (m.bytes.filter _) b = if _ then 0 else cellGet m.bytes b
  generalize m.bytes = l at hr
  induction l with
  | nil => simp [cellGet]
  | cons d r ih =>
    obtain ⟨c, w⟩ := d
    rw [List.pairwise_cons] at hr
    have absent (x : Nat) (hx : x ≤ c) (f : Host.Cell → Bool) : cellGet (r.filter f) x = 0 :=
      cellGet_absent fun e he => Nat.ne_of_gt (Nat.lt_of_le_of_lt hx (hr.1 e (List.mem_filter.mp he).1))
    have absent' (x : Nat) (hx : x ≤ c) : cellGet r x = 0 := cellGet_absent fun e he => Nat.ne_of_gt (Nat.lt_of_le_of_lt hx (hr.1 e he))
    simp only [List.filter_cons]
    split
    · next hk =>
      simp only [Bool.or_eq_true, decide_eq_true_eq] at hk
      simp only [cellGet, ih hr.2]
      by_cases hb : b = c
      · subst hb; rw [if_pos rfl, if_neg (by omega)]; simp
      · by_cases hlt : b < c <;> simp [hb, hlt]
    · next hk =>
      simp only [Bool.or_eq_true, decide_eq_true_eq, not_or, Nat.not_lt, Nat.not_le] at hk
      rw [ih hr.2]
      by_cases hin : a ≤ b ∧ b < a + n
      · simp [hin]
      · rw [if_neg hin, if_neg hin]
        simp only [cellGet]
        have hb : b ≠ c := by omega
        by_cases hlt : b < c
        · simp [hb, hlt, absent' b (Nat.le_of_lt hlt)]
        · simp [hb, hlt]

end Sys2Proof.Machine
end

