-- ==== Sys2Proof/Laws/Capture.lean ====
section
/-! SUPPORT. What capture and replay can do (R392-R394): nothing where no partition records or replays; memories stay in canonical form. -/
namespace Sys2Proof.Machine

theorem State.perform_off {s : State} (h : s.captures = false) (i : Instr) : s.perform i = exec i s := by
  simp [State.perform, h]
/-- The head of what a replay has left is no Thyme change. -/
def Partition.plainHead (t : Partition) : Bool :=
  match t.capLeft.inputs with
  | .thyme _ _ _ :: _ | .ring _ _ :: _ => false
  | _ => true
theorem State.deliverTables_plain {s : State} {p : PartId} (h : (s.part p).plainHead = true) : ∀ n, s.deliverTables p n = s
  | 0 => rfl
  | n + 1 => by
    unfold State.deliverTables
    split
    · next e => simp [Partition.plainHead, e] at h
    · next e => simp [Partition.plainHead, e] at h
    · rfl
theorem State.deliverThyme_none {s : State} (h : ∀ p : Fin 64, s.parts[p.val].plainHead = true) : s.deliverThyme = s := by
  have step : ∀ l : List PartId, l.foldl (fun s p =>
      if s.capMode p = 2 then s.deliverTables p (s.part p).capLeft.inputs.length else s) s = s := by
    intro l
    induction l with
    | nil => rfl
    | cons p l ih =>
      rw [List.foldl_cons, State.deliverTables_plain (h p.toFin), ite_self]
      exact ih
  exact step _
theorem State.Canonical.modCap {s : State} (h : s.Canonical) (p : PartId) (f : Partition → Partition) : (s.modCap p f).Canonical :=
  ⟨h.mem, h.stores, h.windows⟩
theorem State.Canonical.recordIn {s : State} (h : s.Canonical) (p : PartId) (f : Capture → Capture) : (s.recordIn p f).Canonical := by
  simp only [State.recordIn]
  split
  · exact ⟨h.mem, h.stores, h.windows⟩
  · exact ⟨Store.writeClean_wf h.mem _ _, h.stores, h.windows⟩
theorem State.Canonical.noteIn {s : State} (h : s.Canonical) (p : PartId) (f : Capture → Capture) : (s.noteIn p f).Canonical := by
  simp only [State.noteIn]
  split
  · exact h.recordIn p f
  · exact h
theorem State.Canonical.consume {s : State} (h : s.Canonical) (p : PartId) (f : Capture → Capture) : (s.consume p f).Canonical := by
  simp only [State.consume]
  split
  · exact h.modCap p _
  · exact h
theorem State.Canonical.noteSeed {s : State} (h : s.Canonical) (c : CoreId) (x : Ctx) (v : BitVec 32) : (s.noteSeed c x v).Canonical := by
  unfold State.noteSeed; exact (h.noteIn _ _).consume _ _
theorem State.Canonical.noteArrival {s : State} (h : s.Canonical) (c : CoreId) (x : Ctx) (p : Strand) (l : List Place) :
    (s.noteArrival c x p l).Canonical := by
  simp only [State.noteArrival]
  split
  · exact h
  · exact (h.noteIn _ _).consume _ _
theorem State.Canonical.notePlace {s : State} (h : s.Canonical) (p : PartId) (c : CoreId) : (s.notePlace p c).Canonical := by
  unfold State.notePlace; exact (h.noteIn _ _).consume _ _

end Sys2Proof.Machine
end

