-- ==== Sys2Proof/Laws/Encoding.lean ====
section
/-! SUPPORT. Packing and unpacking of fields, bytes of a number, and reading back the word of each layout (R32, R38-R53). -/
namespace Sys2Proof

/-- Unpacking a packed word gives the field values, when each fits its width. -/
theorem unpack_pack : ∀ (l : List (Nat × Nat)), (∀ p ∈ l, p.2 < 2 ^ p.1) →
    unpack (l.map Prod.fst) (pack l) = l.map Prod.snd
  | [], _ => rfl
  | (w, v) :: r, h => by
    have hv : v < 2 ^ w := h (w, v) (by simp)
    have hr := unpack_pack r fun p hp => h p (by simp [hp])
    have hpos : 0 < 2 ^ w := Nat.two_pow_pos w
    simp only [List.map_cons, pack, unpack]
    rw [Nat.add_mul_mod_self_left, Nat.mod_eq_of_lt hv, Nat.add_mul_div_left _ _ hpos, Nat.div_eq_of_lt hv, Nat.zero_add, hr]

/-- A packed word lies below the power of two of its total width. -/
theorem pack_lt : ∀ (l : List (Nat × Nat)), (∀ p ∈ l, p.2 < 2 ^ p.1) → pack l < 2 ^ (l.map Prod.fst).sum
  | [], _ => by simp [pack]
  | (w, v) :: r, h => by
    have hv : v < 2 ^ w := h (w, v) (by simp)
    have hr := pack_lt r fun p hp => h p (by simp [hp])
    simp only [List.map_cons, pack, List.sum_cons, Nat.pow_add]
    calc v + 2 ^ w * pack r < 2 ^ w + 2 ^ w * pack r := by omega
      _ = 2 ^ w * (pack r + 1) := by rw [Nat.mul_add]; omega
      _ ≤ 2 ^ w * 2 ^ (r.map Prod.fst).sum := Nat.mul_le_mul_left _ hr

theorem bytesOfNat_length : ∀ n v, (bytesOfNat n v).length = n
  | 0, _ => rfl
  | n + 1, v => by simp [bytesOfNat, bytesOfNat_length n]

theorem natOfBytes_bytesOfNat : ∀ n v, natOfBytes (bytesOfNat n v) = v % 256 ^ n
  | 0, v => by simp [natOfBytes, bytesOfNat, Nat.mod_one]
  | n + 1, v => by
    simp only [bytesOfNat, natOfBytes, natOfBytes_bytesOfNat n, BitVec.toNat_ofNat, show (2 : Nat) ^ 8 = 256 from rfl]
    rw [Nat.pow_succ, Nat.mul_comm (256 ^ n) 256, Nat.mod_mul, Nat.mod_mod]

/-- The number of the bits of a view: every field fits. -/
theorem View.fields_fit (v : View) : ∀ p ∈ v.fields, p.2 < 2 ^ p.1 := by
  cases v <;> simp only [View.fields, List.forall_mem_cons] <;>
    (repeat' apply And.intro) <;> first | exact BitVec.isLt _ | decide | simp

theorem View.unpack_word (v : View) : unpack (v.fields.map Prod.fst) v.word = v.fields.map Prod.snd :=
  unpack_pack _ v.fields_fit

/-- The bits of a word fill its parcels. -/
theorem View.word_lt (v : View) : v.word < 256 ^ (4 * v.parcels) := by
  have h := pack_lt _ v.fields_fit
  have e : (v.fields.map Prod.fst).sum = 8 * (4 * v.parcels) := by cases v <;> simp [View.fields, View.parcels]
  rw [e, Nat.pow_mul] at h
  exact h

theorem readSR_word (mj : BitVec 6) (fn : BitVec 7) (w : SR) : readSR (View.sr mj fn w).word = .ok (.sr mj fn w) := by
  have h := View.unpack_word (.sr mj fn w)
  simp only [View.fields, List.map] at h
  simp [readSR, h]
theorem readSI_word (mj : BitVec 6) (w : SI) : readSI (View.si mj w).word = .ok (.si mj w) := by
  have h := View.unpack_word (.si mj w)
  simp only [View.fields, List.map] at h
  simp [readSI, h]
theorem readSF_word (mj : BitVec 6) (w : SF) : readSF (View.sf mj w).word = .ok (.sf mj w) := by
  have h := View.unpack_word (.sf mj w)
  simp only [View.fields, List.map] at h
  simp [readSF, h]
theorem readSC_word (mj : BitVec 6) (w : SC) : readSC (View.sc mj w).word = .ok (.sc mj w) := by
  have h := View.unpack_word (.sc mj w)
  simp only [View.fields, List.map] at h
  simp [readSC, h]
theorem readSCI_word (mj : BitVec 6) (w : SCI) : readSCI (View.sci mj w).word = .ok (.sci mj w) := by
  have h := View.unpack_word (.sci mj w)
  simp only [View.fields, List.map] at h
  simp [readSCI, h]
theorem readSB_word (mj : BitVec 6) (w : SB) : readSB (View.sb mj w).word = .ok (.sb mj w) := by
  have h := View.unpack_word (.sb mj w)
  simp only [View.fields, List.map] at h
  simp [readSB, h]
theorem readSJ_word (mj : BitVec 6) (w : SJ) : readSJ (View.sj mj w).word = .ok (.sj mj w) := by
  have h := View.unpack_word (.sj mj w)
  simp only [View.fields, List.map] at h
  simp [readSJ, h]
theorem readSU_word (mj : BitVec 6) (w : SU) : readSU (View.su mj w).word = .ok (.su mj w) := by
  have h := View.unpack_word (.su mj w)
  simp only [View.fields, List.map] at h
  simp [readSU, h]
theorem readSL_word (mj : BitVec 6) (w : SL) : readSL (View.sl mj w).word = .ok (.sl mj w) := by
  have h := View.unpack_word (.sl mj w)
  simp only [View.fields, List.map] at h
  simp [readSL, h]
theorem readSG_word (mj : BitVec 6) (w : SG) : readSG (View.sg mj w).word = .ok (.sg mj w) := by
  have h := View.unpack_word (.sg mj w)
  simp only [View.fields, List.map] at h
  simp [readSG, h]
theorem readSS_word (mj : BitVec 6) (fn : BitVec 5) (w : SS) : readSS (View.ss mj fn w).word = .ok (.ss mj fn w) := by
  have h := View.unpack_word (.ss mj fn w)
  simp only [View.fields, List.map] at h
  simp [readSS, h]
theorem readVA_word (op : BitVec 8) (w : VA) : readVA (View.va op w).word = .ok (.va op w) := by
  have h := View.unpack_word (.va op w)
  simp only [View.fields, List.map] at h
  simp [readVA, h]
theorem readME_word (op : BitVec 8) (w : ME) : readME (View.me op w).word = .ok (.me op w) := by
  have h := View.unpack_word (.me op w)
  simp only [View.fields, List.map] at h
  simp [readME, h, unlessReserved]
theorem readCP_word (op : BitVec 8) (w : CP) : readCP (View.cp op w).word = .ok (.cp op w) := by
  have h := View.unpack_word (.cp op w)
  simp only [View.fields, List.map] at h
  simp [readCP, h, unlessReserved]
theorem readCF_word (op : BitVec 8) (w : CF) : readCF (View.cf op w).word = .ok (.cf op w) := by
  have h := View.unpack_word (.cf op w)
  simp only [View.fields, List.map] at h
  simp [readCF, h, unlessReserved]
theorem readSY_word (op : BitVec 8) (w : SY) : readSY (View.sy op w).word = .ok (.sy op w) := by
  have h := View.unpack_word (.sy op w)
  simp only [View.fields, List.map] at h
  simp [readSY, h, unlessReserved]
theorem readMX_word (op : BitVec 8) (w : MX) : readMX (View.mx op w).word = .ok (.mx op w) := by
  have h := View.unpack_word (.mx op w)
  simp only [View.fields, List.map] at h
  simp [readMX, h, unlessReserved]

/-! ## Which layout a word is read with -/

theorem low_fields (a b c n : Nat) (ha : a < 4) (hb : b < 4) (hc : c < 64) :
    (a + 2 ^ 2 * (b + 2 ^ 2 * (c + 2 ^ 6 * n))) % 4 = a ∧ (a + 2 ^ 2 * (b + 2 ^ 2 * (c + 2 ^ 6 * n))) / 16 % 64 = c := by
  constructor <;> omega
theorem low_op (a c n : Nat) (ha : a < 4) (hc : c < 256) :
    (a + 2 ^ 2 * (c + 2 ^ 8 * n)) % 4 = a ∧ (a + 2 ^ 2 * (c + 2 ^ 8 * n)) / 4 % 256 = c := by
  constructor <;> omega
theorem read_sr (mj : BitVec 6) (fn : BitVec 7) (w : SR) (h : scalarLayout mj.toNat = readSR) : View.read (View.sr mj fn w).word = .ok (.sr mj fn w) := by
  obtain ⟨h1, h2⟩ := low_fields 0 w.gm.toNat mj.toNat _ (by decide) w.gm.isLt mj.isLt
  have e1 : (View.sr mj fn w).word % 4 = 0 := h1
  have e2 : (View.sr mj fn w).word / 16 % 64 = mj.toNat := h2
  rw [View.read, e1]
  simp only [readScalar, e2, h]
  exact readSR_word mj fn w
theorem read_si (mj : BitVec 6) (w : SI) (h : scalarLayout mj.toNat = readSI) : View.read (View.si mj w).word = .ok (.si mj w) := by
  obtain ⟨h1, h2⟩ := low_fields 0 w.gm.toNat mj.toNat _ (by decide) w.gm.isLt mj.isLt
  have e1 : (View.si mj w).word % 4 = 0 := h1
  have e2 : (View.si mj w).word / 16 % 64 = mj.toNat := h2
  rw [View.read, e1]
  simp only [readScalar, e2, h]
  exact readSI_word mj w
theorem read_sf (mj : BitVec 6) (w : SF) (h : scalarLayout mj.toNat = readSF) : View.read (View.sf mj w).word = .ok (.sf mj w) := by
  obtain ⟨h1, h2⟩ := low_fields 0 w.gm.toNat mj.toNat _ (by decide) w.gm.isLt mj.isLt
  have e1 : (View.sf mj w).word % 4 = 0 := h1
  have e2 : (View.sf mj w).word / 16 % 64 = mj.toNat := h2
  rw [View.read, e1]
  simp only [readScalar, e2, h]
  exact readSF_word mj w
theorem read_sc (mj : BitVec 6) (w : SC) (h : scalarLayout mj.toNat = readSC) : View.read (View.sc mj w).word = .ok (.sc mj w) := by
  obtain ⟨h1, h2⟩ := low_fields 0 w.gm.toNat mj.toNat _ (by decide) w.gm.isLt mj.isLt
  have e1 : (View.sc mj w).word % 4 = 0 := h1
  have e2 : (View.sc mj w).word / 16 % 64 = mj.toNat := h2
  rw [View.read, e1]
  simp only [readScalar, e2, h]
  exact readSC_word mj w
theorem read_sci (mj : BitVec 6) (w : SCI) (h : scalarLayout mj.toNat = readSCI) : View.read (View.sci mj w).word = .ok (.sci mj w) := by
  obtain ⟨h1, h2⟩ := low_fields 0 w.gm.toNat mj.toNat _ (by decide) w.gm.isLt mj.isLt
  have e1 : (View.sci mj w).word % 4 = 0 := h1
  have e2 : (View.sci mj w).word / 16 % 64 = mj.toNat := h2
  rw [View.read, e1]
  simp only [readScalar, e2, h]
  exact readSCI_word mj w
theorem read_sb (mj : BitVec 6) (w : SB) (h : scalarLayout mj.toNat = readSB) : View.read (View.sb mj w).word = .ok (.sb mj w) := by
  obtain ⟨h1, h2⟩ := low_fields 0 w.gm.toNat mj.toNat _ (by decide) w.gm.isLt mj.isLt
  have e1 : (View.sb mj w).word % 4 = 0 := h1
  have e2 : (View.sb mj w).word / 16 % 64 = mj.toNat := h2
  rw [View.read, e1]
  simp only [readScalar, e2, h]
  exact readSB_word mj w
theorem read_sj (mj : BitVec 6) (w : SJ) (h : scalarLayout mj.toNat = readSJ) : View.read (View.sj mj w).word = .ok (.sj mj w) := by
  obtain ⟨h1, h2⟩ := low_fields 0 w.gm.toNat mj.toNat _ (by decide) w.gm.isLt mj.isLt
  have e1 : (View.sj mj w).word % 4 = 0 := h1
  have e2 : (View.sj mj w).word / 16 % 64 = mj.toNat := h2
  rw [View.read, e1]
  simp only [readScalar, e2, h]
  exact readSJ_word mj w
theorem read_su (mj : BitVec 6) (w : SU) (h : scalarLayout mj.toNat = readSU) : View.read (View.su mj w).word = .ok (.su mj w) := by
  obtain ⟨h1, h2⟩ := low_fields 0 w.gm.toNat mj.toNat _ (by decide) w.gm.isLt mj.isLt
  have e1 : (View.su mj w).word % 4 = 0 := h1
  have e2 : (View.su mj w).word / 16 % 64 = mj.toNat := h2
  rw [View.read, e1]
  simp only [readScalar, e2, h]
  exact readSU_word mj w
theorem read_sl (mj : BitVec 6) (w : SL) (h : scalarLayout mj.toNat = readSL) : View.read (View.sl mj w).word = .ok (.sl mj w) := by
  obtain ⟨h1, h2⟩ := low_fields 0 w.gm.toNat mj.toNat _ (by decide) w.gm.isLt mj.isLt
  have e1 : (View.sl mj w).word % 4 = 0 := h1
  have e2 : (View.sl mj w).word / 16 % 64 = mj.toNat := h2
  rw [View.read, e1]
  simp only [readScalar, e2, h]
  exact readSL_word mj w
theorem read_sg (mj : BitVec 6) (w : SG) (h : scalarLayout mj.toNat = readSG) : View.read (View.sg mj w).word = .ok (.sg mj w) := by
  obtain ⟨h1, h2⟩ := low_fields 0 w.gm.toNat mj.toNat _ (by decide) w.gm.isLt mj.isLt
  have e1 : (View.sg mj w).word % 4 = 0 := h1
  have e2 : (View.sg mj w).word / 16 % 64 = mj.toNat := h2
  rw [View.read, e1]
  simp only [readScalar, e2, h]
  exact readSG_word mj w
theorem read_ss (mj : BitVec 6) (fn : BitVec 5) (w : SS) (h : scalarLayout mj.toNat = readSS) : View.read (View.ss mj fn w).word = .ok (.ss mj fn w) := by
  obtain ⟨h1, h2⟩ := low_fields 0 w.gm.toNat mj.toNat _ (by decide) w.gm.isLt mj.isLt
  have e1 : (View.ss mj fn w).word % 4 = 0 := h1
  have e2 : (View.ss mj fn w).word / 16 % 64 = mj.toNat := h2
  rw [View.read, e1]
  simp only [readScalar, e2, h]
  exact readSS_word mj fn w
theorem read_va (op : BitVec 8) (w : VA) (h : vectorLayout op.toNat = readVA) : View.read (View.va op w).word = .ok (.va op w) := by
  obtain ⟨h1, h2⟩ := low_op 1 op.toNat _ (by decide) op.isLt
  have e1 : (View.va op w).word % 4 = 1 := h1
  have e2 : (View.va op w).word / 4 % 256 = op.toNat := h2
  rw [View.read, e1]
  simp only [readVector, e2, h]
  exact readVA_word op w
theorem read_me (op : BitVec 8) (w : ME) (h : vectorLayout op.toNat = readME) : View.read (View.me op w).word = .ok (.me op w) := by
  obtain ⟨h1, h2⟩ := low_op 1 op.toNat _ (by decide) op.isLt
  have e1 : (View.me op w).word % 4 = 1 := h1
  have e2 : (View.me op w).word / 4 % 256 = op.toNat := h2
  rw [View.read, e1]
  simp only [readVector, e2, h]
  exact readME_word op w
theorem read_cp (op : BitVec 8) (w : CP) (h : vectorLayout op.toNat = readCP) : View.read (View.cp op w).word = .ok (.cp op w) := by
  obtain ⟨h1, h2⟩ := low_op 1 op.toNat _ (by decide) op.isLt
  have e1 : (View.cp op w).word % 4 = 1 := h1
  have e2 : (View.cp op w).word / 4 % 256 = op.toNat := h2
  rw [View.read, e1]
  simp only [readVector, e2, h]
  exact readCP_word op w
theorem read_cf (op : BitVec 8) (w : CF) (h : vectorLayout op.toNat = readCF) : View.read (View.cf op w).word = .ok (.cf op w) := by
  obtain ⟨h1, h2⟩ := low_op 1 op.toNat _ (by decide) op.isLt
  have e1 : (View.cf op w).word % 4 = 1 := h1
  have e2 : (View.cf op w).word / 4 % 256 = op.toNat := h2
  rw [View.read, e1]
  simp only [readVector, e2, h]
  exact readCF_word op w
theorem read_sy (op : BitVec 8) (w : SY) (h : vectorLayout op.toNat = readSY) : View.read (View.sy op w).word = .ok (.sy op w) := by
  obtain ⟨h1, h2⟩ := low_op 1 op.toNat _ (by decide) op.isLt
  have e1 : (View.sy op w).word % 4 = 1 := h1
  have e2 : (View.sy op w).word / 4 % 256 = op.toNat := h2
  rw [View.read, e1]
  simp only [readVector, e2, h]
  exact readSY_word op w
theorem read_mx (op : BitVec 8) (w : MX) : View.read (View.mx op w).word = .ok (.mx op w) := by
  obtain ⟨h1, h2⟩ := low_op 2 op.toNat _ (by decide) op.isLt
  have e1 : (View.mx op w).word % 4 = 2 := h1
  rw [View.read, e1]
  exact readMX_word op w

end Sys2Proof
end

