-- ==== Sys2Proof/Laws/Decode.lean ====
section
/-! SUPPORT. Decoding the bytes of an encoded word gives it back (R32). -/
namespace Sys2Proof

theorem View.parcelsOf_word (v : View) {w : View} (h : View.read v.word = .ok w) : parcelsOf (v.word % 4) = v.parcels := by
  have hf := v.unpack_word
  cases v <;> (simp only [View.fields, List.map, unpack, List.cons.injEq, Nat.reducePow] at hf; simp only [hf.1]; rfl)

theorem headNat (n v : Nat) (rest : List Byte) : ∃ b r, bytesOfNat (n + 1) v ++ rest = b :: r ∧ b.toNat % 4 = v % 4 := by
  refine ⟨_, _, rfl, ?_⟩
  simp only [BitVec.toNat_ofNat, show (2 : Nat) ^ 8 = 256 from rfl]
  omega

/-- The word at the head of the bytes of a word. -/
theorem takeWord_bytes (v : View) (h : View.read v.word = .ok v) (rest : List Byte) :
    takeWord (bytesOfNat (4 * v.parcels) v.word ++ rest) = .ok (v.word, rest) := by
  have hp := v.parcelsOf_word h
  have hl := bytesOfNat_length (4 * v.parcels) v.word
  have hpos : 0 < v.parcels := by cases v <;> simp [View.parcels]
  have hn : natOfBytes (bytesOfNat (4 * v.parcels) v.word) = v.word := by
    rw [natOfBytes_bytesOfNat, Nat.mod_eq_of_lt v.word_lt]
  have ⟨b, r, e, hb⟩ := headNat (4 * v.parcels - 1) v.word rest
  rw [Nat.sub_add_cancel (by omega)] at e
  have ht : (bytesOfNat (4 * v.parcels) v.word ++ rest).take (4 * v.parcels) = bytesOfNat (4 * v.parcels) v.word := by
    rw [List.take_append_of_le_length (by omega), List.take_of_length_le (by omega)]
  have hd : (bytesOfNat (4 * v.parcels) v.word ++ rest).drop (4 * v.parcels) = rest := by
    rw [List.drop_append_of_le_length (by omega), List.drop_of_length_le (by omega), List.nil_append]
  have hlen : (bytesOfNat (4 * v.parcels) v.word ++ rest).length = 4 * v.parcels + rest.length := by
    rw [List.length_append, hl]
  rw [e] at ht hd hlen ⊢
  have hk : (v.parcels == 0) = false := by simp; omega
  simp only [takeWord, hb, hp, hk, hlen, ht, hd, hn]
  simp

/-- Decoding gives an instruction back when its word reads back and belongs to it. -/
theorem decode_encode_of (i : Instr) (v : AnyWord) (h1 : i.word? = some v) (h2 : v.instr = i)
    (h3 : View.read v.view.word = .ok v.view) (h4 : v.legal = true → v.view.anyWord = some v) (hl : i.legal = true)
    (rest : List Byte) : decode (encode i ++ rest) = .ok (i, rest) := by
  have hv : v.legal = true := by simpa [Instr.legal, h1] using hl
  simp only [encode, h1, decode, takeWord_bytes v.view h3 rest, decodeNat, h3, h4 hv, hv]
  simp [h2]

end Sys2Proof
end

