-- ==== Sys2Proof/Laws/State.lean ====
section
/-! SUPPORT. What reading a part of the state gives after an update of another part or of the same: one lemma for each field and
update. -/
namespace Sys2Proof

@[simp] theorem Four.get_set {α : Type} (f : Four α) (p : Strand) (v : α) : (f.set p v).get p = v := by cases p <;> rfl
theorem Four.get_set_ne {α : Type} (f : Four α) {p q : Strand} (v : α) (h : q ≠ p) : (f.set p v).get q = f.get q := by
  cases p <;> cases q <;> first | rfl | exact absurd rfl h
@[simp] theorem Three.get_set {α : Type} (f : Three α) (x : Ctx) (v : α) : (f.set x v).get x = v := by cases x <;> rfl
theorem Three.get_set_ne {α : Type} (f : Three α) {x y : Ctx} (v : α) (h : y ≠ x) : (f.set x v).get y = f.get y := by
  cases x <;> cases y <;> first | rfl | exact absurd rfl h
@[simp] theorem Four.get_map {α β : Type} (f : Four α) (g : Strand → α → β) (p : Strand) : (f.map g).get p = g p (f.get p) := by
  cases p <;> rfl

namespace Machine

/-! ## Reaching a core, a context, a strand -/

@[simp] theorem State.core_modCore (s : State) (c : CoreId) (f : CoreSt → CoreSt) : (s.modCore c f).core c = f (s.core c) := by
  simp [State.core, State.modCore, State.setCore]
theorem State.core_modCore_ne (s : State) {c d : CoreId} (f : CoreSt → CoreSt) (h : d ≠ c) : (s.modCore c f).core d = s.core d := by
  have h' : c.val ≠ d.val := fun e => h (Fin.ext e.symm)
  simp [State.core, State.modCore, State.setCore, h']
@[simp] theorem CoreSt.ctx_modCtx (k : CoreSt) (x : Ctx) (f : Context → Context) : (k.modCtx x f).ctx x = f (k.ctx x) := by
  simp [CoreSt.ctx, CoreSt.modCtx]
theorem CoreSt.ctx_modCtx_ne (k : CoreSt) {x y : Ctx} (f : Context → Context) (h : y ≠ x) : (k.modCtx x f).ctx y = k.ctx y := by
  simp [CoreSt.ctx, CoreSt.modCtx, Three.get_set_ne _ _ h]
@[simp] theorem Context.strand_modStrand (k : Context) (p : Strand) (f : StrandSt → StrandSt) :
    (k.modStrand p f).strand p = f (k.strand p) := by
  simp [Context.strand, Context.modStrand]
theorem Context.strand_modStrand_ne (k : Context) {p q : Strand} (f : StrandSt → StrandSt) (h : q ≠ p) :
    (k.modStrand p f).strand q = k.strand q := by
  simp [Context.strand, Context.modStrand, Four.get_set_ne _ _ h]
@[simp] theorem State.ctx_modCtx (s : State) (c : CoreId) (x : Ctx) (f : Context → Context) : (s.modCtx c x f).ctx c x = f (s.ctx c x) := by
  simp [State.ctx, State.modCtx]
theorem State.ctx_modCtx_ne (s : State) {c d : CoreId} {x y : Ctx} (f : Context → Context) (h : ¬(d = c ∧ y = x)) :
    (s.modCtx c x f).ctx d y = s.ctx d y := by
  by_cases e : d = c
  · subst e
    have hy : y ≠ x := fun e => h ⟨rfl, e⟩
    simp [State.ctx, State.modCtx, CoreSt.ctx_modCtx_ne _ _ hy]
  · simp [State.ctx, State.modCtx, State.core_modCore_ne _ _ e]
@[simp] theorem State.strand_modStrand (s : State) (c : CoreId) (x : Ctx) (p : Strand) (f : StrandSt → StrandSt) :
    (s.modStrand c x p f).strand c x p = f (s.strand c x p) := by
  simp [State.strand, State.modStrand]
theorem State.strand_modStrand_ne (s : State) {c d : CoreId} {x y : Ctx} {p q : Strand} (f : StrandSt → StrandSt)
    (h : ¬(d = c ∧ y = x ∧ q = p)) : (s.modStrand c x p f).strand d y q = s.strand d y q := by
  by_cases e : d = c ∧ y = x
  · obtain ⟨rfl, rfl⟩ := e
    have hq : q ≠ p := fun e => h ⟨rfl, rfl, e⟩
    simp [State.strand, State.modStrand, Context.strand_modStrand_ne _ _ hq]
  · simp [State.strand, State.modStrand, State.ctx_modCtx_ne _ _ e]
@[simp] theorem State.core_setRes (s : State) (r : SlotRes) (c : CoreId) : (s.setRes r).core c = s.core c := rfl
@[simp] theorem State.ctx_setRes (s : State) (r : SlotRes) (c : CoreId) (x : Ctx) : (s.setRes r).ctx c x = s.ctx c x := rfl
@[simp] theorem State.strand_setRes (s : State) (r : SlotRes) (c : CoreId) (x : Ctx) (p : Strand) :
    (s.setRes r).strand c x p = s.strand c x p := rfl
@[simp] theorem State.here_setRes (s : State) (r : SlotRes) : (s.setRes r).here = s.here := rfl
@[simp] theorem State.me_setRes (s : State) (r : SlotRes) : (s.setRes r).me = s.me := rfl
@[simp] theorem State.rd_setRes (s : State) (r : SlotRes) (n : GReg) : (s.setRes r).rd n = s.rd n := rfl
@[simp] theorem State.here_modHere (s : State) (f : Context → Context) : (s.modHere f).here = f s.here := by
  have e : (s.modHere f).cur = s.cur := rfl
  simp only [State.here, e]; exact State.ctx_modCtx s _ _ f
@[simp] theorem State.me_modMe (s : State) (f : StrandSt → StrandSt) : (s.modMe f).me = f s.me := by
  have e : (s.modMe f).cur = s.cur := rfl
  simp only [State.me, State.modMe, State.here_modHere]
  exact Context.strand_modStrand _ _ _

/-! ## What an update leaves alone -/

@[simp] theorem State.modCore_mem (s : State) (c : CoreId) (f : CoreSt → CoreSt) : (s.modCore c f).mem = s.mem := rfl
@[simp] theorem State.modCore_hbm (s : State) (c : CoreId) (f : CoreSt → CoreSt) : (s.modCore c f).hbm = s.hbm := rfl
@[simp] theorem State.modCore_parts (s : State) (c : CoreId) (f : CoreSt → CoreSt) : (s.modCore c f).parts = s.parts := rfl
@[simp] theorem State.modCore_dies (s : State) (c : CoreId) (f : CoreSt → CoreSt) : (s.modCore c f).dies = s.dies := rfl
@[simp] theorem State.modCore_clusters (s : State) (c : CoreId) (f : CoreSt → CoreSt) : (s.modCore c f).clusters = s.clusters := rfl
@[simp] theorem State.modCore_pkg (s : State) (c : CoreId) (f : CoreSt → CoreSt) : (s.modCore c f).pkg = s.pkg := rfl
@[simp] theorem State.modCore_cur (s : State) (c : CoreId) (f : CoreSt → CoreSt) : (s.modCore c f).cur = s.cur := rfl
@[simp] theorem State.modCore_agenda (s : State) (c : CoreId) (f : CoreSt → CoreSt) : (s.modCore c f).agenda = s.agenda := rfl
@[simp] theorem State.modCore_turn (s : State) (c : CoreId) (f : CoreSt → CoreSt) : (s.modCore c f).turn = s.turn := rfl
@[simp] theorem State.modCore_draws (s : State) (c : CoreId) (f : CoreSt → CoreSt) : (s.modCore c f).draws = s.draws := rfl
@[simp] theorem State.modCtx_mem (s : State) (c : CoreId) (x : Ctx) (f : Context → Context) : (s.modCtx c x f).mem = s.mem := rfl
@[simp] theorem State.modCtx_hbm (s : State) (c : CoreId) (x : Ctx) (f : Context → Context) : (s.modCtx c x f).hbm = s.hbm := rfl
@[simp] theorem State.modCtx_parts (s : State) (c : CoreId) (x : Ctx) (f : Context → Context) : (s.modCtx c x f).parts = s.parts := rfl
@[simp] theorem State.modCtx_dies (s : State) (c : CoreId) (x : Ctx) (f : Context → Context) : (s.modCtx c x f).dies = s.dies := rfl
@[simp] theorem State.modCtx_clusters (s : State) (c : CoreId) (x : Ctx) (f : Context → Context) : (s.modCtx c x f).clusters = s.clusters := rfl
@[simp] theorem State.modCtx_pkg (s : State) (c : CoreId) (x : Ctx) (f : Context → Context) : (s.modCtx c x f).pkg = s.pkg := rfl
@[simp] theorem State.modCtx_cur (s : State) (c : CoreId) (x : Ctx) (f : Context → Context) : (s.modCtx c x f).cur = s.cur := rfl
@[simp] theorem State.modCtx_agenda (s : State) (c : CoreId) (x : Ctx) (f : Context → Context) : (s.modCtx c x f).agenda = s.agenda := rfl
@[simp] theorem State.modCtx_turn (s : State) (c : CoreId) (x : Ctx) (f : Context → Context) : (s.modCtx c x f).turn = s.turn := rfl
@[simp] theorem State.modCtx_draws (s : State) (c : CoreId) (x : Ctx) (f : Context → Context) : (s.modCtx c x f).draws = s.draws := rfl
@[simp] theorem State.modStrand_mem (s : State) (c : CoreId) (x : Ctx) (p : Strand) (f : StrandSt → StrandSt) : (s.modStrand c x p f).mem = s.mem := rfl
@[simp] theorem State.modStrand_hbm (s : State) (c : CoreId) (x : Ctx) (p : Strand) (f : StrandSt → StrandSt) : (s.modStrand c x p f).hbm = s.hbm := rfl
@[simp] theorem State.modStrand_parts (s : State) (c : CoreId) (x : Ctx) (p : Strand) (f : StrandSt → StrandSt) : (s.modStrand c x p f).parts = s.parts := rfl
@[simp] theorem State.modStrand_dies (s : State) (c : CoreId) (x : Ctx) (p : Strand) (f : StrandSt → StrandSt) : (s.modStrand c x p f).dies = s.dies := rfl
@[simp] theorem State.modStrand_clusters (s : State) (c : CoreId) (x : Ctx) (p : Strand) (f : StrandSt → StrandSt) : (s.modStrand c x p f).clusters = s.clusters := rfl
@[simp] theorem State.modStrand_pkg (s : State) (c : CoreId) (x : Ctx) (p : Strand) (f : StrandSt → StrandSt) : (s.modStrand c x p f).pkg = s.pkg := rfl
@[simp] theorem State.modStrand_cur (s : State) (c : CoreId) (x : Ctx) (p : Strand) (f : StrandSt → StrandSt) : (s.modStrand c x p f).cur = s.cur := rfl
@[simp] theorem State.modStrand_agenda (s : State) (c : CoreId) (x : Ctx) (p : Strand) (f : StrandSt → StrandSt) : (s.modStrand c x p f).agenda = s.agenda := rfl
@[simp] theorem State.modStrand_turn (s : State) (c : CoreId) (x : Ctx) (p : Strand) (f : StrandSt → StrandSt) : (s.modStrand c x p f).turn = s.turn := rfl
@[simp] theorem State.modStrand_draws (s : State) (c : CoreId) (x : Ctx) (p : Strand) (f : StrandSt → StrandSt) : (s.modStrand c x p f).draws = s.draws := rfl
@[simp] theorem State.modHere_mem (s : State) (f : Context → Context) : (s.modHere f).mem = s.mem := rfl
@[simp] theorem State.modHere_hbm (s : State) (f : Context → Context) : (s.modHere f).hbm = s.hbm := rfl
@[simp] theorem State.modHere_parts (s : State) (f : Context → Context) : (s.modHere f).parts = s.parts := rfl
@[simp] theorem State.modHere_dies (s : State) (f : Context → Context) : (s.modHere f).dies = s.dies := rfl
@[simp] theorem State.modHere_clusters (s : State) (f : Context → Context) : (s.modHere f).clusters = s.clusters := rfl
@[simp] theorem State.modHere_pkg (s : State) (f : Context → Context) : (s.modHere f).pkg = s.pkg := rfl
@[simp] theorem State.modHere_cur (s : State) (f : Context → Context) : (s.modHere f).cur = s.cur := rfl
@[simp] theorem State.modHere_agenda (s : State) (f : Context → Context) : (s.modHere f).agenda = s.agenda := rfl
@[simp] theorem State.modHere_turn (s : State) (f : Context → Context) : (s.modHere f).turn = s.turn := rfl
@[simp] theorem State.modHere_draws (s : State) (f : Context → Context) : (s.modHere f).draws = s.draws := rfl
@[simp] theorem State.modMe_mem (s : State) (f : StrandSt → StrandSt) : (s.modMe f).mem = s.mem := rfl
@[simp] theorem State.modMe_hbm (s : State) (f : StrandSt → StrandSt) : (s.modMe f).hbm = s.hbm := rfl
@[simp] theorem State.modMe_parts (s : State) (f : StrandSt → StrandSt) : (s.modMe f).parts = s.parts := rfl
@[simp] theorem State.modMe_dies (s : State) (f : StrandSt → StrandSt) : (s.modMe f).dies = s.dies := rfl
@[simp] theorem State.modMe_clusters (s : State) (f : StrandSt → StrandSt) : (s.modMe f).clusters = s.clusters := rfl
@[simp] theorem State.modMe_pkg (s : State) (f : StrandSt → StrandSt) : (s.modMe f).pkg = s.pkg := rfl
@[simp] theorem State.modMe_cur (s : State) (f : StrandSt → StrandSt) : (s.modMe f).cur = s.cur := rfl
@[simp] theorem State.modMe_agenda (s : State) (f : StrandSt → StrandSt) : (s.modMe f).agenda = s.agenda := rfl
@[simp] theorem State.modMe_turn (s : State) (f : StrandSt → StrandSt) : (s.modMe f).turn = s.turn := rfl
@[simp] theorem State.modMe_draws (s : State) (f : StrandSt → StrandSt) : (s.modMe f).draws = s.draws := rfl
@[simp] theorem State.setRes_cores (s : State) (r : SlotRes) : (s.setRes r).cores = s.cores := rfl
@[simp] theorem State.setRes_mem (s : State) (r : SlotRes) : (s.setRes r).mem = s.mem := rfl
@[simp] theorem State.setRes_hbm (s : State) (r : SlotRes) : (s.setRes r).hbm = s.hbm := rfl
@[simp] theorem State.setRes_parts (s : State) (r : SlotRes) : (s.setRes r).parts = s.parts := rfl
@[simp] theorem State.setRes_dies (s : State) (r : SlotRes) : (s.setRes r).dies = s.dies := rfl
@[simp] theorem State.setRes_clusters (s : State) (r : SlotRes) : (s.setRes r).clusters = s.clusters := rfl
@[simp] theorem State.setRes_pkg (s : State) (r : SlotRes) : (s.setRes r).pkg = s.pkg := rfl
@[simp] theorem State.setRes_agenda (s : State) (r : SlotRes) : (s.setRes r).agenda = s.agenda := rfl
@[simp] theorem State.setRes_turn (s : State) (r : SlotRes) : (s.setRes r).turn = s.turn := rfl
@[simp] theorem State.setRes_draws (s : State) (r : SlotRes) : (s.setRes r).draws = s.draws := rfl
@[simp] theorem State.modPart_cores (s : State) (p : PartId) (f : Partition → Partition) : (s.modPart p f).cores = s.cores := rfl
@[simp] theorem State.modPart_mem (s : State) (p : PartId) (f : Partition → Partition) : (s.modPart p f).mem = s.mem := rfl
@[simp] theorem State.modPart_hbm (s : State) (p : PartId) (f : Partition → Partition) : (s.modPart p f).hbm = s.hbm := rfl
@[simp] theorem State.modPart_dies (s : State) (p : PartId) (f : Partition → Partition) : (s.modPart p f).dies = s.dies := rfl
@[simp] theorem State.modPart_clusters (s : State) (p : PartId) (f : Partition → Partition) : (s.modPart p f).clusters = s.clusters := rfl
@[simp] theorem State.modPart_pkg (s : State) (p : PartId) (f : Partition → Partition) : (s.modPart p f).pkg = s.pkg := rfl
@[simp] theorem State.modPart_cur (s : State) (p : PartId) (f : Partition → Partition) : (s.modPart p f).cur = s.cur := rfl
@[simp] theorem State.modPart_agenda (s : State) (p : PartId) (f : Partition → Partition) : (s.modPart p f).agenda = s.agenda := rfl
@[simp] theorem State.modPart_turn (s : State) (p : PartId) (f : Partition → Partition) : (s.modPart p f).turn = s.turn := rfl
@[simp] theorem State.modPart_draws (s : State) (p : PartId) (f : Partition → Partition) : (s.modPart p f).draws = s.draws := rfl
@[simp] theorem State.modDie_cores (s : State) (d : DieId) (f : Die → Die) : (s.modDie d f).cores = s.cores := rfl
@[simp] theorem State.modDie_mem (s : State) (d : DieId) (f : Die → Die) : (s.modDie d f).mem = s.mem := rfl
@[simp] theorem State.modDie_hbm (s : State) (d : DieId) (f : Die → Die) : (s.modDie d f).hbm = s.hbm := rfl
@[simp] theorem State.modDie_parts (s : State) (d : DieId) (f : Die → Die) : (s.modDie d f).parts = s.parts := rfl
@[simp] theorem State.modDie_clusters (s : State) (d : DieId) (f : Die → Die) : (s.modDie d f).clusters = s.clusters := rfl
@[simp] theorem State.modDie_pkg (s : State) (d : DieId) (f : Die → Die) : (s.modDie d f).pkg = s.pkg := rfl
@[simp] theorem State.modDie_cur (s : State) (d : DieId) (f : Die → Die) : (s.modDie d f).cur = s.cur := rfl
@[simp] theorem State.modDie_agenda (s : State) (d : DieId) (f : Die → Die) : (s.modDie d f).agenda = s.agenda := rfl
@[simp] theorem State.modDie_turn (s : State) (d : DieId) (f : Die → Die) : (s.modDie d f).turn = s.turn := rfl
@[simp] theorem State.modDie_draws (s : State) (d : DieId) (f : Die → Die) : (s.modDie d f).draws = s.draws := rfl
@[simp] theorem State.modPkg_cores (s : State) (f : Pkg → Pkg) : (s.modPkg f).cores = s.cores := rfl
@[simp] theorem State.modPkg_mem (s : State) (f : Pkg → Pkg) : (s.modPkg f).mem = s.mem := rfl
@[simp] theorem State.modPkg_hbm (s : State) (f : Pkg → Pkg) : (s.modPkg f).hbm = s.hbm := rfl
@[simp] theorem State.modPkg_parts (s : State) (f : Pkg → Pkg) : (s.modPkg f).parts = s.parts := rfl
@[simp] theorem State.modPkg_dies (s : State) (f : Pkg → Pkg) : (s.modPkg f).dies = s.dies := rfl
@[simp] theorem State.modPkg_clusters (s : State) (f : Pkg → Pkg) : (s.modPkg f).clusters = s.clusters := rfl
@[simp] theorem State.modPkg_cur (s : State) (f : Pkg → Pkg) : (s.modPkg f).cur = s.cur := rfl
@[simp] theorem State.modPkg_agenda (s : State) (f : Pkg → Pkg) : (s.modPkg f).agenda = s.agenda := rfl
@[simp] theorem State.modPkg_turn (s : State) (f : Pkg → Pkg) : (s.modPkg f).turn = s.turn := rfl
@[simp] theorem State.modPkg_draws (s : State) (f : Pkg → Pkg) : (s.modPkg f).draws = s.draws := rfl
@[simp] theorem State.modCluster_cores (s : State) (k : ClusterId) (f : Cluster → Cluster) : (s.modCluster k f).cores = s.cores := rfl
@[simp] theorem State.modCluster_mem (s : State) (k : ClusterId) (f : Cluster → Cluster) : (s.modCluster k f).mem = s.mem := rfl
@[simp] theorem State.modCluster_hbm (s : State) (k : ClusterId) (f : Cluster → Cluster) : (s.modCluster k f).hbm = s.hbm := rfl
@[simp] theorem State.modCluster_parts (s : State) (k : ClusterId) (f : Cluster → Cluster) : (s.modCluster k f).parts = s.parts := rfl
@[simp] theorem State.modCluster_dies (s : State) (k : ClusterId) (f : Cluster → Cluster) : (s.modCluster k f).dies = s.dies := rfl
@[simp] theorem State.modCluster_pkg (s : State) (k : ClusterId) (f : Cluster → Cluster) : (s.modCluster k f).pkg = s.pkg := rfl
@[simp] theorem State.modCluster_cur (s : State) (k : ClusterId) (f : Cluster → Cluster) : (s.modCluster k f).cur = s.cur := rfl
@[simp] theorem State.modCluster_agenda (s : State) (k : ClusterId) (f : Cluster → Cluster) : (s.modCluster k f).agenda = s.agenda := rfl
@[simp] theorem State.modCluster_turn (s : State) (k : ClusterId) (f : Cluster → Cluster) : (s.modCluster k f).turn = s.turn := rfl
@[simp] theorem State.modCluster_draws (s : State) (k : ClusterId) (f : Cluster → Cluster) : (s.modCluster k f).draws = s.draws := rfl
@[simp] theorem State.modPosition_cores (s : State) (c : CoreId) (f : Position → Position) : (s.modPosition c f).cores = s.cores := rfl
@[simp] theorem State.modPosition_mem (s : State) (c : CoreId) (f : Position → Position) : (s.modPosition c f).mem = s.mem := rfl
@[simp] theorem State.modPosition_hbm (s : State) (c : CoreId) (f : Position → Position) : (s.modPosition c f).hbm = s.hbm := rfl
@[simp] theorem State.modPosition_parts (s : State) (c : CoreId) (f : Position → Position) : (s.modPosition c f).parts = s.parts := rfl
@[simp] theorem State.modPosition_dies (s : State) (c : CoreId) (f : Position → Position) : (s.modPosition c f).dies = s.dies := rfl
@[simp] theorem State.modPosition_pkg (s : State) (c : CoreId) (f : Position → Position) : (s.modPosition c f).pkg = s.pkg := rfl
@[simp] theorem State.modPosition_cur (s : State) (c : CoreId) (f : Position → Position) : (s.modPosition c f).cur = s.cur := rfl
@[simp] theorem State.modPosition_agenda (s : State) (c : CoreId) (f : Position → Position) : (s.modPosition c f).agenda = s.agenda := rfl
@[simp] theorem State.modPosition_turn (s : State) (c : CoreId) (f : Position → Position) : (s.modPosition c f).turn = s.turn := rfl
@[simp] theorem State.modPosition_draws (s : State) (c : CoreId) (f : Position → Position) : (s.modPosition c f).draws = s.draws := rfl
@[simp] theorem State.setEntry_cores (s : State) (e pte : Nat) : (s.setEntry e pte).cores = s.cores := rfl
@[simp] theorem State.setEntry_hbm (s : State) (e pte : Nat) : (s.setEntry e pte).hbm = s.hbm := rfl
@[simp] theorem State.setEntry_parts (s : State) (e pte : Nat) : (s.setEntry e pte).parts = s.parts := rfl
@[simp] theorem State.setEntry_dies (s : State) (e pte : Nat) : (s.setEntry e pte).dies = s.dies := rfl
@[simp] theorem State.setEntry_clusters (s : State) (e pte : Nat) : (s.setEntry e pte).clusters = s.clusters := rfl
@[simp] theorem State.setEntry_pkg (s : State) (e pte : Nat) : (s.setEntry e pte).pkg = s.pkg := rfl
@[simp] theorem State.setEntry_cur (s : State) (e pte : Nat) : (s.setEntry e pte).cur = s.cur := rfl
@[simp] theorem State.setEntry_agenda (s : State) (e pte : Nat) : (s.setEntry e pte).agenda = s.agenda := rfl
@[simp] theorem State.setEntry_turn (s : State) (e pte : Nat) : (s.setEntry e pte).turn = s.turn := rfl
@[simp] theorem State.setEntry_draws (s : State) (e pte : Nat) : (s.setEntry e pte).draws = s.draws := rfl
@[simp] theorem State.setRes_cur_core (s : State) (r : SlotRes) : (s.setRes r).cur.core = s.cur.core := rfl
@[simp] theorem State.setRes_cur_ctx (s : State) (r : SlotRes) : (s.setRes r).cur.ctx = s.cur.ctx := rfl
@[simp] theorem State.setRes_cur_strand (s : State) (r : SlotRes) : (s.setRes r).cur.strand = s.cur.strand := rfl
@[simp] theorem State.setRes_cur_hdr (s : State) (r : SlotRes) : (s.setRes r).cur.hdr = s.cur.hdr := rfl
@[simp] theorem State.setRes_cur_len (s : State) (r : SlotRes) : (s.setRes r).cur.len = s.cur.len := rfl
@[simp] theorem State.setRes_cur_joint (s : State) (r : SlotRes) : (s.setRes r).cur.joint = s.cur.joint := rfl
@[simp] theorem State.setRes_cur_sqd (s : State) (r : SlotRes) : (s.setRes r).cur.sqd = s.cur.sqd := rfl
@[simp] theorem State.setRes_cur_at_ (s : State) (r : SlotRes) : (s.setRes r).cur.at_ = s.cur.at_ := rfl
@[simp] theorem State.setRes_cur_xword (s : State) (r : SlotRes) : (s.setRes r).cur.xword = s.cur.xword := rfl
@[simp] theorem State.setRes_cur_carried (s : State) (r : SlotRes) : (s.setRes r).cur.carried = s.cur.carried := rfl
@[simp] theorem State.setRes_cur_joined (s : State) (r : SlotRes) : (s.setRes r).cur.joined = s.cur.joined := rfl
@[simp] theorem State.setRes_cur_ticket (s : State) (r : SlotRes) : (s.setRes r).cur.ticket = s.cur.ticket := rfl
@[simp] theorem State.setRes_cur_serial (s : State) (r : SlotRes) : (s.setRes r).cur.serial = s.cur.serial := rfl
@[simp] theorem State.setRes_cur_res (s : State) (r : SlotRes) : (s.setRes r).cur.res = r := rfl
@[simp] theorem CoreSt.modCtx_active (k : CoreSt) (x : Ctx) (f : Context → Context) : (k.modCtx x f).active = k.active := rfl
@[simp] theorem CoreSt.modCtx_lstore (k : CoreSt) (x : Ctx) (f : Context → Context) : (k.modCtx x f).lstore = k.lstore := rfl
@[simp] theorem CoreSt.modCtx_astore (k : CoreSt) (x : Ctx) (f : Context → Context) : (k.modCtx x f).astore = k.astore := rfl
@[simp] theorem CoreSt.modCtx_waitList (k : CoreSt) (x : Ctx) (f : Context → Context) : (k.modCtx x f).waitList = k.waitList := rfl
@[simp] theorem CoreSt.modCtx_arrivals (k : CoreSt) (x : Ctx) (f : Context → Context) : (k.modCtx x f).arrivals = k.arrivals := rfl
@[simp] theorem CoreSt.modCtx_fwCredit (k : CoreSt) (x : Ctx) (f : Context → Context) : (k.modCtx x f).fwCredit = k.fwCredit := rfl
@[simp] theorem CoreSt.modCtx_fwD (k : CoreSt) (x : Ctx) (f : Context → Context) : (k.modCtx x f).fwD = k.fwD := rfl
@[simp] theorem CoreSt.modCtx_freeze (k : CoreSt) (x : Ctx) (f : Context → Context) : (k.modCtx x f).freeze = k.freeze := rfl
@[simp] theorem CoreSt.modCtx_freezeCount (k : CoreSt) (x : Ctx) (f : Context → Context) : (k.modCtx x f).freezeCount = k.freezeCount := rfl
@[simp] theorem CoreSt.modCtx_tar (k : CoreSt) (x : Ctx) (f : Context → Context) : (k.modCtx x f).tar = k.tar := rfl
@[simp] theorem CoreSt.modCtx_temp (k : CoreSt) (x : Ctx) (f : Context → Context) : (k.modCtx x f).temp = k.temp := rfl
@[simp] theorem CoreSt.modCtx_energy (k : CoreSt) (x : Ctx) (f : Context → Context) : (k.modCtx x f).energy = k.energy := rfl
@[simp] theorem CoreSt.modCtx_throttled (k : CoreSt) (x : Ctx) (f : Context → Context) : (k.modCtx x f).throttled = k.throttled := rfl
@[simp] theorem CoreSt.modCtx_hot (k : CoreSt) (x : Ctx) (f : Context → Context) : (k.modCtx x f).hot = k.hot := rfl
@[simp] theorem CoreSt.modCtx_serving (k : CoreSt) (x : Ctx) (f : Context → Context) : (k.modCtx x f).serving = k.serving := rfl
@[simp] theorem CoreSt.modCtx_trapQueue (k : CoreSt) (x : Ctx) (f : Context → Context) : (k.modCtx x f).trapQueue = k.trapQueue := rfl
@[simp] theorem CoreSt.modCtx_fwHalted (k : CoreSt) (x : Ctx) (f : Context → Context) : (k.modCtx x f).fwHalted = k.fwHalted := rfl
@[simp] theorem CoreSt.modCtx_fwDir (k : CoreSt) (x : Ctx) (f : Context → Context) : (k.modCtx x f).fwDir = k.fwDir := rfl
@[simp] theorem CoreSt.modCtx_boundary (k : CoreSt) (x : Ctx) (f : Context → Context) : (k.modCtx x f).boundary = k.boundary := rfl
@[simp] theorem CoreSt.modCtx_now (k : CoreSt) (x : Ctx) (f : Context → Context) : (k.modCtx x f).now = k.now := rfl
@[simp] theorem CoreSt.modCtx_tokens (k : CoreSt) (x : Ctx) (f : Context → Context) : (k.modCtx x f).tokens = k.tokens := rfl
@[simp] theorem CoreSt.modCtx_drew (k : CoreSt) (x : Ctx) (f : Context → Context) : (k.modCtx x f).drew = k.drew := rfl
@[simp] theorem CoreSt.modCtx_save (k : CoreSt) (x : Ctx) (f : Context → Context) : (k.modCtx x f).save = k.save := rfl
@[simp] theorem CoreSt.modCtx_later (k : CoreSt) (x : Ctx) (f : Context → Context) : (k.modCtx x f).later = k.later := rfl
@[simp] theorem CoreSt.modCtx_moving (k : CoreSt) (x : Ctx) (f : Context → Context) : (k.modCtx x f).moving = k.moving := rfl
@[simp] theorem CoreSt.modCtx_named (k : CoreSt) (x : Ctx) (f : Context → Context) : (k.modCtx x f).named = k.named := rfl
@[simp] theorem CoreSt.modCtx_droops (k : CoreSt) (x : Ctx) (f : Context → Context) : (k.modCtx x f).droops = k.droops := rfl
@[simp] theorem CoreSt.modCtx_restored (k : CoreSt) (x : Ctx) (f : Context → Context) : (k.modCtx x f).restored = k.restored := rfl
@[simp] theorem CoreSt.modCtx_outgoing (k : CoreSt) (x : Ctx) (f : Context → Context) : (k.modCtx x f).outgoing = k.outgoing := rfl
@[simp] theorem CoreSt.modCtx_tlb (k : CoreSt) (x : Ctx) (f : Context → Context) : (k.modCtx x f).tlb = k.tlb := rfl
@[simp] theorem Context.modStrand_cycle (k : Context) (p : Strand) (f : StrandSt → StrandSt) :
    (k.modStrand p f).cycle = k.cycle := rfl
@[simp] theorem Context.modStrand_febDue (k : Context) (p : Strand) (f : StrandSt → StrandSt) :
    (k.modStrand p f).febDue = k.febDue := rfl
@[simp] theorem Context.modStrand_yielding (k : Context) (p : Strand) (f : StrandSt → StrandSt) :
    (k.modStrand p f).yielding = k.yielding := rfl
@[simp] theorem Context.modStrand_dbg (k : Context) (p : Strand) (f : StrandSt → StrandSt) :
    (k.modStrand p f).dbg = k.dbg := rfl
@[simp] theorem Context.modStrand_streams (k : Context) (p : Strand) (f : StrandSt → StrandSt) :
    (k.modStrand p f).streams = k.streams := rfl
@[simp] theorem Context.modStrand_v (k : Context) (p : Strand) (f : StrandSt → StrandSt) :
    (k.modStrand p f).v = k.v := rfl
@[simp] theorem Context.modStrand_qkl (k : Context) (p : Strand) (f : StrandSt → StrandSt) :
    (k.modStrand p f).qkl = k.qkl := rfl
@[simp] theorem Context.modStrand_qlx (k : Context) (p : Strand) (f : StrandSt → StrandSt) :
    (k.modStrand p f).qlx = k.qlx := rfl
@[simp] theorem Context.modStrand_qxs (k : Context) (p : Strand) (f : StrandSt → StrandSt) :
    (k.modStrand p f).qxs = k.qxs := rfl
@[simp] theorem Context.modStrand_qbad (k : Context) (p : Strand) (f : StrandSt → StrandSt) :
    (k.modStrand p f).qbad = k.qbad := rfl
@[simp] theorem Context.modStrand_tokens (k : Context) (p : Strand) (f : StrandSt → StrandSt) :
    (k.modStrand p f).tokens = k.tokens := rfl
@[simp] theorem Context.modStrand_cc (k : Context) (p : Strand) (f : StrandSt → StrandSt) :
    (k.modStrand p f).cc = k.cc := rfl
@[simp] theorem Context.modStrand_jb (k : Context) (p : Strand) (f : StrandSt → StrandSt) :
    (k.modStrand p f).jb = k.jb := rfl
@[simp] theorem Context.modStrand_lv (k : Context) (p : Strand) (f : StrandSt → StrandSt) :
    (k.modStrand p f).lv = k.lv := rfl
@[simp] theorem Context.modStrand_sg (k : Context) (p : Strand) (f : StrandSt → StrandSt) :
    (k.modStrand p f).sg = k.sg := rfl
@[simp] theorem Context.modStrand_task (k : Context) (p : Strand) (f : StrandSt → StrandSt) :
    (k.modStrand p f).task = k.task := rfl
@[simp] theorem Context.modStrand_vf (k : Context) (p : Strand) (f : StrandSt → StrandSt) :
    (k.modStrand p f).vf = k.vf := rfl
@[simp] theorem Context.modStrand_part (k : Context) (p : Strand) (f : StrandSt → StrandSt) :
    (k.modStrand p f).part = k.part := rfl
@[simp] theorem Context.modStrand_rel (k : Context) (p : Strand) (f : StrandSt → StrandSt) :
    (k.modStrand p f).rel = k.rel := rfl
@[simp] theorem Context.modStrand_srVec (k : Context) (p : Strand) (f : StrandSt → StrandSt) :
    (k.modStrand p f).srVec = k.srVec := rfl
@[simp] theorem Context.modStrand_srDrain (k : Context) (p : Strand) (f : StrandSt → StrandSt) :
    (k.modStrand p f).srDrain = k.srDrain := rfl
@[simp] theorem Context.modStrand_ticket (k : Context) (p : Strand) (f : StrandSt → StrandSt) :
    (k.modStrand p f).ticket = k.ticket := rfl
@[simp] theorem Context.modStrand_res (k : Context) (p : Strand) (f : StrandSt → StrandSt) :
    (k.modStrand p f).res = k.res := rfl
@[simp] theorem Context.modStrand_vl (k : Context) (p : Strand) (f : StrandSt → StrandSt) :
    (k.modStrand p f).vl = k.vl := rfl
@[simp] theorem Context.modStrand_root (k : Context) (p : Strand) (f : StrandSt → StrandSt) :
    (k.modStrand p f).root = k.root := rfl
@[simp] theorem Context.modStrand_region (k : Context) (p : Strand) (f : StrandSt → StrandSt) :
    (k.modStrand p f).region = k.region := rfl
@[simp] theorem Context.modStrand_serial (k : Context) (p : Strand) (f : StrandSt → StrandSt) :
    (k.modStrand p f).serial = k.serial := rfl
@[simp] theorem Context.modStrand_meL (k : Context) (p : Strand) (f : StrandSt → StrandSt) :
    (k.modStrand p f).meL = k.meL := rfl
@[simp] theorem Context.modStrand_meS (k : Context) (p : Strand) (f : StrandSt → StrandSt) :
    (k.modStrand p f).meS = k.meS := rfl
@[simp] theorem Context.modStrand_copyL (k : Context) (p : Strand) (f : StrandSt → StrandSt) :
    (k.modStrand p f).copyL = k.copyL := rfl
@[simp] theorem Context.modStrand_copyS (k : Context) (p : Strand) (f : StrandSt → StrandSt) :
    (k.modStrand p f).copyS = k.copyS := rfl
@[simp] theorem Context.modStrand_mx (k : Context) (p : Strand) (f : StrandSt → StrandSt) :
    (k.modStrand p f).mx = k.mx := rfl
@[simp] theorem Context.modStrand_fabL (k : Context) (p : Strand) (f : StrandSt → StrandSt) :
    (k.modStrand p f).fabL = k.fabL := rfl
@[simp] theorem Context.modStrand_fabS (k : Context) (p : Strand) (f : StrandSt → StrandSt) :
    (k.modStrand p f).fabS = k.fabS := rfl
@[simp] theorem Context.modStrand_stageL (k : Context) (p : Strand) (f : StrandSt → StrandSt) :
    (k.modStrand p f).stageL = k.stageL := rfl
@[simp] theorem Context.modStrand_stageS (k : Context) (p : Strand) (f : StrandSt → StrandSt) :
    (k.modStrand p f).stageS = k.stageS := rfl
@[simp] theorem Context.modStrand_stageM (k : Context) (p : Strand) (f : StrandSt → StrandSt) :
    (k.modStrand p f).stageM = k.stageM := rfl
@[simp] theorem Context.modStrand_stageFL (k : Context) (p : Strand) (f : StrandSt → StrandSt) :
    (k.modStrand p f).stageFL = k.stageFL := rfl
@[simp] theorem Context.modStrand_stageFS (k : Context) (p : Strand) (f : StrandSt → StrandSt) :
    (k.modStrand p f).stageFS = k.stageFS := rfl
@[simp] theorem Context.modStrand_stageEL (k : Context) (p : Strand) (f : StrandSt → StrandSt) :
    (k.modStrand p f).stageEL = k.stageEL := rfl
@[simp] theorem Context.modStrand_stageES (k : Context) (p : Strand) (f : StrandSt → StrandSt) :
    (k.modStrand p f).stageES = k.stageES := rfl
@[simp] theorem Context.modStrand_acc (k : Context) (p : Strand) (f : StrandSt → StrandSt) :
    (k.modStrand p f).acc = k.acc := rfl
@[simp] theorem Context.modStrand_aepoch (k : Context) (p : Strand) (f : StrandSt → StrandSt) :
    (k.modStrand p f).aepoch = k.aepoch := rfl
@[simp] theorem Context.modStrand_held (k : Context) (p : Strand) (f : StrandSt → StrandSt) :
    (k.modStrand p f).held = k.held := rfl
@[simp] theorem Context.modStrand_unrestored (k : Context) (p : Strand) (f : StrandSt → StrandSt) :
    (k.modStrand p f).unrestored = k.unrestored := rfl
@[simp] theorem Context.modStrand_adrift (k : Context) (p : Strand) (f : StrandSt → StrandSt) :
    (k.modStrand p f).adrift = k.adrift := rfl
@[simp] theorem Context.modStrand_segs (k : Context) (p : Strand) (f : StrandSt → StrandSt) :
    (k.modStrand p f).segs = k.segs := rfl
@[simp] theorem Context.modStrand_touch (k : Context) (p : Strand) (f : StrandSt → StrandSt) :
    (k.modStrand p f).touch = k.touch := rfl
@[simp] theorem Context.modStrand_pinWait (k : Context) (p : Strand) (f : StrandSt → StrandSt) :
    (k.modStrand p f).pinWait = k.pinWait := rfl
@[simp] theorem Context.modStrand_askHost (k : Context) (p : Strand) (f : StrandSt → StrandSt) :
    (k.modStrand p f).askHost = k.askHost := rfl
@[simp] theorem Context.modStrand_replay (k : Context) (p : Strand) (f : StrandSt → StrandSt) :
    (k.modStrand p f).replay = k.replay := rfl
@[simp] theorem Context.modStrand_bars (k : Context) (p : Strand) (f : StrandSt → StrandSt) :
    (k.modStrand p f).bars = k.bars := rfl
@[simp] theorem Context.modStrand_clamp (k : Context) (p : Strand) (f : StrandSt → StrandSt) :
    (k.modStrand p f).clamp = k.clamp := rfl
@[simp] theorem Context.modStrand_busy (k : Context) (p : Strand) (f : StrandSt → StrandSt) :
    (k.modStrand p f).busy = k.busy := rfl
@[simp] theorem Context.modStrand_fdom (k : Context) (p : Strand) (f : StrandSt → StrandSt) :
    (k.modStrand p f).fdom = k.fdom := rfl
@[simp] theorem Context.modStrand_launch (k : Context) (p : Strand) (f : StrandSt → StrandSt) :
    (k.modStrand p f).launch = k.launch := rfl
@[simp] theorem Context.modStrand_gang (k : Context) (p : Strand) (f : StrandSt → StrandSt) :
    (k.modStrand p f).gang = k.gang := rfl
@[simp] theorem Context.modStrand_gangId (k : Context) (p : Strand) (f : StrandSt → StrandSt) :
    (k.modStrand p f).gangId = k.gangId := rfl
@[simp] theorem Context.modStrand_swaps (k : Context) (p : Strand) (f : StrandSt → StrandSt) :
    (k.modStrand p f).swaps = k.swaps := rfl
@[simp] theorem Context.modStrand_triage (k : Context) (p : Strand) (f : StrandSt → StrandSt) :
    (k.modStrand p f).triage = k.triage := rfl
@[simp] theorem Context.modStrand_debugger (k : Context) (p : Strand) (f : StrandSt → StrandSt) :
    (k.modStrand p f).debugger = k.debugger := rfl
@[simp] theorem Context.modStrand_terms (k : Context) (p : Strand) (f : StrandSt → StrandSt) :
    (k.modStrand p f).terms = k.terms := rfl
@[simp] theorem Context.modStrand_refilled (k : Context) (p : Strand) (f : StrandSt → StrandSt) :
    (k.modStrand p f).refilled = k.refilled := rfl
@[simp] theorem Context.modStrand_copying (k : Context) (p : Strand) (f : StrandSt → StrandSt) :
    (k.modStrand p f).copying = k.copying := rfl
@[simp] theorem State.core_spendToken (s : State) (c : CoreId) :
    (s.spendToken c).core c = { s.core c with tokens := (s.core c).tokens - 1, drew := true } := State.core_modCore _ _ _
@[simp] theorem State.spendToken_mem (s : State) (c : CoreId) : (s.spendToken c).mem = s.mem := rfl
@[simp] theorem State.spendToken_hbm (s : State) (c : CoreId) : (s.spendToken c).hbm = s.hbm := rfl
@[simp] theorem State.spendToken_parts (s : State) (c : CoreId) : (s.spendToken c).parts = s.parts := rfl
@[simp] theorem State.spendToken_dies (s : State) (c : CoreId) : (s.spendToken c).dies = s.dies := rfl
@[simp] theorem State.spendToken_clusters (s : State) (c : CoreId) : (s.spendToken c).clusters = s.clusters := rfl
@[simp] theorem State.spendToken_pkg (s : State) (c : CoreId) : (s.spendToken c).pkg = s.pkg := rfl
@[simp] theorem State.spendToken_cur (s : State) (c : CoreId) : (s.spendToken c).cur = s.cur := rfl
theorem State.ctx_spendToken (s : State) (c d : CoreId) (x : Ctx) : (s.spendToken c).ctx d x = s.ctx d x := by
  by_cases h : d = c
  · subst h; simp only [State.ctx, State.core_spendToken]; rfl
  · simp only [State.ctx, State.spendToken, State.core_modCore_ne _ _ h]
@[simp] theorem StrandSt.write_pc (t : StrandSt) (r : GReg) (v : Word) : (t.write r v).pc = t.pc := by unfold StrandSt.write; split <;> rfl
@[simp] theorem StrandSt.write_sat (t : StrandSt) (r : GReg) (v : Word) : (t.write r v).sat = t.sat := by unfold StrandSt.write; split <;> rfl
@[simp] theorem StrandSt.write_joined (t : StrandSt) (r : GReg) (v : Word) : (t.write r v).joined = t.joined := by unfold StrandSt.write; split <;> rfl
@[simp] theorem StrandSt.write_ending (t : StrandSt) (r : GReg) (v : Word) : (t.write r v).ending = t.ending := by unfold StrandSt.write; split <;> rfl
@[simp] theorem StrandSt.write_code (t : StrandSt) (r : GReg) (v : Word) : (t.write r v).code = t.code := by unfold StrandSt.write; split <;> rfl
@[simp] theorem StrandSt.write_slot (t : StrandSt) (r : GReg) (v : Word) : (t.write r v).slot = t.slot := by unfold StrandSt.write; split <;> rfl
@[simp] theorem StrandSt.write_late (t : StrandSt) (r : GReg) (v : Word) : (t.write r v).late = t.late := by unfold StrandSt.write; split <;> rfl
@[simp] theorem StrandSt.write_len (t : StrandSt) (r : GReg) (v : Word) : (t.write r v).len = t.len := by unfold StrandSt.write; split <;> rfl
@[simp] theorem StrandSt.write_epc (t : StrandSt) (r : GReg) (v : Word) : (t.write r v).epc = t.epc := by unfold StrandSt.write; split <;> rfl
@[simp] theorem StrandSt.write_eval (t : StrandSt) (r : GReg) (v : Word) : (t.write r v).eval = t.eval := by unfold StrandSt.write; split <;> rfl
@[simp] theorem StrandSt.write_gselReg (t : StrandSt) (r : GReg) (v : Word) : (t.write r v).gselReg = t.gselReg := by unfold StrandSt.write; split <;> rfl
@[simp] theorem StrandSt.write_gselBit (t : StrandSt) (r : GReg) (v : Word) : (t.write r v).gselBit = t.gselBit := by unfold StrandSt.write; split <;> rfl
@[simp] theorem StrandSt.write_feb (t : StrandSt) (r : GReg) (v : Word) : (t.write r v).feb = t.feb := by unfold StrandSt.write; split <;> rfl
@[simp] theorem StrandSt.write_land (t : StrandSt) (r : GReg) (v : Word) : (t.write r v).land = t.land := by unfold StrandSt.write; split <;> rfl
@[simp] theorem StrandSt.write_pend (t : StrandSt) (r : GReg) (v : Word) : (t.write r v).pend = t.pend := by unfold StrandSt.write; split <;> rfl
@[simp] theorem StrandSt.write_lateq (t : StrandSt) (r : GReg) (v : Word) : (t.write r v).lateq = t.lateq := by unfold StrandSt.write; split <;> rfl
@[simp] theorem StrandSt.write_due (t : StrandSt) (r : GReg) (v : Word) : (t.write r v).due = t.due := by unfold StrandSt.write; split <;> rfl
@[simp] theorem StrandSt.write_life (t : StrandSt) (r : GReg) (v : Word) : (t.write r v).life = t.life := by unfold StrandSt.write; split <;> rfl
@[simp] theorem StrandSt.write_blocked (t : StrandSt) (r : GReg) (v : Word) : (t.write r v).blocked = t.blocked := by unfold StrandSt.write; split <;> rfl
@[simp] theorem StrandSt.write_threshold (t : StrandSt) (r : GReg) (v : Word) : (t.write r v).threshold = t.threshold := by unfold StrandSt.write; split <;> rfl
@[simp] theorem StrandSt.write_exitMark (t : StrandSt) (r : GReg) (v : Word) : (t.write r v).exitMark = t.exitMark := by unfold StrandSt.write; split <;> rfl
@[simp] theorem StrandSt.write_redirect (t : StrandSt) (r : GReg) (v : Word) : (t.write r v).redirect = t.redirect := by unfold StrandSt.write; split <;> rfl
@[simp] theorem StrandSt.write_forced (t : StrandSt) (r : GReg) (v : Word) : (t.write r v).forced = t.forced := by unfold StrandSt.write; split <;> rfl
@[simp] theorem StrandSt.write_bubble (t : StrandSt) (r : GReg) (v : Word) : (t.write r v).bubble = t.bubble := by unfold StrandSt.write; split <;> rfl
@[simp] theorem StrandSt.write_woken (t : StrandSt) (r : GReg) (v : Word) : (t.write r v).woken = t.woken := by unfold StrandSt.write; split <;> rfl
@[simp] theorem StrandSt.write_popped (t : StrandSt) (r : GReg) (v : Word) : (t.write r v).popped = t.popped := by unfold StrandSt.write; split <;> rfl
@[simp] theorem StrandSt.write_delayed (t : StrandSt) (r : GReg) (v : Word) : (t.write r v).delayed = t.delayed := by unfold StrandSt.write; split <;> rfl
@[simp] theorem StrandSt.write_exitq (t : StrandSt) (r : GReg) (v : Word) : (t.write r v).exitq = t.exitq := by unfold StrandSt.write; split <;> rfl
@[simp] theorem StrandSt.write_mark (t : StrandSt) (r : GReg) (v : Word) : (t.write r v).mark = t.mark := by unfold StrandSt.write; split <;> rfl
@[simp] theorem StrandSt.write_resend (t : StrandSt) (r : GReg) (v : Word) : (t.write r v).resend = t.resend := by unfold StrandSt.write; split <;> rfl
@[simp] theorem StrandSt.write_pages (t : StrandSt) (r : GReg) (v : Word) : (t.write r v).pages = t.pages := by unfold StrandSt.write; split <;> rfl
@[simp] theorem StrandSt.read_zero (t : StrandSt) : t.read 0 = 0 := rfl
@[simp] theorem StrandSt.write_zero (t : StrandSt) (v : Word) : t.write 0 v = t := rfl
theorem StrandSt.read_write (t : StrandSt) (r q : GReg) (v : Word) :
    (t.write r v).read q = if q = r ∧ r ≠ 0 then v else t.read q := by
  by_cases h0 : r = 0
  · subst h0
    rw [StrandSt.write_zero, if_neg (fun h => h.2 rfl)]
  · rw [show t.write r v = { t with g := t.g.set r.toNat v } from if_neg h0]
    by_cases hq : q = 0
    · subst hq
      rw [if_neg (fun h => h0 h.1.symm)]; rfl
    · by_cases e : q = r
      · subst e
        rw [if_pos ⟨rfl, h0⟩, StrandSt.read, if_neg hq]; simp
      · have h : r.toNat ≠ q.toNat := fun h => e (BitVec.eq_of_toNat_eq h.symm)
        rw [if_neg (fun h => e h.1), StrandSt.read, StrandSt.read, if_neg hq, if_neg hq, Vector.getElem_set_ne _ _ h]

end Machine
end Sys2Proof
end

