-- ==== Sys2Proof/Laws/Fetch.lean ====
section
/-! SUPPORT. Fetching instruction bytes changes nothing but the marks of the page walk in device memory, the clears that it starts and
what the TLBs of the core hold (R156, R282, R285). -/
namespace Sys2Proof.Machine

/-- Everything but device memory, its side state and the TLBs is as it was. -/
structure State.OnlyMem (s t : State) : Prop where
  rest : t = { s with mem := t.mem, hbm := t.hbm, cores := t.cores }
  cores : ∀ c, ∃ l, t.core c = { s.core c with tlb := l }
theorem State.OnlyMem.refl (s : State) : s.OnlyMem s := ⟨rfl, fun c => ⟨(s.core c).tlb, rfl⟩⟩
theorem State.OnlyMem.trans {s t u : State} (a : s.OnlyMem t) (b : t.OnlyMem u) : s.OnlyMem u := by
  refine ⟨?_, fun c => ?_⟩
  · rw [b.rest, a.rest]
  · obtain ⟨l, hl⟩ := a.cores c
    obtain ⟨l', hl'⟩ := b.cores c
    exact ⟨l', by rw [hl', hl]⟩
theorem State.OnlyMem.cur {s t : State} (a : s.OnlyMem t) : t.cur = s.cur := by rw [a.rest]
theorem State.OnlyMem.ctx {s t : State} (a : s.OnlyMem t) (c : CoreId) (x : Ctx) : t.ctx c x = s.ctx c x := by
  obtain ⟨l, hl⟩ := a.cores c
  simp only [State.ctx, hl, CoreSt.ctx]
theorem State.OnlyMem.here {s t : State} (a : s.OnlyMem t) : t.here = s.here := by simp only [State.here, a.cur, a.ctx]

theorem State.keepTlb_only (s : State) (c : CoreId) (u : TlbUnit) (root : Addr) (va : Nat) : s.OnlyMem (s.keepTlb c u root va) := by
  unfold State.keepTlb
  split
  · refine ⟨rfl, fun d => ?_⟩
    by_cases h : d = c
    · subst h; exact ⟨_, by rw [State.core_modCore]; rfl⟩
    · exact ⟨_, State.core_modCore_ne s _ h⟩
  · exact .refl s
/-- What an access that has found its page does to the state (R156, R285, R282). -/
theorem State.tookPage_only (s : State) (c : CoreId) (u : TlbUnit) (root : Addr) (va : Nat) (m : Store) (pa n : Nat) (w : Bool) :
    s.OnlyMem (s.tookPage c u root va m pa n w) :=
  (s.keepTlb_only c u root va).trans ⟨rfl, fun d => ⟨((s.keepTlb c u root va).core d).tlb, rfl⟩⟩

theorem State.fetchParcel_ok {s t : State} {a : Addr} {v : Nat} (h : s.fetchParcel a = .ok t v) : s.OnlyMem t := by
  simp only [State.fetchParcel] at h
  split at h
  · simp at h
  · split at h
    · simp at h
    · simp only [Fetch.ok.injEq] at h; exact h.1 ▸ s.tookPage_only ..
  · split at h
    · simp at h
    · split at h <;> simp at h
theorem State.fetchParcels_ok {n : Nat} : ∀ {s t : State} {a : Addr} {v : Nat}, s.fetchParcels a n = .ok t v → s.OnlyMem t := by
  induction n with
  | zero => intro s t a v h; simp only [State.fetchParcels, Fetch.ok.injEq] at h; exact h.1 ▸ .refl s
  | succ n ih =>
    intro s t a v h
    simp only [State.fetchParcels] at h
    split at h
    · rename_i s1 v1 e1
      split at h
      · rename_i s2 r e2
        simp only [Fetch.ok.injEq] at h
        exact h.1 ▸ (State.fetchParcel_ok e1).trans (ih e2)
      · rename_i f hf; exact absurd h (hf _ _)
    · rename_i f hf; exact absurd h (hf _ _)
theorem State.frameWords_ok {l : List Strand} : ∀ {s t : State} {a : Addr} {n h : Nat} {ws : List Framed} {k : Nat},
    s.frameWords a n l = .ok t h ws k → s.OnlyMem t := by
  induction l with
  | nil => intro s t a n h ws k e; simp only [State.frameWords, Frame.ok.injEq] at e; exact e.1 ▸ .refl s
  | cons p r ih =>
    intro s t a n h ws k e
    simp only [State.frameWords] at e
    split at e
    · simp at e
    · simp at e
    · rename_i s1 v e1
      split at e
      · simp only [Frame.ok.injEq] at e; exact e.1 ▸ State.fetchParcel_ok e1
      · split at e
        · simp at e
        · simp at e
        · rename_i s2 b e2
          split at e
          · rename_i s3 h3 ws3 l3 e3
            simp only [Frame.ok.injEq] at e
            exact e.1 ▸ ((State.fetchParcel_ok e1).trans (State.fetchParcels_ok e2)).trans (ih e3)
          · simp at e
          · rename_i hf _; exact absurd e (hf _ _ _ _)
/-- Framing a bundle leaves everything but device memory, its side state and the TLBs alone. -/
theorem State.frame_ok {s t : State} {a : Addr} {h : Nat} {ws : List Framed} {k : Nat} (e : s.frame a = .ok t h ws k) : s.OnlyMem t := by
  unfold State.frame at e
  split at e
  · simp at e
  · simp at e
  · rename_i s1 v e1
    split at e
    · simp at e
    · split at e
      · rename_i s2 h2 ws2 l2 e2
        simp only [Frame.ok.injEq] at e
        exact e.1 ▸ (State.fetchParcel_ok e1).trans (State.frameWords_ok e2)
      · simp at e
      · rename_i hf _; exact absurd e (hf _ _ _ _)
/-- So does the walk of a loop body. -/
theorem State.walkBody_reached {n : Nat} : ∀ {s t : State} {a fin next : Addr}, s.walkBody a fin n = .reached t next → s.OnlyMem t := by
  induction n with
  | zero => intro s t a fin next h; simp [State.walkBody] at h
  | succ n ih =>
    intro s t a fin next h
    simp only [State.walkBody] at h
    split at h
    case h_8 s1 hd ws len e1 =>
      split at h
      · simp at h
      · split at h
        · simp only [LoopWalk.reached.injEq] at h; exact h.1 ▸ State.frame_ok e1
        · split at h
          · simp at h
          · exact (State.frame_ok e1).trans (ih h)
    all_goals simp at h

end Sys2Proof.Machine
end

