-- ==== Sys2Proof/Laws/Issue.lean ====
section
/-! SUPPORT. Everything that issuing a word can do, once (R59, R105, R108, R115). -/
namespace Sys2Proof.Machine

theorem State.staleCheck_fresh {s : State} {rs : List GReg} (h : s.here.dbg = true → s.me.stale rs = none) (k : State → State) :
    s.staleCheck rs k = k s := by
  unfold State.staleCheck
  by_cases hd : s.here.dbg = true
  · simp only [hd, h hd, if_true]
  · simp only [hd]; rfl
theorem State.staleCheck_cases (s : State) (rs : List GReg) (k : State → State) :
    s.staleCheck rs k = k s ∨ ∃ r : GReg, s.staleCheck rs k = s.trap .stale (r.setWidth 64) := by
  unfold State.staleCheck
  split
  · split
    · exact .inr ⟨_, rfl⟩
    · exact .inl rfl
  · exact .inl rfl

/-- A word that is ready has its own effect. -/
theorem State.issueInOrder_ready {s : State} {v : AnyWord} {rd wr : List GReg} (h : s.Ready v rd wr) (body : State → State) :
    s.issueInOrder v rd wr body = body s.issued := by
  have e : (isAccess v.view && s.issued.here.acquiring s.issued.cur.strand) = false := h.ordered
  simp only [State.issueInOrder, h.checked, State.me_setRes, h.guardFree]
  rw [if_neg Bool.false_ne_true, State.staleCheck_fresh (s := s.issued) h.guardFresh]
  simp only [State.me_setRes, h.guarded, h.free, e]
  rw [if_neg (by decide), if_neg (by decide)]
theorem State.issue_ready {s : State} {v : AnyWord} {rd wr : List GReg} (h : s.Ready v rd wr) (body : State → State) :
    s.issue v rd wr body = body s.issued := by
  rw [State.issue, State.issueInOrder_ready h, State.staleCheck_fresh (s := s.issued) h.fresh]

/-- A word that fails its encoding checks traps with its own address in %eval. -/
theorem State.issue_check {s : State} {v : AnyWord} {c : Cause} (h : s.check v = some c) (rd wr : List GReg) (body : State → State) :
    s.issueInOrder v rd wr body = s.trap c (word57 s.cur.at_) := by
  simp only [State.issueInOrder, h]

/-- The ends of an issue: the check's trap, a stall, the debug mode's trap, a false guard, and what the word does itself. -/
theorem State.issueInOrder_cases (s : State) (v : AnyWord) (rd wr : List GReg) (body : State → State) :
    (∃ c, s.check v = some c ∧ s.issueInOrder v rd wr body = s.trap c (word57 s.cur.at_)) ∨
    s.issueInOrder v rd wr body = s.issued.stall .interlock ∨
    (∃ r : GReg, s.issueInOrder v rd wr body = s.issued.trap .stale (r.setWidth 64)) ∨
    (guardHolds v s.me = false ∧ s.issueInOrder v rd wr body = s.issued) ∨
    (guardHolds v s.me = true ∧ s.issueInOrder v rd wr body = body s.issued) := by
  cases hc : s.check v with
  | some c => exact .inl ⟨c, rfl, State.issue_check hc rd wr body⟩
  | none =>
    refine .inr ?_
    simp only [State.issueInOrder, hc]
    by_cases hp : s.issued.me.pending (guardRegs v s.issued.me) = true
    · rw [if_pos hp]; exact .inl rfl
    rw [if_neg hp]
    rcases State.staleCheck_cases s.issued (guardRegs v s.issued.me) (fun s => if (!guardHolds v s.me) = true then s
        else if (s.me.pending (rd ++ wr) || isAccess v.view && s.here.acquiring s.cur.strand) = true then s.stall .interlock
        else body s) with e | ⟨r, e⟩
    · rw [e]
      cases hg : guardHolds v s.me with
      | false =>
        have h : (!guardHolds v s.issued.me) = true := by rw [State.me_setRes, hg]; rfl
        rw [if_pos h]; exact .inr (.inr (.inl ⟨rfl, rfl⟩))
      | true =>
        have h : ¬(!guardHolds v s.issued.me) = true := by rw [State.me_setRes, hg]; decide
        rw [if_neg h]
        by_cases hq : (s.issued.me.pending (rd ++ wr) || isAccess v.view && s.issued.here.acquiring s.issued.cur.strand) = true
        · rw [if_pos hq]; exact .inl rfl
        rw [if_neg hq]
        exact .inr (.inr (.inr ⟨rfl, rfl⟩))
    · exact .inr (.inl ⟨r, e⟩)
/-- The same of a word whose operands the debug mode checks first. -/
theorem State.issue_cases (s : State) (v : AnyWord) (rd wr : List GReg) (body : State → State) :
    (∃ c, s.check v = some c ∧ s.issue v rd wr body = s.trap c (word57 s.cur.at_)) ∨
    s.issue v rd wr body = s.issued.stall .interlock ∨
    (∃ r : GReg, s.issue v rd wr body = s.issued.trap .stale (r.setWidth 64)) ∨
    (guardHolds v s.me = false ∧ s.issue v rd wr body = s.issued) ∨
    (guardHolds v s.me = true ∧ s.issue v rd wr body = body s.issued) := by
  unfold State.issue
  rcases State.issueInOrder_cases s v rd wr (fun s => s.staleCheck rd body) with h | h | h | h | ⟨hg, h⟩
  · exact .inl h
  · exact .inr (.inl h)
  · exact .inr (.inr (.inl h))
  · exact .inr (.inr (.inr (.inl h)))
  · rw [h]
    rcases State.staleCheck_cases s.issued rd body with e | e
    · exact .inr (.inr (.inr (.inr ⟨hg, e⟩)))
    · exact .inr (.inr (.inl e))

set_option maxRecDepth 8000 in
/-- Every instruction word runs by issuing: its checks, its interlocks and its guard come before its own effect. -/
theorem exec_issues (w : AnyWord) (s : State) : ∃ rd wr body, exec w.instr s = .next (s.issueInOrder w rd wr body) := by
  cases w with
  | scalar v => cases v <;> exact ⟨_, _, _, rfl⟩
  | wide v => cases v <;> exact ⟨_, _, _, rfl⟩

end Sys2Proof.Machine
end

