-- ==== Sys2Proof/Laws/Ops.lean ====
section
/-! SUPPORT. What the shared operations can do, each said once: landing a result, popping tokens, stalling, taking a trap,
translating an address (R93, R94, R103, R111, R169, R285). -/
namespace Sys2Proof.Machine

/-! ## Results on their way (R103, R105) -/

/-- Landing a register result adds one entry to the issuing strand's landing buffer, or nothing for g0. -/
theorem State.landReg_cases (s : State) (d : GReg) (n : Nat) (v : Word) :
    (d = 0 ∧ s.landReg d n v = s) ∨
    (d ≠ 0 ∧ s.landReg d n v = s.modMe fun t => { t with land := t.land ++ [⟨n, s.cur.sqd, false, 0, .reg d v⟩] }) := by
  unfold State.landReg State.landWith
  by_cases h : d = 0
  · exact .inl ⟨h, if_pos h⟩
  · exact .inr ⟨h, if_neg h⟩
theorem State.landBit_cases (s : State) (d : GReg) (b : BitVec 6) (v : Bool) :
    (d = 0 ∧ s.landBit d b v = s) ∨
    (d ≠ 0 ∧ s.landBit d b v = s.modMe fun t => { t with land := t.land ++ [⟨1, s.cur.sqd, false, 0, .bit d b v⟩] }) := by
  unfold State.landBit State.landWith
  by_cases h : d = 0
  · exact .inl ⟨h, if_pos h⟩
  · exact .inr ⟨h, if_neg h⟩
/-- An answer adds one ready entry to the registers that await a result, or nothing for g0. -/
theorem State.answer_cases (s : State) (d : GReg) (v : Word) (load : Bool) :
    (d = 0 ∧ s.answer d v load = s) ∨
    (d ≠ 0 ∧ s.answer d v load = s.modMe fun t => { t with pend := t.pend ++ [⟨d, some v, load, s.cur.sqd, 0⟩] }) := by
  unfold State.answer
  by_cases h : d = 0
  · exact .inl ⟨h, if_pos h⟩
  · exact .inr ⟨h, if_neg h⟩
theorem State.answers_answer (s : State) (d : GReg) (v : Word) (load : Bool) : (s.answer d v load).Answers d v := by
  rcases s.answer_cases d v load with ⟨h, -⟩ | ⟨-, e⟩
  · exact .inl h
  · refine .inr ⟨⟨d, some v, load, s.cur.sqd, 0⟩, ?_, rfl, rfl⟩
    rw [e]
    simp [State.me, State.here, State.modMe, State.modHere, State.ctx, State.modCtx, State.core, State.modCore, State.setCore, CoreSt.ctx,
      CoreSt.modCtx, Context.strand, Context.modStrand]

/-! ## Tokens (R167-R169) -/

theorem Tokens.get_set (t : Tokens) (p : Strand) (right : Bool) (q : Strand) (n : Nat) (h : (q, p) ≠ (neighbour p right, p)) :
    (t.set (neighbour p right) p n).get q p = t.get q p := by
  cases p <;> cases q <;> cases right <;> first | rfl | exact absurd rfl h
/-- A pop that may go on either finds the token popped already, or takes it. -/
theorem State.popOne_ready {s : State} {right : Bool}
    (h : s.me.popped &&& (if right then 2 else 1) = 0 → s.here.tokens.get (neighbour s.cur.strand right) s.cur.strand ≠ 0) :
    ∃ r, s.popOne right = some r ∧ (r = s ∨ ∃ t, s.here.tokens.pop s.cur.strand right = some t ∧
      r = (s.modHere fun k => { k with tokens := t }).modMe fun u => { u with popped := u.popped ||| (if right then 2 else 1) }) := by
  unfold State.popOne
  by_cases hp : s.me.popped &&& (if right then 2 else 1) = 0
  · have hp' : ¬(s.me.popped &&& (if right then 2 else 1) != 0) = true := by rw [hp]; decide
    have ht : s.here.tokens.pop s.cur.strand right = some (s.here.tokens.set (neighbour s.cur.strand right) s.cur.strand
        (s.here.tokens.get (neighbour s.cur.strand right) s.cur.strand - 1)) := if_neg (h hp)
    refine ⟨_, ?_, .inr ⟨_, ht, rfl⟩⟩
    simp only [hp', ht]; rfl
  · have hp' : (s.me.popped &&& (if right then 2 else 1) != 0) = true := by rw [bne_iff_ne]; exact hp
    exact ⟨s, by simp only [hp', if_true], .inl rfl⟩
/-- Without pop-before bits nothing is popped. -/
theorem State.popTokens_none (s : State) {tok : BitVec 4} (h0 : tok.getLsbD 0 = false) (h1 : tok.getLsbD 1 = false) (k : State → State) :
    s.popTokens tok k = k (s.modMe fun u => { u with popped := 0 }) := by
  simp only [State.popTokens, h0, h1, Bool.false_eq_true, if_false]
/-- Popping tokens ends in a stall, or goes on from a state that differs in the tokens and the note of what is popped alone. -/
theorem State.popTokens_cases (s : State) (tok : BitVec 4) (k : State → State) :
    (∃ r : State, s.popTokens tok k = r.stall .token) ∨ ∃ r : State, s.popTokens tok k = k r := by
  unfold State.popTokens
  split
  · exact .inl ⟨_, rfl⟩
  · split
    · exact .inl ⟨_, rfl⟩
    · exact .inr ⟨_, rfl⟩

/-! ## Traps (R93, R94, R111) -/

@[simp] theorem StrandSt.saveTrap_code (t : StrandSt) (c : Cause) (p : Strand) (l : Bool) (n : Nat) (a : Addr) (v : Word) :
    (t.saveTrap c p l n a v).code = c.code := rfl
@[simp] theorem StrandSt.saveTrap_epc (t : StrandSt) (c : Cause) (p : Strand) (l : Bool) (n : Nat) (a : Addr) (v : Word) :
    (t.saveTrap c p l n a v).epc = a.extractLsb' 2 55 := rfl
@[simp] theorem StrandSt.saveTrap_eval (t : StrandSt) (c : Cause) (p : Strand) (l : Bool) (n : Nat) (a : Addr) (v : Word) :
    (t.saveTrap c p l n a v).eval = v := rfl
@[simp] theorem StrandSt.saveTrap_g (t : StrandSt) (c : Cause) (p : Strand) (l : Bool) (n : Nat) (a : Addr) (v : Word) :
    (t.saveTrap c p l n a v).g = t.g := rfl
@[simp] theorem StrandSt.drainFaults_g (t : StrandSt) : t.drainFaults.g = t.g := rfl
@[simp] theorem StrandSt.drainFaults_pc (t : StrandSt) : t.drainFaults.pc = t.pc := rfl
/-- What a taken trap saves: cause, slot, length, resume address and value of the strand. -/
theorem CoreSt.takeTrap_saves (k : CoreSt) (x : Ctx) (p : Strand) (c : Cause) (slot : Strand) (late : Bool) (len : Nat) (epc : Addr)
    (eval : Word) :
    let t := ((k.takeTrap x p c slot late len epc eval).ctx x).strand p
    t.code = c.code ∧ t.slot = BitVec.ofNat 2 slot.num ∧ t.late = late ∧ t.len = BitVec.ofNat 5 len ∧ t.epc = epc.extractLsb' 2 55 ∧
      t.eval = eval := by
  cases x <;> simp [CoreSt.takeTrap, CoreSt.ctx, CoreSt.modCtx, Three.get, Three.set, Context.strand, Context.modStrand, StrandSt.saveTrap]
/-- What a taken trap leaves alone: the other contexts of the core and everything that is no strand of its own. -/
theorem CoreSt.takeTrap_frame (k : CoreSt) (x : Ctx) (p : Strand) (c : Cause) (slot : Strand) (late : Bool) (len : Nat) (epc : Addr)
    (eval : Word) :
    let t := k.takeTrap x p c slot late len epc eval
    (∀ y, y ≠ x → t.ctx y = k.ctx y) ∧ t.lstore = k.lstore ∧ t.astore = k.astore ∧ t.serving = k.serving ∧ t.waitList = k.waitList ∧
      t.tar = k.tar ∧ t.save = k.save := by
  cases x <;> refine ⟨fun y hy => ?_, rfl, rfl, rfl, rfl, rfl, rfl⟩ <;> cases y <;> first | exact absurd rfl hy | rfl
/-- A trap at the issuing slot changes nothing above the core, and no other core. -/
theorem State.trap_frame (s : State) (c : Cause) (v : Word) :
    let t := s.trap c v
    t.cur.res = .trapped ∧ t.mem = s.mem ∧ t.hbm = s.hbm ∧ t.parts = s.parts ∧ t.dies = s.dies ∧ t.clusters = s.clusters ∧ t.pkg = s.pkg ∧
      ∀ d, d ≠ s.cur.core → t.core d = s.core d := by
  refine ⟨rfl, rfl, rfl, rfl, rfl, rfl, rfl, fun d hd => ?_⟩
  simp only [State.trap, State.core_setRes, State.core_modCore_ne _ _ hd, State.forget, State.modHere, State.modCtx]
/-- A stall changes the issuing strand's wait and nothing else. -/
theorem State.stall_frame (s : State) (w : Wait) :
    let t := s.stall w
    t.cur.res = .waits ∧ t.me = { s.me with life := .waiting w } ∧ t.mem = s.mem ∧ t.hbm = s.hbm ∧ t.parts = s.parts ∧ t.dies = s.dies ∧
      t.clusters = s.clusters ∧ t.pkg = s.pkg ∧ ∀ d, d ≠ s.cur.core → t.core d = s.core d := by
  refine ⟨rfl, ?_, rfl, rfl, rfl, rfl, rfl, rfl, fun d hd => ?_⟩
  · simp [State.stall, State.me, State.here, State.modMe, State.modHere, State.setRes, State.ctx, State.modCtx, State.core, State.modCore,
      State.setCore, CoreSt.ctx, CoreSt.modCtx, Context.strand, Context.modStrand]
  · simp only [State.stall, State.core_setRes, State.modMe, State.modHere, State.modCtx, State.core_modCore_ne _ _ hd]

/-! ## Translation (R284, R285) -/

theorem markAD_wf {m : Store} (h : m.wf = true) (entry pte : Nat) (w : Bool) : (markAD m entry pte w).wf = true := by
  show (if (pte ||| 0x200 ||| if w then 0x400 else 0) = pte then m else m.write entry 8 (pte ||| 0x200 ||| if w then 0x400 else 0)).wf = true
  by_cases e : (pte ||| 0x200 ||| if w then 0x400 else 0) = pte
  · rw [if_pos e]; exact h
  · rw [if_neg e]; exact Store.write_wf h _ _ _
/-- A translation that succeeds has found a valid entry with the permissions that the access needs; it leaves memory canonical, with no
byte outside that entry changed. -/
theorem State.translate_ok {s : State} {root : Addr} {va : Word} {n : Need} {pa : Nat} {m : Store} (h : s.translate root va n = .ok pa m) :
    va.toNat < 2 ^ 57 ∧ inPort va.toNat = false ∧ ∃ entry pte size, walk s.mem root va.toNat = .page entry pte size pa ∧
      permitted pte n = true ∧ m = markAD s.mem entry pte n.dirty := by
  unfold State.translate at h
  simp only at h
  split at h
  · cases h
  · next hp =>
    simp only [Bool.or_eq_true, decide_eq_true_eq, not_or, Bool.not_eq_true] at hp
    split at h
    · cases h
    · cases h
    · next entry pte size pa' hw =>
      split at h
      · next hn => cases h; exact ⟨by omega, hp.2, entry, pte, size, hw, hn, rfl⟩
      · cases h
theorem State.translate_wf {s : State} (hs : s.mem.wf = true) {root : Addr} {va : Word} {n : Need} {pa : Nat} {m : Store}
    (h : s.translate root va n = .ok pa m) : m.wf = true := by
  obtain ⟨-, -, e, p, _, -, -, rfl⟩ := State.translate_ok h
  exact markAD_wf hs e p n.dirty

/-- A translation through a TLB that succeeds is one that the TLB keeps, and then no walk marks memory, or the tables' (R156, R287). -/
theorem State.xlat_ok {s : State} {c : CoreId} {u : TlbUnit} {root : Addr} {va : Word} {n : Need} {pa : Nat} {m : Store}
    (h : s.xlat c u root va n = .ok pa m) :
    (∃ e, s.oldPage c u root va.toNat = some e ∧ permitted e.pte n = true ∧ pa = entryAddr e.pte + (va.toNat - e.va) ∧ m = s.mem) ∨
      (s.oldPage c u root va.toNat = none ∧ s.translate root va n = .ok pa m) := by
  unfold State.xlat State.xlatBy at h
  split at h
  · next e he =>
    split at h
    · cases h
    · split at h
      · next hp => cases h; exact .inl ⟨e, he, hp, rfl, rfl⟩
      · cases h
  · next he => exact .inr ⟨he, h⟩
theorem State.xlat_wf {s : State} (hs : s.mem.wf = true) {c : CoreId} {u : TlbUnit} {root : Addr} {va : Word} {n : Need} {pa : Nat}
    {m : Store} (h : s.xlat c u root va n = .ok pa m) : m.wf = true := by
  rcases State.xlat_ok h with ⟨_, -, -, -, rfl⟩ | ⟨-, h⟩
  · exact hs
  · exact State.translate_wf hs h

/-! ## Waiters (R312) -/

/-- A home where nobody waits is scanned to no effect. -/
theorem State.rescan_none {s : State} {home : Place} (h : (s.waitersAt home).1 = []) : s.rescan home = s := by
  rw [State.rescan, h]; rfl

/-! ## Reset -/

/-- Reset leaves every memory in canonical form. -/
theorem State.reset_canonical : State.reset.Canonical := by
  refine ⟨rfl, fun c => ?_, fun d => ?_⟩ <;> simp [State.reset, CoreSt.reset, Die.reset, State.core, State.die, Store.empty_wf]

end Sys2Proof.Machine
end

