-- ==== Sys2Proof/Laws/PerInstr.lean ====
section
/-! SUPPORT. The family RoundTrip, instruction by instruction: decoding the encoding of a well-formed word, with any bytes after
it, gives the word and those bytes; an event has no encoding and is not well formed. -/
namespace Sys2Proof.Laws.RoundTrip

/-- Decoding the encoding of the instruction, with any bytes behind it, gives it back. -/
def Statement (i : Instr) : Prop :=
  i.WellFormed → ∀ rest : List Byte, decode (encode i ++ rest) = .ok (i, rest)

theorem low_bits (v : BitVec 16) (h : v.toNat < 2) (n : Nat) (hn : 1 ≤ n) : v.getLsbD n = false := by
  rw [BitVec.getLsbD, Nat.testBit_lt_two_pow]
  exact Nat.lt_of_lt_of_le h (Nat.le_self_pow (by omega) 2)
theorem of_event (i : Instr) (h : i.word? = none) : Statement i := by
  intro hw
  simp [Instr.WellFormed, Instr.legal, h] at hw

theorem bundleIssue (c : CoreId) (x : Ctx) (p : Strand) : Statement (.bundleIssue c x p) := of_event _ rfl
theorem resultLanding (c : CoreId) (x : Ctx) (p : Strand) : Statement (.resultLanding c x p) := of_event _ rfl
theorem interlockedResult (c : CoreId) (x : Ctx) (p : Strand) : Statement (.interlockedResult c x p) := of_event _ rfl
theorem completionFault (c : CoreId) (x : Ctx) (p : Strand) : Statement (.completionFault c x p) := of_event _ rfl
theorem firmwareTrapEntry (c : CoreId) (p : Strand) : Statement (.firmwareTrapEntry c p) := of_event _ rfl
theorem contextSwitch (c : CoreId) : Statement (.contextSwitch c) := of_event _ rfl
theorem firmwareCredit (c : CoreId) : Statement (.firmwareCredit c) := of_event _ rfl
theorem correctableError (c : CoreId) : Statement (.correctableError c) := of_event _ rfl
theorem freezeEnd (c : CoreId) : Statement (.freezeEnd c) := of_event _ rfl
theorem uncorrectableError (c : CoreId) (site : UeSite) : Statement (.uncorrectableError c site) := of_event _ rfl
theorem segmentTouch (c : CoreId) (x : Ctx) (name : BitVec 16) : Statement (.segmentTouch c x name) := of_event _ rfl
theorem roomAvailable (c : CoreId) (x : Ctx) : Statement (.roomAvailable c x) := of_event _ rfl
theorem recallComplete (c : CoreId) (x : Ctx) (name : BitVec 16) : Statement (.recallComplete c x name) := of_event _ rfl
theorem pushOut (c : CoreId) (x : Ctx) (name : BitVec 16) : Statement (.pushOut c x name) := of_event _ rfl
theorem pushOutComplete (c : CoreId) (x : Ctx) (name : BitVec 16) : Statement (.pushOutComplete c x name) := of_event _ rfl
theorem relocation (c : CoreId) (x : Ctx) (name : BitVec 16) (base : BitVec 10) : Statement (.relocation c x name base) := of_event _ rfl
theorem pinSetAdmitted (c : CoreId) (x : Ctx) : Statement (.pinSetAdmitted c x) := of_event _ rfl
theorem streamFetch (c : CoreId) (x : Ctx) (t : BitVec 5) (width : Nat) : Statement (.streamFetch c x t width) := of_event _ rfl
theorem copyCommandStart (c : CoreId) (x : Ctx) (p : Strand) : Statement (.copyCommandStart c x p) := of_event _ rfl
theorem matrixCommandStart (c : CoreId) (x : Ctx) : Statement (.matrixCommandStart c x) := of_event _ rfl
theorem matrixCommit (c : CoreId) (x : Ctx) : Statement (.matrixCommit c x) := of_event _ rfl
theorem commandCompletion (c : CoreId) (x : Ctx) (e : Engine) : Statement (.commandCompletion c x e) := of_event _ rfl
theorem completionStageResume (c : CoreId) (x : Ctx) (e : Engine) : Statement (.completionStageResume c x e) := of_event _ rfl
theorem waiterPerformed (site : SageSite) : Statement (.waiterPerformed site) := of_event _ rfl
theorem parkWake (d : DieId) : Statement (.parkWake d) := of_event _ rfl
theorem febBoundaryCharge (c : CoreId) (x : Ctx) : Statement (.febBoundaryCharge c x) := of_event _ rfl
theorem weightSwapEffect (k : ClusterId) (pos : BitVec 2) : Statement (.weightSwapEffect k pos) := of_event _ rfl
theorem weightRefresh (k : ClusterId) (pos : BitVec 2) (frame : Nat) : Statement (.weightRefresh k pos frame) := of_event _ rfl
theorem refreshSensorSample (k : ClusterId) (temp : BitVec 16) (frame : Nat) : Statement (.refreshSensorSample k temp frame) := of_event _ rfl
theorem clockRatioChangeDone (k : ClusterId) : Statement (.clockRatioChangeDone k) := of_event _ rfl
theorem pageFault (c : CoreId) (x : Ctx) (va : Addr) : Statement (.pageFault c x va) := of_event _ rfl
theorem pageFaultServed (root va : Addr) : Statement (.pageFaultServed root va) := of_event _ rfl
theorem hostPageReply (root va : Addr) (reply : PageReply) : Statement (.hostPageReply root va reply) := of_event _ rfl
theorem hostPushOutReply (c : CoreId) (x : Ctx) (victim : Option (BitVec 16)) : Statement (.hostPushOutReply c x victim) := of_event _ rfl
theorem pageOut (root va host : Addr) : Statement (.pageOut root va host) := of_event _ rfl
theorem frameClearDone (frame : Nat) : Statement (.frameClearDone frame) := of_event _ rfl
theorem hbmCorrectableError (stack : BitVec 3) : Statement (.hbmCorrectableError stack) := of_event _ rfl
theorem dieToDieFlit (pair : Fin 6) (crcOk : Bool) : Statement (.dieToDieFlit pair crcOk) := of_event _ rfl
theorem pairFailure (pair : Fin 6) : Statement (.pairFailure pair) := of_event _ rfl
theorem bandwidthRefill (d : DieId) (active : List PartId) : Statement (.bandwidthRefill d active) := of_event _ rfl
theorem junctionSensor (c : CoreId) (temp : BitVec 16) : Statement (.junctionSensor c temp) := of_event _ rfl
theorem thermalWindowEnd (heat : List HeatInput) : Statement (.thermalWindowEnd heat) := of_event _ rfl
theorem moveTimeout (c : CoreId) : Statement (.moveTimeout c) := of_event _ rfl
theorem energyPeriod (readings : List DomainReading) : Statement (.energyPeriod readings) := of_event _ rfl
theorem accountingWindowEnd : Statement (.accountingWindowEnd ) := of_event _ rfl
theorem markRecord (p : PartId) : Statement (.markRecord p) := of_event _ rfl
theorem checkpoint : Statement (.checkpoint ) := of_event _ rfl
theorem moduleInputFailure : Statement (.moduleInputFailure ) := of_event _ rfl
theorem coldBoot (boot : BootInput) : Statement (.coldBoot boot) := of_event _ rfl
theorem warmReset : Statement (.warmReset ) := of_event _ rfl
theorem functionLevelReset (v : VfId) : Statement (.functionLevelReset v) := of_event _ rfl
theorem serviceWatchdogExpiry (svc : BitVec 4) : Statement (.serviceWatchdogExpiry svc) := of_event _ rfl
theorem doorbell (fn : Func) (page : BitVec 14) (off : BitVec 12) (count : Word) : Statement (.doorbell fn page off count) := of_event _ rfl
theorem reloadDoorbell (fn : Func) (page : BitVec 14) (off : BitVec 12) : Statement (.reloadDoorbell fn page off) := of_event _ rfl
theorem qcbReread (d : DieId) (q : BitVec 12) : Statement (.qcbReread d q) := of_event _ rfl
theorem queueMap (d : DieId) : Statement (.queueMap d) := of_event _ rfl
theorem packetFetch (d : DieId) (q : BitVec 12) : Statement (.packetFetch d q) := of_event _ rfl
theorem nop (d : DieId) (q : BitVec 12) : Statement (.nop d q) := of_event _ rfl
theorem launch (d : DieId) (q : BitVec 12) : Statement (.launch d q) := of_event _ rfl
theorem wait (d : DieId) (q : BitVec 12) : Statement (.wait d q) := of_event _ rfl
theorem waitResend (d : DieId) (q : BitVec 12) : Statement (.waitResend d q) := of_event _ rfl
theorem signal (d : DieId) (q : BitVec 12) : Statement (.signal d q) := of_event _ rfl
theorem copy (d : DieId) (q : BitVec 12) : Statement (.copy d q) := of_event _ rfl
theorem mark (d : DieId) (q : BitVec 12) : Statement (.mark d q) := of_event _ rfl
theorem packetComplete (d : DieId) (q : BitVec 12) (index : Nat) : Statement (.packetComplete d q index) := of_event _ rfl
theorem taskPlacement (d : DieId) : Statement (.taskPlacement d) := of_event _ rfl
theorem taskEnd (c : CoreId) (x : Ctx) : Statement (.taskEnd c x) := of_event _ rfl
theorem coreTimeWindowEnd (region : Addr) : Statement (.coreTimeWindowEnd region) := of_event _ rfl
theorem faultDomainStop (p : PartId) (fdom : BitVec 16) : Statement (.faultDomainStop p fdom) := of_event _ rfl
theorem gangTick (p : PartId) : Statement (.gangTick p) := of_event _ rfl
theorem tickMiss (d : DieId) : Statement (.tickMiss d) := of_event _ rfl
theorem epilogueLimit : Statement (.epilogueLimit ) := of_event _ rfl
theorem epilogueTimeout (c : CoreId) : Statement (.epilogueTimeout c) := of_event _ rfl
theorem sendMessage (port : BitVec 3) (src : BitVec 32) (payload : List Byte) : Statement (.sendMessage port src payload) := of_event _ rfl
theorem linkTraining (sub : Fin 96) (partner : LinkPartner) : Statement (.linkTraining sub partner) := of_event _ rfl
theorem flitReceive (sub : Fin 96) (flit : Flit) : Statement (.flitReceive sub flit) := of_event _ rfl
theorem sublinkFailure (sub : Fin 96) : Statement (.sublinkFailure sub) := of_event _ rfl
theorem inboundRequest (r : InRequest) : Statement (.inboundRequest r) := of_event _ rfl
theorem timeMessage (m : TimeMessage) (lock : Bool) (time : Word) : Statement (.timeMessage m lock time) := of_event _ rfl
theorem bar2Read (v : VfId) (off : BitVec 36) (bytes : Nat) : Statement (.bar2Read v off bytes) := of_event _ rfl
theorem bar2Write (v : VfId) (off : BitVec 36) (data : List Byte) : Statement (.bar2Write v off data) := of_event _ rfl
theorem registerWrite (r : PlainReg) (val : Word) : Statement (.registerWrite r val) := of_event _ rfl
theorem partCreate (rq : Req) (p : BitVec 8) : Statement (.partCreate rq p) := of_event _ rfl
theorem partDestroy (rq : Req) (p : BitVec 8) : Statement (.partDestroy rq p) := of_event _ rfl
theorem partAssign (rq : Req) (p : BitVec 8) (kind : BitVec 8) (add : BitVec 8) (items : List Word) : Statement (.partAssign rq p kind add items) := of_event _ rfl
theorem vfBind (rq : Req) (v : VfId) (p : BitVec 8) : Statement (.vfBind rq v p) := of_event _ rfl
theorem ctlWrite (rq : Req) (p : BitVec 8) (kind : BitVec 8) (index : Word) (val : List Word) : Statement (.ctlWrite rq p kind index val) := of_event _ rfl
theorem ctlRead (rq : Req) (p : BitVec 8) (kind : BitVec 8) (index : Word) : Statement (.ctlRead rq p kind index) := of_event _ rfl
theorem rcbWrite (rq : Req) (node : Addr) (block : BitVec 2048) : Statement (.rcbWrite rq node block) := of_event _ rfl
theorem ptWrite (rq : Req) (house : Addr) (entries : List Word) : Statement (.ptWrite rq house entries) := of_event _ rfl
theorem tlbInvCommand (rq : Req) (root : Addr) (base count : Word) (all : Bool) : Statement (.tlbInvCommand rq root base count all) := of_event _ rfl
theorem runlistSet (rq : Req) (d : DieId) (q : BitVec 12) (qcb : Addr) (v : Bool) : Statement (.runlistSet rq d q qcb v) := of_event _ rfl
theorem objLoad (rq : Req) (p : BitVec 8) (slot : BitVec 8) (image : HostImage) (plan : LoadPlan) : Statement (.objLoad rq p slot image plan) := of_event _ rfl
theorem objUnload (rq : Req) (p : BitVec 8) (slot : BitVec 8) : Statement (.objUnload rq p slot) := of_event _ rfl
theorem vfReset (rq : Req) (v : VfId) : Statement (.vfReset rq v) := of_event _ rfl
theorem recordReq (rq : Req) (path : List Addr) : Statement (.recordReq rq path) := of_event _ rfl
theorem statsRead (rq : Req) (first : BitVec 32) : Statement (.statsRead rq first) := of_event _ rfl
theorem debug (rq : Req) (op : BitVec 8) (task : Word) (mask : BitVec 4) : Statement (.debug rq op task mask) := of_event _ rfl
theorem relocationComplete (c : CoreId) (x : Ctx) (name : BitVec 16) : Statement (.relocationComplete c x name) := of_event _ rfl
theorem hbmUncorrectableError (pa : Addr) (site : HbmSite) : Statement (.hbmUncorrectableError pa site) := of_event _ rfl
theorem voltageDroop (c : CoreId) : Statement (.voltageDroop c) := of_event _ rfl
theorem fabricCommandSend (c : CoreId) (x : Ctx) (p : Strand) : Statement (.fabricCommandSend c x p) := of_event _ rfl
theorem triageRelease (p : PartId) (task : Word) (finish : Bool) : Statement (.triageRelease p task finish) := of_event _ rfl
theorem add (w : SR) : Statement (.add w) :=
  decode_encode_of _ (.scalar (.add w)) rfl rfl (read_sr _ _ _ rfl) (fun _ => rfl)
theorem sub (w : SR) : Statement (.sub w) :=
  decode_encode_of _ (.scalar (.sub w)) rfl rfl (read_sr _ _ _ rfl) (fun _ => rfl)
theorem mul (w : SR) : Statement (.mul w) :=
  decode_encode_of _ (.scalar (.mul w)) rfl rfl (read_sr _ _ _ rfl) (fun _ => rfl)
theorem mulh (w : SR) : Statement (.mulh w) :=
  decode_encode_of _ (.scalar (.mulh w)) rfl rfl (read_sr _ _ _ rfl) (fun _ => rfl)
theorem mulhn (w : SR) : Statement (.mulhn w) :=
  decode_encode_of _ (.scalar (.mulhn w)) rfl rfl (read_sr _ _ _ rfl) (fun _ => rfl)
theorem div (w : SR) : Statement (.div w) :=
  decode_encode_of _ (.scalar (.div w)) rfl rfl (read_sr _ _ _ rfl) (fun _ => rfl)
theorem divn (w : SR) : Statement (.divn w) :=
  decode_encode_of _ (.scalar (.divn w)) rfl rfl (read_sr _ _ _ rfl) (fun _ => rfl)
theorem rem (w : SR) : Statement (.rem w) :=
  decode_encode_of _ (.scalar (.rem w)) rfl rfl (read_sr _ _ _ rfl) (fun _ => rfl)
theorem remn (w : SR) : Statement (.remn w) :=
  decode_encode_of _ (.scalar (.remn w)) rfl rfl (read_sr _ _ _ rfl) (fun _ => rfl)
theorem and (w : SR) : Statement (.and w) :=
  decode_encode_of _ (.scalar (.and w)) rfl rfl (read_sr _ _ _ rfl) (fun _ => rfl)
theorem or (w : SR) : Statement (.or w) :=
  decode_encode_of _ (.scalar (.or w)) rfl rfl (read_sr _ _ _ rfl) (fun _ => rfl)
theorem xor (w : SR) : Statement (.xor w) :=
  decode_encode_of _ (.scalar (.xor w)) rfl rfl (read_sr _ _ _ rfl) (fun _ => rfl)
theorem andn (w : SR) : Statement (.andn w) :=
  decode_encode_of _ (.scalar (.andn w)) rfl rfl (read_sr _ _ _ rfl) (fun _ => rfl)
theorem orn (w : SR) : Statement (.orn w) :=
  decode_encode_of _ (.scalar (.orn w)) rfl rfl (read_sr _ _ _ rfl) (fun _ => rfl)
theorem shl (w : SR) : Statement (.shl w) :=
  decode_encode_of _ (.scalar (.shl w)) rfl rfl (read_sr _ _ _ rfl) (fun _ => rfl)
theorem shr (w : SR) : Statement (.shr w) :=
  decode_encode_of _ (.scalar (.shr w)) rfl rfl (read_sr _ _ _ rfl) (fun _ => rfl)
theorem sar (w : SR) : Statement (.sar w) :=
  decode_encode_of _ (.scalar (.sar w)) rfl rfl (read_sr _ _ _ rfl) (fun _ => rfl)
theorem rol (w : SR) : Statement (.rol w) :=
  decode_encode_of _ (.scalar (.rol w)) rfl rfl (read_sr _ _ _ rfl) (fun _ => rfl)
theorem ror (w : SR) : Statement (.ror w) :=
  decode_encode_of _ (.scalar (.ror w)) rfl rfl (read_sr _ _ _ rfl) (fun _ => rfl)
theorem min (w : SR) : Statement (.min w) :=
  decode_encode_of _ (.scalar (.min w)) rfl rfl (read_sr _ _ _ rfl) (fun _ => rfl)
theorem max (w : SR) : Statement (.max w) :=
  decode_encode_of _ (.scalar (.max w)) rfl rfl (read_sr _ _ _ rfl) (fun _ => rfl)
theorem minn (w : SR) : Statement (.minn w) :=
  decode_encode_of _ (.scalar (.minn w)) rfl rfl (read_sr _ _ _ rfl) (fun _ => rfl)
theorem maxn (w : SR) : Statement (.maxn w) :=
  decode_encode_of _ (.scalar (.maxn w)) rfl rfl (read_sr _ _ _ rfl) (fun _ => rfl)
theorem addw (w : SR) : Statement (.addw w) :=
  decode_encode_of _ (.scalar (.addw w)) rfl rfl (read_sr _ _ _ rfl) (fun _ => rfl)
theorem subw (w : SR) : Statement (.subw w) :=
  decode_encode_of _ (.scalar (.subw w)) rfl rfl (read_sr _ _ _ rfl) (fun _ => rfl)
theorem mulw (w : SR) : Statement (.mulw w) :=
  decode_encode_of _ (.scalar (.mulw w)) rfl rfl (read_sr _ _ _ rfl) (fun _ => rfl)
theorem shlw (w : SR) : Statement (.shlw w) :=
  decode_encode_of _ (.scalar (.shlw w)) rfl rfl (read_sr _ _ _ rfl) (fun _ => rfl)
theorem shrw (w : SR) : Statement (.shrw w) :=
  decode_encode_of _ (.scalar (.shrw w)) rfl rfl (read_sr _ _ _ rfl) (fun _ => rfl)
theorem sarw (w : SR) : Statement (.sarw w) :=
  decode_encode_of _ (.scalar (.sarw w)) rfl rfl (read_sr _ _ _ rfl) (fun _ => rfl)
theorem mov (w : SR) : Statement (.mov w) :=
  decode_encode_of _ (.scalar (.mov w)) rfl rfl (read_sr _ _ _ rfl) (fun _ => rfl)
theorem not (w : SR) : Statement (.not w) :=
  decode_encode_of _ (.scalar (.not w)) rfl rfl (read_sr _ _ _ rfl) (fun _ => rfl)
theorem neg (w : SR) : Statement (.neg w) :=
  decode_encode_of _ (.scalar (.neg w)) rfl rfl (read_sr _ _ _ rfl) (fun _ => rfl)
theorem abs (w : SR) : Statement (.abs w) :=
  decode_encode_of _ (.scalar (.abs w)) rfl rfl (read_sr _ _ _ rfl) (fun _ => rfl)
theorem clz (w : SR) : Statement (.clz w) :=
  decode_encode_of _ (.scalar (.clz w)) rfl rfl (read_sr _ _ _ rfl) (fun _ => rfl)
theorem ctz (w : SR) : Statement (.ctz w) :=
  decode_encode_of _ (.scalar (.ctz w)) rfl rfl (read_sr _ _ _ rfl) (fun _ => rfl)
theorem popc (w : SR) : Statement (.popc w) :=
  decode_encode_of _ (.scalar (.popc w)) rfl rfl (read_sr _ _ _ rfl) (fun _ => rfl)
theorem brev (w : SR) : Statement (.brev w) :=
  decode_encode_of _ (.scalar (.brev w)) rfl rfl (read_sr _ _ _ rfl) (fun _ => rfl)
theorem bswap (w : SR) : Statement (.bswap w) :=
  decode_encode_of _ (.scalar (.bswap w)) rfl rfl (read_sr _ _ _ rfl) (fun _ => rfl)
theorem sxb (w : SR) : Statement (.sxb w) :=
  decode_encode_of _ (.scalar (.sxb w)) rfl rfl (read_sr _ _ _ rfl) (fun _ => rfl)
theorem sxh (w : SR) : Statement (.sxh w) :=
  decode_encode_of _ (.scalar (.sxh w)) rfl rfl (read_sr _ _ _ rfl) (fun _ => rfl)
theorem sxw (w : SR) : Statement (.sxw w) :=
  decode_encode_of _ (.scalar (.sxw w)) rfl rfl (read_sr _ _ _ rfl) (fun _ => rfl)
theorem zxb (w : SR) : Statement (.zxb w) :=
  decode_encode_of _ (.scalar (.zxb w)) rfl rfl (read_sr _ _ _ rfl) (fun _ => rfl)
theorem zxh (w : SR) : Statement (.zxh w) :=
  decode_encode_of _ (.scalar (.zxh w)) rfl rfl (read_sr _ _ _ rfl) (fun _ => rfl)
theorem zxw (w : SR) : Statement (.zxw w) :=
  decode_encode_of _ (.scalar (.zxw w)) rfl rfl (read_sr _ _ _ rfl) (fun _ => rfl)
theorem addi (w : SI) : Statement (.addi w) :=
  decode_encode_of _ (.scalar (.addi w)) rfl rfl (read_si _ _ rfl) (fun _ => rfl)
theorem andi (w : SI) : Statement (.andi w) :=
  decode_encode_of _ (.scalar (.andi w)) rfl rfl (read_si _ _ rfl) (fun _ => rfl)
theorem ori (w : SI) : Statement (.ori w) :=
  decode_encode_of _ (.scalar (.ori w)) rfl rfl (read_si _ _ rfl) (fun _ => rfl)
theorem xori (w : SI) : Statement (.xori w) :=
  decode_encode_of _ (.scalar (.xori w)) rfl rfl (read_si _ _ rfl) (fun _ => rfl)
theorem shli (w : SI) : Statement (.shli w) :=
  decode_encode_of _ (.scalar (.shli w)) rfl rfl (read_si _ _ rfl) (fun _ => rfl)
theorem shri (w : SI) : Statement (.shri w) :=
  decode_encode_of _ (.scalar (.shri w)) rfl rfl (read_si _ _ rfl) (fun _ => rfl)
theorem sari (w : SI) : Statement (.sari w) :=
  decode_encode_of _ (.scalar (.sari w)) rfl rfl (read_si _ _ rfl) (fun _ => rfl)
theorem muli (w : SI) : Statement (.muli w) :=
  decode_encode_of _ (.scalar (.muli w)) rfl rfl (read_si _ _ rfl) (fun _ => rfl)
theorem addwi (w : SI) : Statement (.addwi w) :=
  decode_encode_of _ (.scalar (.addwi w)) rfl rfl (read_si _ _ rfl) (fun _ => rfl)
theorem lui (w : SU) : Statement (.lui w) :=
  decode_encode_of _ (.scalar (.lui w)) rfl rfl (read_su _ _ rfl) (fun _ => rfl)
theorem lih (w : SU) : Statement (.lih w) :=
  decode_encode_of _ (.scalar (.lih w)) rfl rfl (read_su _ _ rfl) (fun _ => rfl)
theorem pca (w : SU) : Statement (.pca w) :=
  decode_encode_of _ (.scalar (.pca w)) rfl rfl (read_su _ _ rfl) (fun _ => rfl)
theorem bfx (w : SF) : Statement (.bfx w) :=
  decode_encode_of _ (.scalar (.bfx w)) rfl rfl (read_sf _ _ rfl) (fun _ => rfl)
theorem bfxn (w : SF) : Statement (.bfxn w) :=
  decode_encode_of _ (.scalar (.bfxn w)) rfl rfl (read_sf _ _ rfl) (fun _ => rfl)
theorem bfi (w : SF) : Statement (.bfi w) :=
  decode_encode_of _ (.scalar (.bfi w)) rfl rfl (read_sf _ _ rfl) (fun _ => rfl)
theorem ceq (w : SC) : Statement (.ceq w) :=
  decode_encode_of _ (.scalar (.ceq w)) rfl rfl (read_sc _ _ rfl) (fun _ => rfl)
theorem cne (w : SC) : Statement (.cne w) :=
  decode_encode_of _ (.scalar (.cne w)) rfl rfl (read_sc _ _ rfl) (fun _ => rfl)
theorem clt (w : SC) : Statement (.clt w) :=
  decode_encode_of _ (.scalar (.clt w)) rfl rfl (read_sc _ _ rfl) (fun _ => rfl)
theorem cle (w : SC) : Statement (.cle w) :=
  decode_encode_of _ (.scalar (.cle w)) rfl rfl (read_sc _ _ rfl) (fun _ => rfl)
theorem cltn (w : SC) : Statement (.cltn w) :=
  decode_encode_of _ (.scalar (.cltn w)) rfl rfl (read_sc _ _ rfl) (fun _ => rfl)
theorem clen (w : SC) : Statement (.clen w) :=
  decode_encode_of _ (.scalar (.clen w)) rfl rfl (read_sc _ _ rfl) (fun _ => rfl)
theorem ceqi (w : SCI) : Statement (.ceqi w) :=
  decode_encode_of _ (.scalar (.ceqi w)) rfl rfl (read_sci _ _ rfl) (fun _ => rfl)
theorem cnei (w : SCI) : Statement (.cnei w) :=
  decode_encode_of _ (.scalar (.cnei w)) rfl rfl (read_sci _ _ rfl) (fun _ => rfl)
theorem clti (w : SCI) : Statement (.clti w) :=
  decode_encode_of _ (.scalar (.clti w)) rfl rfl (read_sci _ _ rfl) (fun _ => rfl)
theorem cgti (w : SCI) : Statement (.cgti w) :=
  decode_encode_of _ (.scalar (.cgti w)) rfl rfl (read_sci _ _ rfl) (fun _ => rfl)
theorem bset (w : SCI) : Statement (.bset w) :=
  decode_encode_of _ (.scalar (.bset w)) rfl rfl (read_sci _ _ rfl) (fun h => by
    have e : w.imm = 0#6 := by
      simp only [AnyWord.legal, ScalarWord.legal, bitOk, Bool.and_eq_true, beq_iff_eq] at h
      first | exact h.2 | exact BitVec.eq_of_toNat_eq h.2 | exact BitVec.eq_of_toNat_eq (by simp_all) | simp_all
    simp [AnyWord.view, ScalarWord.view, View.anyWord, rowSCI, e])
theorem bclr (w : SCI) : Statement (.bclr w) :=
  decode_encode_of _ (.scalar (.bclr w)) rfl rfl (read_sci _ _ rfl) (fun h => by
    have e : w.imm = 1#6 := by
      simp only [AnyWord.legal, ScalarWord.legal, bitOk, Bool.and_eq_true, beq_iff_eq] at h
      first | exact h.2 | exact BitVec.eq_of_toNat_eq h.2 | exact BitVec.eq_of_toNat_eq (by simp_all) | simp_all
    simp [AnyWord.view, ScalarWord.view, View.anyWord, rowSCI, e])
theorem bnot (w : SCI) : Statement (.bnot w) :=
  decode_encode_of _ (.scalar (.bnot w)) rfl rfl (read_sci _ _ rfl) (fun h => by
    have e : w.imm = 2#6 := by
      simp only [AnyWord.legal, ScalarWord.legal, bitOk, Bool.and_eq_true, beq_iff_eq] at h
      first | exact h.2 | exact BitVec.eq_of_toNat_eq h.2 | exact BitVec.eq_of_toNat_eq (by simp_all) | simp_all
    simp [AnyWord.view, ScalarWord.view, View.anyWord, rowSCI, e])
theorem brT (w : SB) : Statement (.brT w) :=
  decode_encode_of _ (.scalar (.brT w)) rfl rfl (read_sb _ _ rfl) (fun _ => rfl)
theorem brF (w : SB) : Statement (.brF w) :=
  decode_encode_of _ (.scalar (.brF w)) rfl rfl (read_sb _ _ rfl) (fun _ => rfl)
theorem jmp (w : SJ) : Statement (.jmp w) :=
  decode_encode_of _ (.scalar (.jmp w)) rfl rfl (read_sj _ _ rfl) (fun _ => rfl)
theorem call (w : SJ) : Statement (.call w) :=
  decode_encode_of _ (.scalar (.call w)) rfl rfl (read_sj _ _ rfl) (fun _ => rfl)
theorem jr (w : SR) : Statement (.jr w) :=
  decode_encode_of _ (.scalar (.jr w)) rfl rfl (read_sr _ _ _ rfl) (fun _ => rfl)
theorem callr (w : SR) : Statement (.callr w) :=
  decode_encode_of _ (.scalar (.callr w)) rfl rfl (read_sr _ _ _ rfl) (fun _ => rfl)
theorem fork (w : SS) : Statement (.fork w) :=
  decode_encode_of _ (.scalar (.fork w)) rfl rfl (read_ss _ _ _ rfl) (fun _ => rfl)
theorem join (w : SS) : Statement (.join w) :=
  decode_encode_of _ (.scalar (.join w)) rfl rfl (read_ss _ _ _ rfl) (fun _ => rfl)
theorem jbset (w : SS) : Statement (.jbset w) :=
  decode_encode_of _ (.scalar (.jbset w)) rfl rfl (read_ss _ _ _ rfl) (fun _ => rfl)
theorem jbclr (w : SS) : Statement (.jbclr w) :=
  decode_encode_of _ (.scalar (.jbclr w)) rfl rfl (read_ss _ _ _ rfl) (fun _ => rfl)
theorem jbwait (w : SS) : Statement (.jbwait w) :=
  decode_encode_of _ (.scalar (.jbwait w)) rfl rfl (read_ss _ _ _ rfl) (fun _ => rfl)
theorem exit (w : SS) : Statement (.exit w) :=
  decode_encode_of _ (.scalar (.exit w)) rfl rfl (read_ss _ _ _ rfl) (fun _ => rfl)
theorem exitAb (w : SS) : Statement (.exitAb w) :=
  decode_encode_of _ (.scalar (.exitAb w)) rfl rfl (read_ss _ _ _ rfl) (fun _ => rfl)
theorem yield (w : SS) : Statement (.yield w) :=
  decode_encode_of _ (.scalar (.yield w)) rfl rfl (read_ss _ _ _ rfl) (fun _ => rfl)
theorem lpSet (w : SS) : Statement (.lpSet w) :=
  decode_encode_of _ (.scalar (.lpSet w)) rfl rfl (read_ss _ _ _ rfl) (fun _ => rfl)
theorem lpStride (w : SS) : Statement (.lpStride w) :=
  decode_encode_of _ (.scalar (.lpStride w)) rfl rfl (read_ss _ _ _ rfl) (fun _ => rfl)
theorem lpRun (w : SS) : Statement (.lpRun w) :=
  decode_encode_of _ (.scalar (.lpRun w)) rfl rfl (read_ss _ _ _ rfl) (fun _ => rfl)
theorem lpBrk (w : SS) : Statement (.lpBrk w) :=
  decode_encode_of _ (.scalar (.lpBrk w)) rfl rfl (read_ss _ _ _ rfl) (fun _ => rfl)
theorem lpClamp (w : SS) : Statement (.lpClamp w) :=
  decode_encode_of _ (.scalar (.lpClamp w)) rfl rfl (read_ss _ _ _ rfl) (fun _ => rfl)
theorem trap (w : SS) : Statement (.trap w) :=
  decode_encode_of _ (.scalar (.trap w)) rfl rfl (read_ss _ _ _ rfl) (fun _ => rfl)
theorem eret (w : SS) : Statement (.eret w) :=
  decode_encode_of _ (.scalar (.eret w)) rfl rfl (read_ss _ _ _ rfl) (fun _ => rfl)
theorem rdsr (w : SS) : Statement (.rdsr w) :=
  decode_encode_of _ (.scalar (.rdsr w)) rfl rfl (read_ss _ _ _ rfl) (fun _ => rfl)
theorem wrsr (w : SS) : Statement (.wrsr w) :=
  decode_encode_of _ (.scalar (.wrsr w)) rfl rfl (read_ss _ _ _ rfl) (fun _ => rfl)
theorem guard (w : SS) : Statement (.guard w) :=
  decode_encode_of _ (.scalar (.guard w)) rfl rfl (read_ss _ _ _ rfl) (fun _ => rfl)
theorem brk (w : SS) : Statement (.brk w) :=
  decode_encode_of _ (.scalar (.brk w)) rfl rfl (read_ss _ _ _ rfl) (fun _ => rfl)
theorem ccAdd (w : SS) : Statement (.ccAdd w) :=
  decode_encode_of _ (.scalar (.ccAdd w)) rfl rfl (read_ss _ _ _ rfl) (fun _ => rfl)
theorem ccSet (w : SS) : Statement (.ccSet w) :=
  decode_encode_of _ (.scalar (.ccSet w)) rfl rfl (read_ss _ _ _ rfl) (fun _ => rfl)
theorem waitLt (w : SS) : Statement (.waitLt w) :=
  decode_encode_of _ (.scalar (.waitLt w)) rfl rfl (read_ss _ _ _ rfl) (fun _ => rfl)
theorem waitGe (w : SS) : Statement (.waitGe w) :=
  decode_encode_of _ (.scalar (.waitGe w)) rfl rfl (read_ss _ _ _ rfl) (fun _ => rfl)
theorem tokPush (w : SS) : Statement (.tokPush w) :=
  decode_encode_of _ (.scalar (.tokPush w)) rfl rfl (read_ss _ _ _ rfl) (fun _ => rfl)
theorem tokPop (w : SS) : Statement (.tokPop w) :=
  decode_encode_of _ (.scalar (.tokPop w)) rfl rfl (read_ss _ _ _ rfl) (fun _ => rfl)
theorem fence (w : SS) : Statement (.fence w) :=
  decode_encode_of _ (.scalar (.fence w)) rfl rfl (read_ss _ _ _ rfl) (fun _ => rfl)
theorem ldlB (w : SL) : Statement (.ldlB w) :=
  decode_encode_of _ (.scalar (.ldlB w)) rfl rfl (read_sl _ _ rfl) (fun _ => rfl)
theorem ldlH (w : SL) : Statement (.ldlH w) :=
  decode_encode_of _ (.scalar (.ldlH w)) rfl rfl (read_sl _ _ rfl) (fun _ => rfl)
theorem ldlW (w : SL) : Statement (.ldlW w) :=
  decode_encode_of _ (.scalar (.ldlW w)) rfl rfl (read_sl _ _ rfl) (fun _ => rfl)
theorem ldlD (w : SL) : Statement (.ldlD w) :=
  decode_encode_of _ (.scalar (.ldlD w)) rfl rfl (read_sl _ _ rfl) (fun _ => rfl)
theorem stlB (w : SL) : Statement (.stlB w) :=
  decode_encode_of _ (.scalar (.stlB w)) rfl rfl (read_sl _ _ rfl) (fun _ => rfl)
theorem stlH (w : SL) : Statement (.stlH w) :=
  decode_encode_of _ (.scalar (.stlH w)) rfl rfl (read_sl _ _ rfl) (fun _ => rfl)
theorem stlW (w : SL) : Statement (.stlW w) :=
  decode_encode_of _ (.scalar (.stlW w)) rfl rfl (read_sl _ _ rfl) (fun _ => rfl)
theorem stlD (w : SL) : Statement (.stlD w) :=
  decode_encode_of _ (.scalar (.stlD w)) rfl rfl (read_sl _ _ rfl) (fun _ => rfl)
theorem ldgB (w : SG) : Statement (.ldgB w) :=
  decode_encode_of _ (.scalar (.ldgB w)) rfl rfl (read_sg _ _ rfl) (fun _ => rfl)
theorem ldgH (w : SG) : Statement (.ldgH w) :=
  decode_encode_of _ (.scalar (.ldgH w)) rfl rfl (read_sg _ _ rfl) (fun _ => rfl)
theorem ldgW (w : SG) : Statement (.ldgW w) :=
  decode_encode_of _ (.scalar (.ldgW w)) rfl rfl (read_sg _ _ rfl) (fun _ => rfl)
theorem ldgD (w : SG) : Statement (.ldgD w) :=
  decode_encode_of _ (.scalar (.ldgD w)) rfl rfl (read_sg _ _ rfl) (fun _ => rfl)
theorem stgB (w : SG) : Statement (.stgB w) :=
  decode_encode_of _ (.scalar (.stgB w)) rfl rfl (read_sg _ _ rfl) (fun _ => rfl)
theorem stgH (w : SG) : Statement (.stgH w) :=
  decode_encode_of _ (.scalar (.stgH w)) rfl rfl (read_sg _ _ rfl) (fun _ => rfl)
theorem stgW (w : SG) : Statement (.stgW w) :=
  decode_encode_of _ (.scalar (.stgW w)) rfl rfl (read_sg _ _ rfl) (fun _ => rfl)
theorem stgD (w : SG) : Statement (.stgD w) :=
  decode_encode_of _ (.scalar (.stgD w)) rfl rfl (read_sg _ _ rfl) (fun _ => rfl)
theorem vadd (w : VA) : Statement (.vadd w) :=
  decode_encode_of _ (.wide (.vadd w)) rfl rfl (read_va _ _ rfl) (fun _ => rfl)
theorem vsub (w : VA) : Statement (.vsub w) :=
  decode_encode_of _ (.wide (.vsub w)) rfl rfl (read_va _ _ rfl) (fun _ => rfl)
theorem vmul (w : VA) : Statement (.vmul w) :=
  decode_encode_of _ (.wide (.vmul w)) rfl rfl (read_va _ _ rfl) (fun _ => rfl)
theorem vfma (w : VA) : Statement (.vfma w) :=
  decode_encode_of _ (.wide (.vfma w)) rfl rfl (read_va _ _ rfl) (fun _ => rfl)
theorem vfms (w : VA) : Statement (.vfms w) :=
  decode_encode_of _ (.wide (.vfms w)) rfl rfl (read_va _ _ rfl) (fun _ => rfl)
theorem vmin (w : VA) : Statement (.vmin w) :=
  decode_encode_of _ (.wide (.vmin w)) rfl rfl (read_va _ _ rfl) (fun _ => rfl)
theorem vmax (w : VA) : Statement (.vmax w) :=
  decode_encode_of _ (.wide (.vmax w)) rfl rfl (read_va _ _ rfl) (fun _ => rfl)
theorem vabs (w : VA) : Statement (.vabs w) :=
  decode_encode_of _ (.wide (.vabs w)) rfl rfl (read_va _ _ rfl) (fun _ => rfl)
theorem vneg (w : VA) : Statement (.vneg w) :=
  decode_encode_of _ (.wide (.vneg w)) rfl rfl (read_va _ _ rfl) (fun _ => rfl)
theorem vsqr (w : VA) : Statement (.vsqr w) :=
  decode_encode_of _ (.wide (.vsqr w)) rfl rfl (read_va _ _ rfl) (fun _ => rfl)
theorem vrcp (w : VA) : Statement (.vrcp w) :=
  decode_encode_of _ (.wide (.vrcp w)) rfl rfl (read_va _ _ rfl) (fun _ => rfl)
theorem vrsqrt (w : VA) : Statement (.vrsqrt w) :=
  decode_encode_of _ (.wide (.vrsqrt w)) rfl rfl (read_va _ _ rfl) (fun _ => rfl)
theorem vexp2 (w : VA) : Statement (.vexp2 w) :=
  decode_encode_of _ (.wide (.vexp2 w)) rfl rfl (read_va _ _ rfl) (fun _ => rfl)
theorem vlog2 (w : VA) : Statement (.vlog2 w) :=
  decode_encode_of _ (.wide (.vlog2 w)) rfl rfl (read_va _ _ rfl) (fun _ => rfl)
theorem vand (w : VA) : Statement (.vand w) :=
  decode_encode_of _ (.wide (.vand w)) rfl rfl (read_va _ _ rfl) (fun _ => rfl)
theorem vor (w : VA) : Statement (.vor w) :=
  decode_encode_of _ (.wide (.vor w)) rfl rfl (read_va _ _ rfl) (fun _ => rfl)
theorem vxor (w : VA) : Statement (.vxor w) :=
  decode_encode_of _ (.wide (.vxor w)) rfl rfl (read_va _ _ rfl) (fun _ => rfl)
theorem vshl (w : VA) : Statement (.vshl w) :=
  decode_encode_of _ (.wide (.vshl w)) rfl rfl (read_va _ _ rfl) (fun _ => rfl)
theorem vshr (w : VA) : Statement (.vshr w) :=
  decode_encode_of _ (.wide (.vshr w)) rfl rfl (read_va _ _ rfl) (fun _ => rfl)
theorem vsar (w : VA) : Statement (.vsar w) :=
  decode_encode_of _ (.wide (.vsar w)) rfl rfl (read_va _ _ rfl) (fun _ => rfl)
theorem vceq (w : VA) : Statement (.vceq w) :=
  decode_encode_of _ (.wide (.vceq w)) rfl rfl (read_va _ _ rfl) (fun _ => rfl)
theorem vclt (w : VA) : Statement (.vclt w) :=
  decode_encode_of _ (.wide (.vclt w)) rfl rfl (read_va _ _ rfl) (fun _ => rfl)
theorem vcle (w : VA) : Statement (.vcle w) :=
  decode_encode_of _ (.wide (.vcle w)) rfl rfl (read_va _ _ rfl) (fun _ => rfl)
theorem vsel (w : VA) : Statement (.vsel w) :=
  decode_encode_of _ (.wide (.vsel w)) rfl rfl (read_va _ _ rfl) (fun _ => rfl)
theorem vperm (w : VA) : Statement (.vperm w) :=
  decode_encode_of _ (.wide (.vperm w)) rfl rfl (read_va _ _ rfl) (fun _ => rfl)
theorem vbcast (w : VA) : Statement (.vbcast w) :=
  decode_encode_of _ (.wide (.vbcast w)) rfl rfl (read_va _ _ rfl) (fun _ => rfl)
theorem vredAdd (w : VA) : Statement (.vredAdd w) :=
  decode_encode_of _ (.wide (.vredAdd w)) rfl rfl (read_va _ _ rfl) (fun _ => rfl)
theorem vredMax (w : VA) : Statement (.vredMax w) :=
  decode_encode_of _ (.wide (.vredMax w)) rfl rfl (read_va _ _ rfl) (fun _ => rfl)
theorem vredMin (w : VA) : Statement (.vredMin w) :=
  decode_encode_of _ (.wide (.vredMin w)) rfl rfl (read_va _ _ rfl) (fun _ => rfl)
theorem vscanAdd (w : VA) : Statement (.vscanAdd w) :=
  decode_encode_of _ (.wide (.vscanAdd w)) rfl rfl (read_va _ _ rfl) (fun _ => rfl)
theorem vmov (w : VA) : Statement (.vmov w) :=
  decode_encode_of _ (.wide (.vmov w)) rfl rfl (read_va _ _ rfl) (fun _ => rfl)
theorem vclamp (w : VA) : Statement (.vclamp w) :=
  decode_encode_of _ (.wide (.vclamp w)) rfl rfl (read_va _ _ rfl) (fun _ => rfl)
theorem vscale (w : VA) : Statement (.vscale w) :=
  decode_encode_of _ (.wide (.vscale w)) rfl rfl (read_va _ _ rfl) (fun _ => rfl)
theorem vpop (w : VA) : Statement (.vpop w) :=
  decode_encode_of _ (.wide (.vpop w)) rfl rfl (read_va _ _ rfl) (fun _ => rfl)
theorem vcvt (w : VA) : Statement (.vcvt w) :=
  decode_encode_of _ (.wide (.vcvt w)) rfl rfl (read_va _ _ rfl) (fun _ => rfl)
theorem vq (w : VA) : Statement (.vq w) :=
  decode_encode_of _ (.wide (.vq w)) rfl rfl (read_va _ _ rfl) (fun _ => rfl)
theorem vdq (w : VA) : Statement (.vdq w) :=
  decode_encode_of _ (.wide (.vdq w)) rfl rfl (read_va _ _ rfl) (fun _ => rfl)
theorem vsp (w : VA) : Statement (.vsp w) :=
  decode_encode_of _ (.wide (.vsp w)) rfl rfl (read_va _ _ rfl) (fun _ => rfl)
theorem vdsp (w : VA) : Statement (.vdsp w) :=
  decode_encode_of _ (.wide (.vdsp w)) rfl rfl (read_va _ _ rfl) (fun _ => rfl)
theorem vsrSeed (w : VA) : Statement (.vsrSeed w) :=
  decode_encode_of _ (.wide (.vsrSeed w)) rfl rfl (read_va _ _ rfl) (fun _ => rfl)
theorem vpk (w : VA) : Statement (.vpk w) :=
  decode_encode_of _ (.wide (.vpk w)) rfl rfl (read_va _ _ rfl) (fun _ => rfl)
theorem vupk (w : VA) : Statement (.vupk w) :=
  decode_encode_of _ (.wide (.vupk w)) rfl rfl (read_va _ _ rfl) (fun _ => rfl)
theorem ldm (w : ME) : Statement (.ldm w) :=
  decode_encode_of _ (.wide (.ldm w)) rfl rfl (read_me _ _ rfl) (fun h => by
    have e : w.fe = 0#3 := by
      simp only [AnyWord.legal, WideWord.legal, ldmOk, Bool.and_eq_true, beq_iff_eq] at h
      first | exact h.2 | exact BitVec.eq_of_toNat_eq h.2 | exact BitVec.eq_of_toNat_eq (by simp_all) | simp_all
    simp [AnyWord.view, WideWord.view, View.anyWord, rowME, e])
theorem ldmWait (w : ME) : Statement (.ldmWait w) :=
  decode_encode_of _ (.wide (.ldmWait w)) rfl rfl (read_me _ _ rfl) (fun h => by
    have e : w.fe = 1#3 := by
      simp only [AnyWord.legal, WideWord.legal, ldmOk, Bool.and_eq_true, beq_iff_eq] at h
      first | exact h.2 | exact BitVec.eq_of_toNat_eq h.2 | exact BitVec.eq_of_toNat_eq (by simp_all) | simp_all
    simp [AnyWord.view, WideWord.view, View.anyWord, rowME, e])
theorem ldmCons (w : ME) : Statement (.ldmCons w) :=
  decode_encode_of _ (.wide (.ldmCons w)) rfl rfl (read_me _ _ rfl) (fun h => by
    have e : w.fe = 2#3 := by
      simp only [AnyWord.legal, WideWord.legal, ldmOk, Bool.and_eq_true, beq_iff_eq] at h
      first | exact h.2 | exact BitVec.eq_of_toNat_eq h.2 | exact BitVec.eq_of_toNat_eq (by simp_all) | simp_all
    simp [AnyWord.view, WideWord.view, View.anyWord, rowME, e])
theorem stm (w : ME) : Statement (.stm w) :=
  decode_encode_of _ (.wide (.stm w)) rfl rfl (read_me _ _ rfl) (fun h => by
    have e : w.fe = 0#3 := by
      simp only [AnyWord.legal, WideWord.legal, stmOk, Bool.and_eq_true, beq_iff_eq] at h
      first | exact h.2 | exact BitVec.eq_of_toNat_eq h.2 | exact BitVec.eq_of_toNat_eq (by simp_all) | simp_all
    simp [AnyWord.view, WideWord.view, View.anyWord, rowME, e])
theorem stmFill (w : ME) : Statement (.stmFill w) :=
  decode_encode_of _ (.wide (.stmFill w)) rfl rfl (read_me _ _ rfl) (fun h => by
    have e : w.fe = 3#3 := by
      simp only [AnyWord.legal, WideWord.legal, stmOk, Bool.and_eq_true, beq_iff_eq] at h
      first | exact h.2 | exact BitVec.eq_of_toNat_eq h.2 | exact BitVec.eq_of_toNat_eq (by simp_all) | simp_all
    simp [AnyWord.view, WideWord.view, View.anyWord, rowME, e])
theorem stmOvf (w : ME) : Statement (.stmOvf w) :=
  decode_encode_of _ (.wide (.stmOvf w)) rfl rfl (read_me _ _ rfl) (fun h => by
    have e : w.fe = 4#3 := by
      simp only [AnyWord.legal, WideWord.legal, stmOk, Bool.and_eq_true, beq_iff_eq] at h
      first | exact h.2 | exact BitVec.eq_of_toNat_eq h.2 | exact BitVec.eq_of_toNat_eq (by simp_all) | simp_all
    simp [AnyWord.view, WideWord.view, View.anyWord, rowME, e])
theorem stmSete (w : ME) : Statement (.stmSete w) :=
  decode_encode_of _ (.wide (.stmSete w)) rfl rfl (read_me _ _ rfl) (fun h => by
    have e : w.fe = 5#3 := by
      simp only [AnyWord.legal, WideWord.legal, stmOk, Bool.and_eq_true, beq_iff_eq] at h
      first | exact h.2 | exact BitVec.eq_of_toNat_eq h.2 | exact BitVec.eq_of_toNat_eq (by simp_all) | simp_all
    simp [AnyWord.view, WideWord.view, View.anyWord, rowME, e])
theorem feProbe (w : ME) : Statement (.feProbe w) :=
  decode_encode_of _ (.wide (.feProbe w)) rfl rfl (read_me _ _ rfl) (fun _ => rfl)
theorem feSet (w : ME) : Statement (.feSet w) :=
  decode_encode_of _ (.wide (.feSet w)) rfl rfl (read_me _ _ rfl) (fun _ => rfl)
theorem atAdd (w : ME) : Statement (.atAdd w) :=
  decode_encode_of _ (.wide (.atAdd w)) rfl rfl (read_me _ _ rfl) (fun _ => rfl)
theorem atSub (w : ME) : Statement (.atSub w) :=
  decode_encode_of _ (.wide (.atSub w)) rfl rfl (read_me _ _ rfl) (fun _ => rfl)
theorem atAnd (w : ME) : Statement (.atAnd w) :=
  decode_encode_of _ (.wide (.atAnd w)) rfl rfl (read_me _ _ rfl) (fun _ => rfl)
theorem atOr (w : ME) : Statement (.atOr w) :=
  decode_encode_of _ (.wide (.atOr w)) rfl rfl (read_me _ _ rfl) (fun _ => rfl)
theorem atXor (w : ME) : Statement (.atXor w) :=
  decode_encode_of _ (.wide (.atXor w)) rfl rfl (read_me _ _ rfl) (fun _ => rfl)
theorem atMin (w : ME) : Statement (.atMin w) :=
  decode_encode_of _ (.wide (.atMin w)) rfl rfl (read_me _ _ rfl) (fun _ => rfl)
theorem atMax (w : ME) : Statement (.atMax w) :=
  decode_encode_of _ (.wide (.atMax w)) rfl rfl (read_me _ _ rfl) (fun _ => rfl)
theorem atMinn (w : ME) : Statement (.atMinn w) :=
  decode_encode_of _ (.wide (.atMinn w)) rfl rfl (read_me _ _ rfl) (fun _ => rfl)
theorem atMaxn (w : ME) : Statement (.atMaxn w) :=
  decode_encode_of _ (.wide (.atMaxn w)) rfl rfl (read_me _ _ rfl) (fun _ => rfl)
theorem atXchg (w : ME) : Statement (.atXchg w) :=
  decode_encode_of _ (.wide (.atXchg w)) rfl rfl (read_me _ _ rfl) (fun _ => rfl)
theorem atCas (w : ME) : Statement (.atCas w) :=
  decode_encode_of _ (.wide (.atCas w)) rfl rfl (read_me _ _ rfl) (fun _ => rfl)
theorem atFadd (w : ME) : Statement (.atFadd w) :=
  decode_encode_of _ (.wide (.atFadd w)) rfl rfl (read_me _ _ rfl) (fun _ => rfl)
theorem atInc (w : ME) : Statement (.atInc w) :=
  decode_encode_of _ (.wide (.atInc w)) rfl rfl (read_me _ _ rfl) (fun _ => rfl)
theorem acq (w : ME) : Statement (.acq w) :=
  decode_encode_of _ (.wide (.acq w)) rfl rfl (read_me _ _ rfl) (fun _ => rfl)
theorem rel (w : ME) : Statement (.rel w) :=
  decode_encode_of _ (.wide (.rel w)) rfl rfl (read_me _ _ rfl) (fun _ => rfl)
theorem syncBind (w : ME) : Statement (.syncBind w) :=
  decode_encode_of _ (.wide (.syncBind w)) rfl rfl (read_me _ _ rfl) (fun _ => rfl)
theorem syncUnbind (w : ME) : Statement (.syncUnbind w) :=
  decode_encode_of _ (.wide (.syncUnbind w)) rfl rfl (read_me _ _ rfl) (fun _ => rfl)
theorem prefetch (w : ME) : Statement (.prefetch w) :=
  decode_encode_of _ (.wide (.prefetch w)) rfl rfl (read_me _ _ rfl) (fun _ => rfl)
theorem cp (w : CP) : Statement (.cp w) :=
  decode_encode_of _ (.wide (.cp w)) rfl rfl (read_cp _ _ rfl) (fun _ => rfl)
theorem cpG (w : CP) : Statement (.cpG w) :=
  decode_encode_of _ (.wide (.cpG w)) rfl rfl (read_cp _ _ rfl) (fun _ => rfl)
theorem cpSc (w : CP) : Statement (.cpSc w) :=
  decode_encode_of _ (.wide (.cpSc w)) rfl rfl (read_cp _ _ rfl) (fun _ => rfl)
theorem cpBc (w : CP) : Statement (.cpBc w) :=
  decode_encode_of _ (.wide (.cpBc w)) rfl rfl (read_cp _ _ rfl) (fun _ => rfl)
theorem cpRed (w : CP) : Statement (.cpRed w) :=
  decode_encode_of _ (.wide (.cpRed w)) rfl rfl (read_cp _ _ rfl) (fun _ => rfl)
theorem cpW (w : CP) : Statement (.cpW w) :=
  decode_encode_of _ (.wide (.cpW w)) rfl rfl (read_cp _ _ rfl) (fun _ => rfl)
theorem cpMm (w : CP) : Statement (.cpMm w) :=
  decode_encode_of _ (.wide (.cpMm w)) rfl rfl (read_cp _ _ rfl) (fun _ => rfl)
theorem cpFe (w : CP) : Statement (.cpFe w) :=
  decode_encode_of _ (.wide (.cpFe w)) rfl rfl (read_cp _ _ rfl) (fun _ => rfl)
theorem cpZero (w : CP) : Statement (.cpZero w) :=
  decode_encode_of _ (.wide (.cpZero w)) rfl rfl (read_cp _ _ rfl) (fun _ => rfl)
theorem asCfg (w : CF) : Statement (.asCfg w) :=
  decode_encode_of _ (.wide (.asCfg w)) rfl rfl (read_cf _ _ rfl) (fun _ => rfl)
theorem asDim (w : CF) : Statement (.asDim w) :=
  decode_encode_of _ (.wide (.asDim w)) rfl rfl (read_cf _ _ rfl) (fun _ => rfl)
theorem asFmt (w : CF) : Statement (.asFmt w) :=
  decode_encode_of _ (.wide (.asFmt w)) rfl rfl (read_cf _ _ rfl) (fun _ => rfl)
theorem asBindLocal (w : CF) : Statement (.asBindLocal w) :=
  decode_encode_of _ (.wide (.asBindLocal w)) rfl rfl (read_cf _ _ rfl) (fun h => by
    have e : w.imm = 0#6 := by
      simp only [AnyWord.legal, WideWord.legal, cfOk, Bool.and_eq_true, beq_iff_eq] at h
      first | exact h.2 | exact BitVec.eq_of_toNat_eq h.2 | exact BitVec.eq_of_toNat_eq (by simp_all) | simp_all
    simp [AnyWord.view, WideWord.view, View.anyWord, rowCF, e])
theorem asBindDevice (w : CF) : Statement (.asBindDevice w) :=
  decode_encode_of _ (.wide (.asBindDevice w)) rfl rfl (read_cf _ _ rfl) (fun h => by
    have e : w.imm = 1#6 := by
      simp only [AnyWord.legal, WideWord.legal, cfOk, Bool.and_eq_true, beq_iff_eq] at h
      first | exact h.2 | exact BitVec.eq_of_toNat_eq h.2 | exact BitVec.eq_of_toNat_eq (by simp_all) | simp_all
    simp [AnyWord.view, WideWord.view, View.anyWord, rowCF, e])
theorem asRst (w : CF) : Statement (.asRst w) :=
  decode_encode_of _ (.wide (.asRst w)) rfl rfl (read_cf _ _ rfl) (fun _ => rfl)
theorem asAdv (w : CF) : Statement (.asAdv w) :=
  decode_encode_of _ (.wide (.asAdv w)) rfl rfl (read_cf _ _ rfl) (fun _ => rfl)
theorem sgBind (w : CF) : Statement (.sgBind w) :=
  decode_encode_of _ (.wide (.sgBind w)) rfl rfl (read_cf _ _ rfl) (fun _ => rfl)
theorem sgPin (w : CF) : Statement (.sgPin w) :=
  decode_encode_of _ (.wide (.sgPin w)) rfl rfl (read_cf _ _ rfl) (fun _ => rfl)
theorem sgUnpin (w : CF) : Statement (.sgUnpin w) :=
  decode_encode_of _ (.wide (.sgUnpin w)) rfl rfl (read_cf _ _ rfl) (fun _ => rfl)
theorem sgTouch (w : CF) : Statement (.sgTouch w) :=
  decode_encode_of _ (.wide (.sgTouch w)) rfl rfl (read_cf _ _ rfl) (fun _ => rfl)
theorem sgEvict (w : CF) : Statement (.sgEvict w) :=
  decode_encode_of _ (.wide (.sgEvict w)) rfl rfl (read_cf _ _ rfl) (fun _ => rfl)
theorem sgInfo (w : CF) : Statement (.sgInfo w) :=
  decode_encode_of _ (.wide (.sgInfo w)) rfl rfl (read_cf _ _ rfl) (fun _ => rfl)
theorem vlSet (w : CF) : Statement (.vlSet w) :=
  decode_encode_of _ (.wide (.vlSet w)) rfl rfl (read_cf _ _ rfl) (fun _ => rfl)
theorem wbSwap (w : SY) : Statement (.wbSwap w) :=
  decode_encode_of _ (.wide (.wbSwap w)) rfl rfl (read_sy _ _ rfl) (fun _ => rfl)
theorem wbStat (w : SY) : Statement (.wbStat w) :=
  decode_encode_of _ (.wide (.wbStat w)) rfl rfl (read_sy _ _ rfl) (fun _ => rfl)
theorem barInit (w : SY) : Statement (.barInit w) :=
  decode_encode_of _ (.wide (.barInit w)) rfl rfl (read_sy _ _ rfl) (fun _ => rfl)
theorem barArr (w : SY) : Statement (.barArr w) :=
  decode_encode_of _ (.wide (.barArr w)) rfl rfl (read_sy _ _ rfl) (fun _ => rfl)
theorem barWait (w : SY) : Statement (.barWait w) :=
  decode_encode_of _ (.wide (.barWait w)) rfl rfl (read_sy _ _ rfl) (fun _ => rfl)
theorem barXferIn (w : SY) : Statement (.barXferIn w) :=
  decode_encode_of _ (.wide (.barXferIn w)) rfl rfl (read_sy _ _ rfl) (fun h => by
    have e : w.imm = 0#16 := by
      simp only [AnyWord.legal, WideWord.legal, syOk, Bool.and_eq_true, beq_iff_eq] at h
      first | exact h.2 | exact BitVec.eq_of_toNat_eq h.2 | exact BitVec.eq_of_toNat_eq (by simp_all) | simp_all
    simp [AnyWord.view, WideWord.view, View.anyWord, rowSY, e])
theorem barXferOut (w : SY) : Statement (.barXferOut w) :=
  decode_encode_of _ (.wide (.barXferOut w)) rfl rfl (read_sy _ _ rfl) (fun h => by
    have e : w.imm = 1#16 := by
      simp only [AnyWord.legal, WideWord.legal, syOk, Bool.and_eq_true, beq_iff_eq] at h
      first | exact h.2 | exact BitVec.eq_of_toNat_eq h.2 | exact BitVec.eq_of_toNat_eq (by simp_all) | simp_all
    simp [AnyWord.view, WideWord.view, View.anyWord, rowSY, e])
theorem vbRd (w : SY) : Statement (.vbRd w) :=
  decode_encode_of _ (.wide (.vbRd w)) rfl rfl (read_sy _ _ rfl) (fun _ => rfl)
theorem vbWr (w : SY) : Statement (.vbWr w) :=
  decode_encode_of _ (.wide (.vbWr w)) rfl rfl (read_sy _ _ rfl) (fun _ => rfl)
theorem clkRatio (w : SY) : Statement (.clkRatio w) :=
  decode_encode_of _ (.wide (.clkRatio w)) rfl rfl (read_sy _ _ rfl) (fun _ => rfl)
theorem xld (w : SY) : Statement (.xld w) :=
  decode_encode_of _ (.wide (.xld w)) rfl rfl (read_sy _ _ rfl) (fun _ => rfl)
theorem xst (w : SY) : Statement (.xst w) :=
  decode_encode_of _ (.wide (.xst w)) rfl rfl (read_sy _ _ rfl) (fun _ => rfl)
theorem xat (w : SY) : Statement (.xat w) :=
  decode_encode_of _ (.wide (.xat w)) rfl rfl (read_sy _ _ rfl) (fun _ => rfl)
theorem xcpPush (w : SY) : Statement (.xcpPush w) :=
  decode_encode_of _ (.wide (.xcpPush w)) rfl rfl (read_sy _ _ rfl) (fun h => by
    simp only [AnyWord.legal, WideWord.legal, Bool.and_eq_true, Bool.not_eq_true', and_assoc] at h
    change Option.map AnyWord.wide (if (!w.imm.getLsbD 5) = true then some (WideWord.xcpPush w) else if w.imm.getLsbD 5 = true then some (.xcpPull w)
      else none) = _
    rw [h.2.2]; rfl)
theorem xcpPull (w : SY) : Statement (.xcpPull w) :=
  decode_encode_of _ (.wide (.xcpPull w)) rfl rfl (read_sy _ _ rfl) (fun h => by
    simp only [AnyWord.legal, WideWord.legal, Bool.and_eq_true, and_assoc] at h
    change Option.map AnyWord.wide (if (!w.imm.getLsbD 5) = true then some (WideWord.xcpPush w) else if w.imm.getLsbD 5 = true then some (.xcpPull w)
      else none) = _
    rw [h.2.2]; rfl)
theorem xsigSet (w : SY) : Statement (.xsigSet w) :=
  decode_encode_of _ (.wide (.xsigSet w)) rfl rfl (read_sy _ _ rfl) (fun h => by
    simp only [AnyWord.legal, WideWord.legal, Bool.and_eq_true, Bool.not_eq_true', and_assoc] at h
    change Option.map AnyWord.wide (if (!w.imm.getLsbD 0) = true then some (WideWord.xsigSet w) else if w.imm.getLsbD 0 = true then some (.xsigAdd w)
      else none) = _
    rw [h.2.2.1]; rfl)
theorem xsigAdd (w : SY) : Statement (.xsigAdd w) :=
  decode_encode_of _ (.wide (.xsigAdd w)) rfl rfl (read_sy _ _ rfl) (fun h => by
    simp only [AnyWord.legal, WideWord.legal, Bool.and_eq_true, and_assoc] at h
    change Option.map AnyWord.wide (if (!w.imm.getLsbD 0) = true then some (WideWord.xsigSet w) else if w.imm.getLsbD 0 = true then some (.xsigAdd w)
      else none) = _
    rw [h.2.2.1]; rfl)
theorem xfence (w : SY) : Statement (.xfence w) :=
  decode_encode_of _ (.wide (.xfence w)) rfl rfl (read_sy _ _ rfl) (fun _ => rfl)
theorem xroute (w : SY) : Statement (.xroute w) :=
  decode_encode_of _ (.wide (.xroute w)) rfl rfl (read_sy _ _ rfl) (fun _ => rfl)
theorem enRd (w : SY) : Statement (.enRd w) :=
  decode_encode_of _ (.wide (.enRd w)) rfl rfl (read_sy _ _ rfl) (fun _ => rfl)
theorem enMark (w : SY) : Statement (.enMark w) :=
  decode_encode_of _ (.wide (.enMark w)) rfl rfl (read_sy _ _ rfl) (fun _ => rfl)
theorem partId (w : SY) : Statement (.partId w) :=
  decode_encode_of _ (.wide (.partId w)) rfl rfl (read_sy _ _ rfl) (fun _ => rfl)
theorem tlbInv (w : SY) : Statement (.tlbInv w) :=
  decode_encode_of _ (.wide (.tlbInv w)) rfl rfl (read_sy _ _ rfl) (fun h => by
    have e : w.imm = 0#16 := by
      simp only [AnyWord.legal, WideWord.legal, syOk, Bool.and_eq_true, beq_iff_eq] at h
      first | exact h.2 | exact BitVec.eq_of_toNat_eq h.2 | exact BitVec.eq_of_toNat_eq (by simp_all) | simp_all
    simp [AnyWord.view, WideWord.view, View.anyWord, rowSY, e])
theorem tlbInvAll (w : SY) : Statement (.tlbInvAll w) :=
  decode_encode_of _ (.wide (.tlbInvAll w)) rfl rfl (read_sy _ _ rfl) (fun h => by
    have e : w.imm = 1#16 := by
      simp only [AnyWord.legal, WideWord.legal, syOk, Bool.and_eq_true, beq_iff_eq] at h
      first | exact h.2 | exact BitVec.eq_of_toNat_eq h.2 | exact BitVec.eq_of_toNat_eq (by simp_all) | simp_all
    simp [AnyWord.view, WideWord.view, View.anyWord, rowSY, e])
theorem segInv (w : SY) : Statement (.segInv w) :=
  decode_encode_of _ (.wide (.segInv w)) rfl rfl (read_sy _ _ rfl) (fun _ => rfl)
theorem tarRd (w : SY) : Statement (.tarRd w) :=
  decode_encode_of _ (.wide (.tarRd w)) rfl rfl (read_sy _ _ rfl) (fun _ => rfl)
theorem ctxSv (w : SY) : Statement (.ctxSv w) :=
  decode_encode_of _ (.wide (.ctxSv w)) rfl rfl (read_sy _ _ rfl) (fun h => by
    have e : w.imm.toNat < 2 := by
      simp only [AnyWord.legal, WideWord.legal, Bool.and_eq_true, decide_eq_true_eq] at h
      exact h.2
    change Option.map AnyWord.wide (if (!w.imm.getLsbD 1) = true then some (WideWord.ctxSv w) else if w.imm.getLsbD 1 = true then some (.ctxSvEpi w)
      else none) = _
    rw [low_bits w.imm e 1 (by decide)]; rfl)
theorem ctxSvEpi (w : SY) : Statement (.ctxSvEpi w) :=
  decode_encode_of _ (.wide (.ctxSvEpi w)) rfl rfl (read_sy _ _ rfl) (fun h => by
    have e : w.imm = 2 ∨ w.imm = 3 := by
      simp only [AnyWord.legal, WideWord.legal, Bool.and_eq_true, Bool.or_eq_true, beq_iff_eq] at h
      exact h.2
    change Option.map AnyWord.wide (if (!w.imm.getLsbD 1) = true then some (WideWord.ctxSv w) else if w.imm.getLsbD 1 = true then some (.ctxSvEpi w)
      else none) = _
    rcases e with e | e <;> rw [e] <;> rfl)
theorem ctxLd (w : SY) : Statement (.ctxLd w) :=
  decode_encode_of _ (.wide (.ctxLd w)) rfl rfl (read_sy _ _ rfl) (fun h => by
    have e : w.imm.toNat < 2 := by
      simp only [AnyWord.legal, WideWord.legal, Bool.and_eq_true, decide_eq_true_eq] at h
      exact h.2
    change Option.map AnyWord.wide (if w.imm.getLsbD 2 = true then some (WideWord.ctxLdGo w)
      else if w.imm.getLsbD 1 = true then some (.ctxLdHold w) else some (.ctxLd w)) = _
    rw [low_bits w.imm e 2 (by decide), low_bits w.imm e 1 (by decide)]; rfl)
theorem ctxLdHold (w : SY) : Statement (.ctxLdHold w) :=
  decode_encode_of _ (.wide (.ctxLdHold w)) rfl rfl (read_sy _ _ rfl) (fun h => by
    have e : w.imm = 2 ∨ w.imm = 3 := by
      simp only [AnyWord.legal, WideWord.legal, Bool.and_eq_true, Bool.or_eq_true, beq_iff_eq] at h
      exact h.2
    change Option.map AnyWord.wide (if w.imm.getLsbD 2 = true then some (WideWord.ctxLdGo w)
      else if w.imm.getLsbD 1 = true then some (.ctxLdHold w) else some (.ctxLd w)) = _
    rcases e with e | e <;> rw [e] <;> rfl)
theorem ctxLdGo (w : SY) : Statement (.ctxLdGo w) :=
  decode_encode_of _ (.wide (.ctxLdGo w)) rfl rfl (read_sy _ _ rfl) (fun h => by
    have e : w.imm = 4 ∨ w.imm = 5 := by
      simp only [AnyWord.legal, WideWord.legal, Bool.and_eq_true, Bool.or_eq_true, beq_iff_eq] at h
      exact h.1.2
    change Option.map AnyWord.wide (if w.imm.getLsbD 2 = true then some (WideWord.ctxLdGo w)
      else if w.imm.getLsbD 1 = true then some (.ctxLdHold w) else some (.ctxLd w)) = _
    rcases e with e | e <;> rw [e] <;> rfl)
theorem mm (w : MX) : Statement (.mm w) :=
  decode_encode_of _ (.wide (.mm w)) rfl rfl (read_mx _ _) (fun _ => rfl)
theorem mmSp (w : MX) : Statement (.mmSp w) :=
  decode_encode_of _ (.wide (.mmSp w)) rfl rfl (read_mx _ _) (fun _ => rfl)
theorem mmTn (w : MX) : Statement (.mmTn w) :=
  decode_encode_of _ (.wide (.mmTn w)) rfl rfl (read_mx _ _) (fun _ => rfl)
theorem mdrain (w : MX) : Statement (.mdrain w) :=
  decode_encode_of _ (.wide (.mdrain w)) rfl rfl (read_mx _ _) (fun _ => rfl)
theorem mzero (w : MX) : Statement (.mzero w) :=
  decode_encode_of _ (.wide (.mzero w)) rfl rfl (read_mx _ _) (fun _ => rfl)
theorem mcorrLd (w : MX) : Statement (.mcorrLd w) :=
  decode_encode_of _ (.wide (.mcorrLd w)) rfl rfl (read_mx _ _) (fun _ => rfl)
theorem mcorrSt (w : MX) : Statement (.mcorrSt w) :=
  decode_encode_of _ (.wide (.mcorrSt w)) rfl rfl (read_mx _ _) (fun _ => rfl)
theorem mstat (w : MX) : Statement (.mstat w) :=
  decode_encode_of _ (.wide (.mstat w)) rfl rfl (read_mx _ _) (fun _ => rfl)

end Sys2Proof.Laws.RoundTrip
end

