-- ==== Sys2Proof/Tests/Slice0.lean ====
section
/-! SUPPORT. The model's own tests: words written out bit by bit from the spec, ill-formed terms, small steps whose results the
spec gives, and for every statement with hypotheses a state and operands that meet them. -/
namespace Sys2Proof.Tests
open Sys2Proof Sys2Proof.Machine
/- The theorems are checked one after another: checked side by side they hold many large terms at once. -/
set_option Elab.async false

/-! ## Small states -/

/-- `State.Ready` as a check. -/
def rdy (s : State) (v : AnyWord) (rd wr : List GReg) : Bool :=
  s.check v == none && !s.me.pending (guardRegs v s.me) && guardHolds v s.me && !s.me.pending (rd ++ wr) &&
    !(isAccess v.view && s.here.acquiring s.cur.strand) && !s.here.dbg
theorem ready_of {s : State} {v : AnyWord} {rd wr : List GReg} (h : rdy s v rd wr = true) : s.Ready v rd wr := by
  simp only [rdy, Bool.and_eq_true, Bool.not_eq_true', beq_iff_eq] at h
  obtain ⟨⟨⟨⟨⟨h1, h2⟩, h3⟩, h4⟩, h5⟩, h6⟩ := h
  exact ⟨h1, h2, h3, h4, h5, by simp [h6], by simp [h6]⟩
/-- `State.Canonical` as a check. -/
def canon (s : State) : Bool :=
  s.mem.wf && s.cores.toList.all (fun c => c.lstore.wf && c.astore.wf) && s.dies.toList.all (·.window.wf)
/-- Core 0 with a placed program in task context t0, one more page, readable and writable, at 0x20000, a segment of one granule
named 5 behind handle 0, and the slot of strand `p` of context `x` in focus. -/
def base (x : Ctx) (p : Strand) : State :=
  let s := (State.reset.placeWord 0).modCore 0 (·.placedAt .fw)
  let s := s.modCtx 0 .t0 fun k => { k with
    segs := [⟨5, 0, 0, 0, 0x20000, 1, 0, 0, 0, [], 0, none, false⟩], sg := k.sg.set 0 5, res := { k.res with dircnt := 16 } }
  { s with mem := s.mem.write 0x5010 8 0x20631
           cur := { s.cur with ctx := x, strand := p, at_ := placeAddr + 4 } }
/-- The same with a value in a register of the focus strand. -/
def baseG (x : Ctx) (p : Strand) (l : List (GReg × Word)) : State :=
  l.foldl (fun s q => s.modMe (·.write q.1 q.2)) (base x p)
/-- `State.LocalOk` as a check. -/
def localOk (s : State) (h : BitVec 6) (off : Word) (n : Nat) : Bool :=
  match resolveHandle s.here s.cur.ctx h with
  | none => false
  | some name => match s.myCore.seg? s.cur.ctx name with
    | none => false
    | some g => (s.cur.ctx != .fw || !g.isAcc) && g.moving != some .recall && s.here.touch.isEmpty && off.toNat % n == 0 &&
      off.toNat + n ≤ g.bytes
theorem localOk_of {s : State} {h : BitVec 6} {off : Word} {n : Nat} (e : localOk s h off n = true) :
    ∃ name g, s.LocalOk h off n name g := by
  unfold localOk at e
  cases hr : resolveHandle s.here s.cur.ctx h with
  | none => simp [hr] at e
  | some name =>
    cases hs : s.myCore.seg? s.cur.ctx name with
    | none => simp [hr, hs] at e
    | some g =>
      simp only [hr, hs, Bool.and_eq_true, Bool.or_eq_true, bne_iff_ne, ne_eq, Bool.not_eq_true', List.isEmpty_iff, beq_iff_eq,
        decide_eq_true_eq] at e
      obtain ⟨⟨⟨⟨h1, h2⟩, h3⟩, h4⟩, h5⟩ := e
      exact ⟨name, g, hr, hs, fun hx => h1.resolve_left (fun hn => hn hx), h2, by simp [h3], h4, h5⟩
/-- A global access finds nothing to wait for; its address translates, and its poison bits can be read and are clean. -/
def reaches (s : State) (a : Word) (need : Need) (n : Nat) : Bool :=
  !inPort a.toNat && a.toNat % n == 0 && !s.queuedDevice s.cur.strand a.toNat n && !s.here.replayHolds s.cur.strand a.toNat &&
  match s.xlat s.cur.core .scalar s.here.root a need with
  | .ok pa m => !s.hbm.badPoison pa n && !m.anyPoison pa n
  | _ => false
theorem canonical_of {s : State} (h : canon s = true) : s.Canonical := by
  simp only [canon, Bool.and_eq_true, List.all_eq_true] at h
  exact ⟨h.1.1, fun c => h.1.2 _ (Vector.mem_toList_iff.mpr (Vector.getElem_mem c.isLt)),
    fun d => h.2 _ (Vector.mem_toList_iff.mpr (Vector.getElem_mem d.isLt))⟩

/-! ## Witnesses: the hypotheses of the statements can be met -/

theorem witness_AluRegisterResults :
    (let w : SR := ⟨0, 31, 30, 29⟩
     [ScalarWord.add w, .sub w, .mul w, .mulh w, .mulhn w, .and w, .or w, .xor w, .andn w, .orn w, .shl w, .shr w, .sar w, .rol w,
      .ror w, .min w, .max w, .minn w, .maxn w, .addw w, .subw w, .mulw w, .shlw w, .shrw w, .sarw w].all fun v =>
        rdy (base .t0 .X) (.scalar v) [w.a, w.b] [w.d]) = true ∧
    (let w : SR := ⟨0, 31, 30, 29⟩
     [ScalarWord.div w, .divn w, .rem w, .remn w].all fun v =>
       rdy (base .t0 .S) (.scalar v) [w.a, w.b] [w.d] && (base .t0 .S).rd w.b == 0 &&
       rdy (baseG .t0 .S [(29, -1)]) (.scalar v) [w.a, w.b] [w.d] && (baseG .t0 .S [(29, -1)]).rd w.b != 0) = true := by
  decide +kernel
theorem witness_UnaryAndImmediateResults :
    (let w : SR := ⟨0, 31, 0, 0⟩
     [ScalarWord.mov w, .not w, .neg w, .abs w, .clz w, .ctz w, .popc w, .brev w, .bswap w, .sxb w, .sxh w, .sxw w, .zxb w, .zxh w,
      .zxw w].all fun v => rdy (base .t0 .K) (.scalar v) [w.a] [w.d]) = true ∧
    (let w : SI := ⟨0, 31, 0, 0x03F⟩
     [ScalarWord.addi w, .andi w, .ori w, .xori w, .shli w, .shri w, .sari w, .muli w, .addwi w].all fun v =>
       rdy (base .t0 .K) (.scalar v) [w.a] [w.d]) = true ∧
    (let w : SU := ⟨0, 0, 0x1FFFF⟩
     rdy (base .fw .K) (.scalar (.lui w)) [] [w.d] && rdy (base .fw .K) (.scalar (.lih w)) [w.d] [w.d] &&
       rdy (base .fw .K) (.scalar (.pca w)) [] [w.d]) = true := by
  decide +kernel
theorem witness_BitFieldAndCompareResults :
    (let w : SF := ⟨0, 31, 1, 63, 0⟩
     let u : SF := ⟨0, 31, 1, 0, 63⟩
     [w, u].all fun w => rdy (base .t0 .K) (.scalar (.bfx w)) [w.a] [w.d] && rdy (base .t0 .K) (.scalar (.bfxn w)) [w.a] [w.d] &&
       rdy (base .t0 .K) (.scalar (.bfi w)) [w.a, w.d] [w.d]) = true ∧
    ([SC.mk 0 31 1 2 63 0, SC.mk 0 31 1 2 0 1].all fun w =>
       [ScalarWord.ceq w, .cne w, .clt w, .cle w, .cltn w, .clen w].all fun v =>
         rdy (base .t0 .L) (.scalar v) (if w.comb = 1 then [w.a, w.b, w.d] else [w.a, w.b]) [w.d]) = true ∧
    (let w : SCI := ⟨0, 31, 1, 63, 0x20⟩
     [ScalarWord.ceqi w, .cnei w, .clti w, .cgti w].all fun v => rdy (base .t0 .L) (.scalar v) [w.a] [w.d]) = true ∧
    (rdy (base .t0 .S) (.scalar (.bset ⟨0, 31, 0, 63, 0⟩)) [] [31] && rdy (base .t0 .S) (.scalar (.bclr ⟨0, 31, 0, 63, 1⟩)) [] [31] &&
      rdy (base .t0 .S) (.scalar (.bnot ⟨0, 31, 0, 63, 2⟩)) [31] [31]) = true := by
  decide +kernel
theorem witness_BranchAndJumpResults :
    (let w : SB := ⟨0, 1, 63, 0x400⟩
     let j : SJ := ⟨0, 0x200000⟩
     let r : SR := ⟨0, 0, 1, 0⟩
     let s := base .t0 .K
     let odd := baseG .t0 .K [(1, 2)]
     rdy s (.scalar (.brT w)) [w.a] [] && rdy s (.scalar (.brF w)) [w.a] [] && rdy s (.scalar (.jmp j)) [] [] &&
       rdy s (.scalar (.call j)) [] [31] && rdy s (.scalar (.jr r)) [r.a] [] && rdy s (.scalar (.callr r)) [r.a] [31] &&
       (s.rd r.a).toNat % 4 == 0 && rdy odd (.scalar (.jr r)) [r.a] [] && rdy odd (.scalar (.callr r)) [r.a] [31] &&
       (odd.rd r.a).toNat % 4 != 0) = true := by
  decide +kernel
/-- Join bit 2 with L arrived of K, L and X; the other strands apart where `alone`. -/
def atJoin (joint alone : Bool) : State :=
  let s := (base .t0 .K).modHere fun k => { k with jb := k.jb.set 2 { JoinBit.reset with arrived := 2, mask := 7 } }
  let s := if alone then s.modHere fun k => { k with strands := k.strands.map fun _ t => { t with joined := false } } else
    s.modHere fun k => k.modStrand .X fun t => { t with joined := false }
  { s with cur := { s.cur with joint := joint } }
theorem witness_JoinAndForkResults :
    rdy (base .t0 .K) (.scalar (.fork ⟨0, 0x10000⟩)) [] [] = true ∧
    (let s := atJoin false true
     let w : SS := ⟨0, 16 * 2 + 7⟩
     rdy s (.scalar (.join w)) [] [] && (s.here.jbit w.jjb).arrived != 0 && maskBit (s.here.jbit w.jjb).mask .X &&
       !maskBit (s.here.jbit w.jjb).arrived .X && (s.here.strand .X).life != .ended) = true ∧
    (let s := atJoin true false
     let w : SS := ⟨0, 16 * 2 + 7⟩
     rdy s (.scalar (.join w)) [] [] && s.cur.joint && !s.cur.joined && (s.here.jbit w.jjb).arrived != 0 &&
       !s.here.group.contains .X && maskBit (s.here.jbit w.jjb).mask .X && !maskBit (s.here.jbit w.jjb).arrived .X &&
       (s.here.strand .X).life != .ended && rdy { s with cur := { s.cur with joined := true } } (.scalar (.join w)) [] []) = true ∧
    (let s := (base .t0 .K).modHere fun k => k.modStrand .S fun t => { t with life := .ended }
     let s := { s with cur := { s.cur with joint := false } }
     let w : SS := ⟨0, 16 * 1 + 9⟩
     rdy s (.scalar (.join w)) [] [] && (s.here.jbit w.jjb).arrived == 0 &&
       (Strand.all.all fun q => (s.here.jbit w.jjb).next.get q == none) && s.here.replay.isEmpty &&
       !s.here.ownKBusy s.cur.strand &&
       (Strand.all.all fun q => !maskBit w.mask q || q == s.cur.strand || (s.here.strand q).life == .ended)) = true ∧
    (let s := base .t0 .S
     let w : SS := ⟨0, 7⟩
     rdy s (.scalar (.jbset w)) [] [] && !s.here.ownStoreBusy s.cur.strand && s.here.replay.isEmpty && rdy s (.scalar (.jbclr w)) [] [] &&
       rdy s (.scalar (.jbwait w)) [] [] && !(s.here.jbit w.jb).flag &&
       (let t := s.modHere fun k => { k with jb := k.jb.set 7 { JoinBit.reset with flag := true } }
        rdy t (.scalar (.jbwait w)) [] [] && (t.here.jbit w.jb).flag)) = true := by
  decide +kernel

theorem witness_EndingResults :
    (let s := base .t0 .X
     let w : SS := ⟨0, 0⟩
     rdy s (.scalar (.exit w)) [] [] && !s.exitBusy s.exitStart.1 && s.me.land.isEmpty && s.exitStart.2 == 0 &&
       rdy s (.scalar (.yield w)) [] []) = true ∧
    (let s := (base .t0 .X).modHere fun k => { k with swaps := 1 }
     rdy s (.scalar (.exit ⟨0, 0⟩)) [] [] && s.exitBusy s.exitStart.1) = true ∧
    (let s := base .t0 .X
     let d := s.discard s.cur.core s.cur.ctx fun _ => true
     rdy s (.scalar (.exitAb ⟨0, 0⟩)) [] [] && s.me.exitMark == none && !d.exitBusy s.here.serial && d.me.land.isEmpty &&
       (s.here.unstarted fun _ => true).isEmpty) = true ∧
    (let s := (base .t0 .X).modHere fun k => { k with mx := [⟨⟨1, .X, false, none, Vector.replicate 6 ⟨false, 0, 0⟩, false, 0, 0, 0⟩,
       .mzero MX.zero, MX.zero, none, 0, 0, 0, none, none, none, none, none, .queued, [], .t0, [], 0⟩], serial := 1 }
     let d := s.discard s.cur.core s.cur.ctx fun _ => true
     rdy s (.scalar (.exitAb ⟨0, 0⟩)) [] [] && s.me.exitMark == none && !d.exitBusy s.here.serial && d.me.land.isEmpty &&
       (s.here.unstarted fun _ => true).length == 1) = true ∧
    (let s := base .fw .X
     rdy s (.scalar (.exit ⟨0, 0⟩)) [] [] && rdy s (.scalar (.exitAb ⟨0, 0⟩)) [] [] && rdy s (.scalar (.yield ⟨0, 0⟩)) [] []) = true := by
  decide +kernel
/-- Firmware K serves a trap of L of t0, which stands trapped in its joined group. -/
def serving : State :=
  (base .fw .K).modCore 0 fun k => { k.modCtx .t0 (fun m => { m with strands := m.strands.map fun _ t => { t with life := .trapped } }) with
    serving := ⟨some (.t0, .L), none, none, none⟩ }
theorem witness_SystemWordResults :
    (let s := base .t0 .X
     rdy s (.scalar (.trap ⟨0, 0x1FFFF⟩)) [] [] && rdy s (.scalar (.brk ⟨0, 0x1FFFF⟩)) [] [] && !s.here.debugger &&
       rdy (s.modHere fun k => { k with debugger := true }) (.scalar (.brk ⟨0, 0⟩)) [] [] &&
       rdy s (.scalar (.rdsr ⟨0, 31 + 32 * 0x1F⟩)) [] [31] && rdy s (.scalar (.wrsr ⟨0, 1 + 32 * 5⟩)) [1] [] &&
       rdy s (.scalar (.guard ⟨0, 31 + 32 * 63⟩)) [] []) = true ∧
    rdy (base .fw .K) (.scalar (.wrsr ⟨0, 1 + 32 * 0x12⟩)) [1] [] = true ∧
    (rdy (base .fw .K) (.scalar (.eret ⟨0, 0⟩)) [] [] && (base .fw .K).myCore.serving.get .K == none) = true ∧
    (let s := serving
     rdy s (.scalar (.eret ⟨0, 0⟩)) [] [] && s.myCore.serving.get s.cur.strand == some (.t0, .L) && !(s.strand 0 .t0 .L).ending &&
       Strand.all.all fun q => (s.strand 0 .t0 q).lateq.isEmpty) = true := by
  decide +kernel
theorem witness_CounterTokenFenceResults :
    (let s := baseG .t0 .X [(3, 1)]
     let w : SS := ⟨0, 15 + 16 * 3 + 512 * 0⟩
     rdy s (.scalar (.ccAdd w)) [w.cca] [] && rdy s (.scalar (.ccSet w)) [w.cca] [] && rdy s (.scalar (.waitLt w)) [w.cca] [] &&
       rdy s (.scalar (.waitGe w)) [w.cca] [] && s.me.threshold == none && w.cca == 3 && s.here.cc[w.cc.toNat].toNat < 1 &&
       (let t := s.modMe fun t => { t with threshold := some 0 }
        rdy t (.scalar (.waitLt w)) [] [] && rdy t (.scalar (.waitGe w)) [] [])) = true ∧
    (let s := base .t0 .X
     let w : SS := ⟨0, 1⟩
     let full := s.modHere fun k => { k with tokens := ⟨8, 8, 8, 8, 8, 8⟩ }
     rdy s (.scalar (.tokPush w)) [] [] && rdy s (.scalar (.tokPop w)) [] [] && !s.here.ownKBusy s.cur.strand && s.here.replay.isEmpty &&
       s.here.tokens.get s.cur.strand (neighbour s.cur.strand w.dir) < 8 && s.here.tokens.get (neighbour s.cur.strand w.dir) s.cur.strand == 0 &&
       rdy full (.scalar (.tokPush w)) [] [] && rdy full (.scalar (.tokPop w)) [] [] &&
       8 ≤ full.here.tokens.get s.cur.strand (neighbour s.cur.strand w.dir)) = true ∧
    (let s := base .t0 .X
     let w : SS := ⟨0, 63 + 64 * 5⟩
     let busy := s.modHere fun k => { k with replay := [⟨.L, 0x20000, 0, false, [], none⟩] }
     rdy s (.scalar (.fence w)) [] [] && !s.fenceBusy w.classes (s.me.mark.getD s.here.serial) && rdy busy (.scalar (.fence w)) [] [] &&
       busy.fenceBusy w.classes (busy.me.mark.getD busy.here.serial)) = true := by
  decide +kernel

/-- Two bundles: the placed one and an add in K after it. -/
def twoBundles : State :=
  let s := base .t0 .K
  { s with mem := s.mem.write (placeCode + 8) 8 (encodeHeader ⟨1, 1, 0, 0, 0, 0⟩ + 2 ^ 32 * 0x00731410) }
/-- Level 5 active over the placed bundle. -/
def inLevel : State := (base .t0 .K).modHere fun k => { k with
  lv := k.lv.set 5 ⟨true, 4, 1, 1, placeAddr, placeAddr + 8, Vector.replicate 32 0, placeAddr + 16, true⟩ }
theorem witness_SequencerResults :
    ([base .t0 .K, inLevel].all fun s =>
       rdy s (.scalar (.lpSet ⟨0, 5 + 8 * 31⟩)) [31] [] && rdy s (.scalar (.lpStride ⟨0, 5 + 8 * 31 + 256 * 31⟩)) [31] [] &&
       rdy s (.scalar (.lpRun ⟨0, 5 + 8 * 2⟩)) [] [] && rdy s (.scalar (.lpBrk ⟨0, 5⟩)) [] []) = true ∧
    ((inLevel.here.level 5).active && !((base .t0 .K).here.level 5).active &&
      (inLevel.here.level 5).top.toNat ≤ (inLevel.here.level 5).fin.toNat) = true ∧
    ([twoBundles, twoBundles.modHere fun k => { k with lv := k.lv.set 5 { Level.reset with trip := 1 } }].all fun s =>
       rdy s (.scalar (.lpRun ⟨0, 5 + 8 * 2⟩)) [] [] && s.here.activeLevels.isEmpty && !(s.here.level 5).active &&
       (match s.issued.walkBody (placeAddr + 8) (placeAddr + 8) 256 with
        | .reached _ _ => true
        | _ => false)) = true ∧
    ([base .fw .K, { inLevel with cur := { inLevel.cur with ctx := .fw } }].all fun s =>
       rdy s (.scalar (.lpClamp ⟨0, 5 + 8 * 31⟩)) [31] []) = true ∧
    (let s := { inLevel with cur := { inLevel.cur with ctx := .fw } }
     let l := (s.ctx 0 s.myCore.boundary).level 5
     l.active && l.index.toNat < l.trip.toNat) = true := by
  decide +kernel
theorem witness_ScalarLoadAndStoreResults :
    canon (base .t0 .L) = true ∧
    ([(ScalarWord.ldlB, 1), (.ldlH, 2), (.ldlW, 4), (.ldlD, 8)].all fun q =>
       let w : SL := ⟨0, 31, 1, 0, 63⟩
       rdy (base .t0 .L) (.scalar (q.1 w)) [w.a] [w.d] && localOk (base .t0 .L) w.handle ((base .t0 .L).slOff w q.2) q.2 &&
         !(base .t0 .L).myLocalHeld w q.2) = true ∧
    ([(ScalarWord.stlB, 1), (.stlH, 2), (.stlW, 4), (.stlD, 8)].all fun q =>
       let w : SL := ⟨0, 31, 1, 0, 63⟩
       let s := baseG .t0 .L [(1, BitVec.ofNat 64 (4096 - 64 * q.2))]
       rdy s (.scalar (q.1 w)) [w.a, w.d] [] && localOk s w.handle (s.slOff w q.2) q.2 && !s.myLocalHeld w q.2 &&
         s.myCore.waitList.isEmpty && s.here.bars.isEmpty) = true ∧
    ([(ScalarWord.ldgB, 1), (.ldgH, 2), (.ldgW, 4), (.ldgD, 8)].all fun q =>
       let w : SG := ⟨0, 31, 1, -BitVec.ofNat 12 q.2⟩
       let s := baseG .t0 .S [(1, 0x30000)]
       rdy s (.scalar (q.1 w)) [w.a] [w.d] && !s.loadsFull && reaches s (s.sgAddr w) needRd q.2) = true ∧
    ([(ScalarWord.stgB, 1), (.stgH, 2), (.stgW, 4), (.stgD, 8)].all fun q =>
       let w : SG := ⟨0, 31, 1, -BitVec.ofNat 12 q.2⟩
       let s := baseG .t0 .S [(1, 0x30000)]
       rdy s (.scalar (q.1 w)) [w.a, w.d] [] && canon s && reaches s (s.sgAddr w) needFill q.2 &&
         s.dies.all (·.waiters.isEmpty)) = true := by
  decide +kernel
theorem witness_ScalarLoadAndStoreResults_port :
    (let w : SG := ⟨0, 31, 1, 0⟩
     [(0, Strand.L, Strand.K), (1, .X, .L), (2, .S, .X)].all fun q =>
       let s := baseG .t0 q.2.1 [(1, BitVec.ofNat 64 (portBase + 8 * q.1))]
       let t := s.modHere fun k => k.setQueue q.1 [7]
       let u := baseG .t0 q.2.2 [(1, BitVec.ofNat 64 (portBase + 8 * q.1))]
       let f := u.modHere fun k => k.setQueue q.1 (List.replicate 64 7)
       [s, t].all (fun s => rdy s (.scalar (.ldgD w)) [w.a] [w.d] && portQueue (s.sgAddr w).toNat == some q.1 &&
         s.cur.strand == queuePopper q.1 && !s.loadsFull && !s.here.headBad q.1) &&
       (s.here.queue q.1).isEmpty && t.here.queue q.1 == [7] &&
       [u, f].all (fun s => rdy s (.scalar (.stgD w)) [w.a, w.d] [] && portQueue (s.sgAddr w).toNat == some q.1 &&
         s.cur.strand == queuePusher q.1) && !queueFull u.here q.1 && queueFull f.here q.1) = true := by
  decide +kernel

/-- A directory at 0x20000 with an absent segment 7 of `n` granules behind handle 0, for which L has waited and failed or not. -/
def absent7 (n : Nat) (failed : Bool) : State :=
  let s := (base .t0 .L).modHere fun k => { k with res := { k.res with dirbase := 0x2000 }, sg := k.sg.set 0 7
                                                   touch := if failed then [⟨7, .L, none, 0, 0, true⟩] else [] }
  { s with mem := s.mem.write 0x20070 16 (0x20 + 2 ^ 56 * (n - 1)) }
/-- The words of TrapsLocal can issue, at the offset that the register gives. -/
def trapsAt (s : State) (w : SL) (n : Nat) (f : State → Bool) : Bool :=
  rdy s (.scalar (.ldlB w)) [w.a] [w.d] && rdy s (.scalar (.stlD w)) [w.a, w.d] [] && !s.myLocalHeld w n && f s
def descOk (s : State) (name : BitVec 16) (f : Seg → Bool) : Bool :=
  match s.segDesc s.cur.core s.cur.ctx name with
  | .found g => f g
  | _ => false
theorem witness_ScalarLoadAndStoreResults_localTraps :
    (let w : SL := ⟨0, 31, 1, 0, 0⟩
     [1, 2, 4, 8].all fun n =>
       trapsAt (base .t0 .L) { w with handle := 63 } n (fun s => resolveHandle s.here .t0 63 == none) &&
       (n == 1 || trapsAt (baseG .t0 .L [(1, 1)]) w n fun s => resolveHandle s.here .t0 0 == some 5 && (s.slOff w n).toNat % n != 0) &&
       trapsAt ((base .fw .L).modHere fun k => { k with sg := k.sg.set 0 9 }) w n (fun s => resolveHandle s.here .fw 0 == some 9 &&
         (match s.segDesc 0 .fw 9 with
          | .fails => true
          | _ => false)) &&
       trapsAt (baseG .t0 .L [(1, 4096)]) w n (fun s => resolveHandle s.here .t0 0 == some 5 && (s.slOff w n).toNat % n == 0 &&
         descOk s 5 fun g => g.bytes < (s.slOff w n).toNat + n) &&
       trapsAt (absent7 1024 false) w n (fun s => resolveHandle s.here .t0 0 == some 7 && (s.myCore.seg? .t0 7).isNone &&
         descOk s 7 fun g => (s.slOff w n).toNat + n ≤ g.bytes && s.here.room g.isAcc < g.granules) &&
       trapsAt (absent7 1 true) w n (fun s => resolveHandle s.here .t0 0 == some 7 &&
         descOk s 7 (fun g => (s.slOff w n).toNat + n ≤ g.bytes && g.granules ≤ s.here.room g.isAcc) &&
         s.here.touch == [⟨7, .L, none, 0, 0, true⟩] && s.cur.strand == .L)) = true := by
  decide +kernel
/-- The words of TrapsGlobal can issue, at the address that the register gives. -/
def trapsFor (s : State) (f : Word → Bool) : Bool :=
  let w : SG := ⟨0, 31, 1, 0⟩
  rdy s (.scalar (.ldgB w)) [w.a] [w.d] && rdy s (.scalar (.stgD w)) [w.a, w.d] [] && !s.loadsFull &&
    !s.queuedDevice s.cur.strand (s.sgAddr w).toNat 8 && !s.here.replayHolds s.cur.strand (s.sgAddr w).toNat && f (s.sgAddr w)
theorem witness_ScalarLoadAndStoreResults_globalTraps :
    (trapsFor (baseG .t0 .S [(1, 0x2FFF9)]) (fun a => !inPort a.toNat && [2, 4, 8].all fun n => a.toNat % n != 0) &&
     [24, 4088].all (fun o => trapsFor (baseG .t0 .S [(1, BitVec.ofNat 64 (portBase + o))]) fun a =>
       inPort a.toNat && portQueue a.toNat == none) &&
     [0, 1, 2].all (fun q => trapsFor (baseG .t0 .K [(1, BitVec.ofNat 64 (portBase + 8 * q))]) fun a =>
       inPort a.toNat && portQueue a.toNat == some q && queuePopper q != .K && (q == 0 || queuePusher q != .K)) &&
     trapsFor (baseG .t0 .S [(1, 0x200000000000000)]) (fun a => !inPort a.toNat && a.toNat % 8 == 0 && 2 ^ 57 ≤ a.toNat) &&
     (let s := baseG .t0 .S [(1, 0x30000)]
      let s := { s with mem := s.mem.write 0x5018 8 0x30001 }
      trapsFor s fun a => a.toNat % 8 == 0 && [needRd, needFill].all fun n => (match s.xlat 0 .scalar s.here.root a n with
        | .prot => true
        | _ => false)) &&
     (let s := (baseG .t0 .S [(1, 0x60000)]).modMe fun t => { t with pages := [⟨none, 0x60000, true⟩] }
      let s := { s with mem := s.mem.write 0x5030 8 0x34 }
      trapsFor s fun a => a.toNat % 8 == 0 && s.pageRefused (addr57 a) && [needRd, needFill].all fun n =>
        (match s.xlat 0 .scalar s.here.root a n with
        | .absent _ => true
        | _ => false))) = true := by
  decide +kernel

/-- `State.MeOk` of a word without tokens as a check, with F as `f` where the word needs it. -/
def meReady (s : State) (i : WideWord) (w : ME) (rd dst : List GReg) (n : Nat) (need : Need) (f : Option Bool) : Bool :=
  rdy s (.wide i) rd dst && canon s && (s.cur.strand == .L || s.cur.strand == .S) && w.pre.tok == 0 &&
    (s.here.meQueue s.cur.strand).isEmpty && s.here.replay.isEmpty && !s.here.behindAcquire (s.meCmd i w).tag && !s.loadsFull && s.capMode s.here.part == 0 &&
    (!(s.meCmd i w).isRelease || !s.releaseHeld s.cur.core s.cur.ctx (s.meCmd i w)) &&
    (let p : Option (Place × Store) := if w.space == 0 then
       match s.xlat s.cur.core .scalar s.here.root (s.meLoc w n) need with
       | .ok pa m => if (s.meLoc w n).toNat % n == 0 then some (.dev pa, m) else none
       | _ => none
     else if localOk s w.handle (s.meLoc w n) n then
       (resolveHandle s.here s.cur.ctx w.handle).map fun name => (.seg s.cur.core s.cur.ctx name (s.meLoc w n).toNat, s.mem)
     else none
     match p with
     | none => false
     | some (p, m) => s.waitersAt p == ([], []) && !s.badAt (s.meCmd i w).needsF (s.meCmd i w).needsPoison p n && !(s.marked m).poisonPlace p n && (match f with
       | none => true
       | some v => (s.marked m).fPlace p n v))
/-- A word at the last place of the page, or of the segment. -/
def meAt (space : BitVec 1) (width : BitVec 3) (fe : BitVec 3) : ME :=
  ⟨⟨0, 0, 0, 0, 0⟩, 30, 1, 0, 0, space, 0, 0, width, 0, fe, if width = 3 then 1 else if width = 4 then 2 else 0, 0, 0, 0, 0, 0⟩
def atEnd (p : Strand) (w : ME) (full : Bool) : State :=
  let s := baseG .t0 p [(1, BitVec.ofNat 64 ((if w.space = 0 then 0x30000 else 0x1000) - 2 ^ w.width.toNat)), (2, 0x123456789)]
  if full then { s.modCore 0 fun k => { k with lstore := k.lstore.setFs 0x1FC0 64 true } with mem := s.mem.setFs 0x2FFC0 64 true } else s
theorem witness_MemoryExtendedResults :
    ([(0, 0), (1, 0), (0, 2), (1, 3), (0, 3), (0, 4), (1, 4)].all fun q =>
       let w := meAt q.1 q.2
       let n := 2 ^ q.2.toNat
       let e (fe : BitVec 3) := atEnd .L (w fe) false
       let f (fe : BitVec 3) := atEnd .S (w fe) true
       meReady (e 0) (.ldm (w 0)) (w 0) [1] (regsFor (w 0) 30) n needRd none &&
       meReady (f 1) (.ldmWait (w 1)) (w 1) [1] (regsFor (w 0) 30) n needRd (some true) &&
       meReady (f 2) (.ldmCons (w 2)) (w 2) [1] (regsFor (w 0) 30) n needRmw (some true) &&
       meReady (e 0) (.stm (w 0)) (w 0) (1 :: regsFor (w 0) 30) [] n needFill none &&
       meReady (e 3) (.stmFill (w 3)) (w 3) (1 :: regsFor (w 0) 30) [] n needFill (some false) &&
       meReady (f 4) (.stmOvf (w 4)) (w 4) (1 :: regsFor (w 0) 30) [] n needFill none &&
       meReady (f 5) (.stmSete (w 5)) (w 5) (1 :: regsFor (w 0) 30) [] n needFill none) = true ∧
    ([(0, 2), (1, 3), (0, 4)].all fun q =>
       let w := meAt q.1 q.2 0
       let n := 2 ^ q.2.toNat
       meReady (atEnd .L w true) (.feProbe w) w [1] [30] n needRd none &&
       meReady (atEnd .L w true) (.feSet { w with d := 0 }) { w with d := 0 } [1] [] n needFill none) = true ∧
    (let w : ME := { meAt 0 0 0 with d := 0 }
     let s := atEnd .L w false
     rdy s (.wide (.prefetch w)) [w.a] [] && (s.here.meQueue .L).isEmpty) = true := by
  decide +kernel
theorem witness_AtomicResults :
    ([(0, 2), (1, 3), (0, 4)].all fun q =>
       let w : ME := { meAt q.1 q.2 0 with b := 2 }
       let n := 2 ^ q.2.toNat
       ([WideWord.atAdd w, .atSub w, .atAnd w, .atOr w, .atXor w, .atMin w, .atMax w, .atMinn w, .atMaxn w, .atXchg w, .atInc w].all fun i =>
         meReady (atEnd .S w false) i w (w.a :: regsFor w w.b) (regsFor w w.d) n needRmw none) &&
       (let w := { w with c := 4 }
        meReady (atEnd .S w false) (.atCas w) w (w.a :: (regsFor w w.b ++ regsFor w w.c)) (regsFor w w.d) n needRmw none)) = true ∧
    ([(0, 0xF), (1, 0xD)].all fun q =>
       let w : ME := { meAt q.1 2 0 with b := 2, afmt := q.2 }
       meReady (atEnd .S w false) (.atFadd w) w [w.a, w.b] [w.d] 4 needRmw none) = true := by
  decide +kernel
theorem witness_SyncObjectResults :
    (let w : ME := { meAt 0 3 0 with ord := 1, scope := 3 }
     let s := atEnd .L w false
     meReady s (.acq w) w [w.a, w.b] [w.d] 8 needRd none && (s.rd w.b).toNat == 0) = true ∧
    (let w : ME := { meAt 0 3 0 with ord := 2, scope := 5 }
     meReady (atEnd .L w false) (.rel w) w [w.a] [w.d] 8 needRmw none) = true ∧
    (let w : ME := ⟨⟨0, 0, 0, 0, 0⟩, 0, 1, 2, 3, 0, 0, 0, 0, 0, 0, 0, 0, 0, 0, 0, 0⟩
     let s := baseG .t0 .L [(1, 0x20000), (2, 64), (3, 0x20008)]
     let a := s.rd w.a + w.imm.signExtend 64
     rdy s (.wide (.syncBind w)) [w.a, w.b, w.c] [] && (s.here.meQueue .L).isEmpty && a.toNat % 64 == 0 && (s.rd w.b).toNat % 64 == 0 &&
       s.rd w.b != 0 && (s.rd w.c).toNat % 8 == 0 && a.toNat + (s.rd w.b).toNat ≤ 2 ^ 57 && (s.parts[s.here.part.toNat]).bindings.isEmpty &&
       (let u : ME := { w with b := 0, c := 0 }
        rdy s (.wide (.syncUnbind u)) [u.a] [])) = true := by
  decide +kernel

def cf0 : CF := ⟨⟨0, 0, 0, 0, 0⟩, 0, 0, 0, 0, 0, 0, 0, 0⟩
theorem witness_StreamConfigurationResults :
    (let w : CF := { cf0 with t := 31, a := 1, imm := 63 }
     let s := base .t0 .L
     rdy s (.wide (.asCfg w)) [1] [] && localOk s w.handle (s.rd w.a + BitVec.ofNat 64 (64 * w.imm.toNat)) 64 &&
       s.myCore.lstore.poison.isEmpty) = true ∧
    (let w : CF := { cf0 with t := 31 }
     let s := baseG .t0 .L [(1, -1), (2, -1)]
     rdy s (.wide (.asDim { w with a := 1, b := 2, dim := 15 })) [1, 2] [] && rdy s (.wide (.asFmt { w with fmt := 15 })) [] [] &&
       rdy s (.wide (.asBindLocal { w with a := 1, handle := 63 })) [1] [] && rdy s (.wide (.asBindDevice { w with a := 1, imm := 1 })) [1] [] &&
       rdy s (.wide (.asRst w)) [] [] && rdy s (.wide (.asAdv { w with a := 1 })) [1] []) = true := by
  decide +kernel
/-- `State.pinSet` and the limits hold for a mask. -/
def pinReady (s : State) (m : Word) : Bool :=
  match maskNames s.here s.cur.ctx m allHandles with
  | .ok l => (match s.pinSet s.cur.core s.cur.ctx l with
    | .ok gs => s.here.pinFits gs && gs.length == 1
    | _ => false) && l.all fun q => match s.myCore.seg? s.cur.ctx q.1 with
      | some g => g.moving != some .recall
      | none => false
  | .error _ => false
theorem witness_SegmentWordResults :
    (let s := baseG .t0 .L [(1, 1)]
     let w : CF := { cf0 with a := 1 }
     rdy s (.wide (.sgBind { cf0 with handle := 63, name := 0xFFFF })) [] [] && rdy s (.wide (.sgTouch cf0)) [] [] && localOk s 0 0 1 &&
       rdy s (.wide (.sgPin w)) [1] [] && s.here.pinWait.isNone && pinReady s 1 && s.here.touch.isEmpty &&
       rdy s (.wide (.sgUnpin w)) [1] [] && rdy s (.wide (.sgEvict cf0)) [] [] && rdy s (.wide (.sgInfo { cf0 with t := 31 })) [] [31] &&
       rdy s (.wide (.sgInfo { cf0 with t := 31, handle := 63 })) [] [31] && s.here.sg[63] == 0xFFFF && rdy s (.wide (.vlSet w)) [1] []) = true := by
  decide +kernel
/-- Firmware's own segment, pinned once and for all. -/
theorem witness_SegmentWordResults_firmware :
    (let s := (base .fw .L).modHere fun k => { k with sg := k.sg.set 0 5 }
     let s := s.modCore 0 fun k => { k with fwDir := [⟨5, 0, 0, 0, 0x20000, 3, 1, 0, 0, [], 0, none, false⟩] }
     rdy s (.wide (.sgEvict cf0)) [] [] && resolveHandle s.here .fw 0 == some 5 && (s.myCore.seg? .fw 5).isSome) = true := by
  decide +kernel
def va0 : VA := ⟨⟨0, 0, 0, 0, 0⟩, ⟨0, 15, 0⟩, ⟨0, 1, 0⟩, ⟨0, 0, 0⟩, 15, 0, 0, 0, 0⟩
/-- A vector word can take its operands, and its destination can be written. -/
def vecRuns (s : State) (v : WideWord) (w : VA) (h : VShape) : Bool :=
  rdy s (.wide v) (gregsOf w.op1 true ++ gregsOf w.op2 h.two) (gregsOf w.op0 true) && w.pre.tok == 0 &&
  (w.op0.kind != 2 || (w.op0.index == 2 && !queueFull s.here 2)) &&
  match s.issued.source w.op1 h.w1 h.k1 h.n1 with
  | .ok s1 _ _ => match (if h.two then s1.source w.op2 h.w2 0 h.n2 else .ok s1 [] 0) with
    | .ok s2 _ _ => match (match h.auxIn with
        | some (t, aw, n) => s2.streamIn t aw n 0
        | none => .ok s2 [] 0) with
      | .ok s3 _ _ => match (match h.auxOut with
          | some (t, aw, n) => s3.streamOut t aw n 0
          | none => .ok s3 ⟨s.here.streams[0], 0⟩ []) with
        | .ok s4 _ _ => match (if w.op0.kind == 1 then s4.streamOut (w.op0.index.setWidth 5) h.wd h.nd w.op0.stride.toInt
            else .ok s4 ⟨s.here.streams[0], 0⟩ []) with
          | .ok s5 _ _ => s5.cur == s.issued.cur
          | _ => false
        | _ => false
      | _ => false
    | _ => false
  | _ => false
theorem witness_VectorArithmeticResults :
    (let w := va0
     let u := { va0 with op2 := ⟨0, 2, 0⟩ }
     let s := (base .t0 .X).modHere fun k => { k with vl := 2 }
     ([WideWord.vadd u, .vsub u, .vmul u, .vfma u, .vfms u, .vscale u].all fun v => vecRuns s v u (oneFmt u 4 true [] s)) &&
     ([WideWord.vabs w, .vneg w, .vsqr w, .vrcp w, .vrsqrt w, .vexp2 w, .vlog2 w].all fun v => vecRuns s v w (oneFmt w 4 false [] s))) = true := by
  decide +kernel

/-- Focus on X with two lanes active and streams 0 and 1 bound to local memory. -/
def atX : State := (base .t0 .X).modHere fun k => { k with
  vl := 2, streams := (k.streams.set 0 { StreamReg.reset with bound := true, dims := StreamReg.reset.dims.set 0 ⟨63, 1⟩ }).set 1
    { StreamReg.reset with bound := true, base := 256, dims := StreamReg.reset.dims.set 0 ⟨63, 1⟩ } }
theorem witness_VectorPatternAndReductionResults :
    (let u : VA := { va0 with op2 := ⟨0, 2, 0⟩ }
     let i : VA := { u with fmt := 2 }
     let s := atX
     ([WideWord.vand u, .vor u, .vxor u, .vshl i, .vshr i, .vsar i, .vmin u, .vmax u, .vceq u, .vclt u, .vcle u, .vclamp { u with aux := 15 },
       .vsel { u with aux := 15 }].all fun v => vecRuns s v u (oneFmt u 4 true [] s)) &&
     vecRuns s (.vshl i) i (oneFmt i 4 true [] s) && vecRuns s (.vmov va0) va0 (oneFmt va0 4 false [] s) &&
     vecRuns s (.vperm u) u { oneFmt u 4 true [] s with n1 := 4096 / (Fmt.ofCode u.fmt).width } &&
     (let b := { va0 with aux := 127 }
      vecRuns s (.vbcast b) b { oneFmt b 4 false [] s with n1 := 4096 / (Fmt.ofCode b.fmt).width }) &&
     (let g := { va0 with op0 := ⟨3, 31, 0⟩ }
      let q := { va0 with op0 := ⟨2, 2, 0⟩ }
      [g, q].all fun w => vecRuns s (.vpop w) w (oneFmt w 8 false [] s) &&
        [WideWord.vredAdd w, .vredMax w, .vredMin w].all fun v => vecRuns s v w (oneFmt w 8 false [] s)) &&
     (let p := { va0 with op0 := ⟨1, 0, 1⟩, op1 := ⟨1, 1, 1⟩ }
      vecRuns s (.vscanAdd p) p (oneFmt p 8 false [] s))) = true := by
  decide +kernel
theorem witness_VectorConversionResults :
    (let s := atX
     (let w := { va0 with fmt := 13, aux := 15 }
      vecRuns s (.vcvt w) w (convShape (Fmt.ofCode (w.aux.extractLsb' 0 4)).width (Fmt.ofCode w.fmt).width s)) &&
     (let w := { va0 with fmt := 10, aux := 0x1E0 }
      let h := convShape (Fmt.ofCode (w.aux.extractLsb' 5 4)).width (Fmt.ofCode w.fmt).width s
      vecRuns s (.vq w) w { h with auxOut := some (w.aux.extractLsb' 0 5, 8, (h.n1 + 23) / 24) }) &&
     (let w := { va0 with fmt := 15, aux := 0x140 }
      let h := convShape (Fmt.ofCode (w.aux.extractLsb' 5 4)).width (Fmt.ofCode w.fmt).width s
      vecRuns s (.vdq w) w { h with auxIn := some (w.aux.extractLsb' 0 5, 8, (h.n1 + 23) / 24) }) &&
     (let s := s.modHere fun k => { k with vl := 24 }
      let w := { va0 with fmt := 14, aux := 0x20 }
      let n := s.active (Fmt.ofCode w.fmt).width / 24
      vecRuns s (.vsp w) w ⟨6, (Fmt.ofCode w.fmt).width, 0, 24 * n, 0, 0, false, [], none, some (w.aux.extractLsb' 0 5, 32, n),
        (Fmt.ofCode w.fmt).width, keptOf (w.aux.extractLsb' 5 2) * n⟩ &&
      vecRuns s (.vdsp w) w ⟨6, (Fmt.ofCode w.fmt).width, 0, keptOf (w.aux.extractLsb' 5 2) * n, 0, 0, false, [],
        some (w.aux.extractLsb' 0 5, 32, n), none, (Fmt.ofCode w.fmt).width, 24 * n⟩) &&
     (let w := { va0 with fmt := 1, op2 := ⟨0, 2, 0⟩ }
      let n := s.here.vl.toNat * 32 / (2 * (Fmt.ofCode w.fmt).width)
      vecRuns s (.vpk w) w ⟨6, 2 * (Fmt.ofCode w.fmt).width, 0, n, 2 * (Fmt.ofCode w.fmt).width, n, true, [], none, none,
        (Fmt.ofCode w.fmt).width, 2 * n⟩) &&
     ([0, 1].all fun x =>
      let w : VA := { va0 with fmt := 2, aux := x }
      let n := s.active (Fmt.ofCode w.fmt).width
      vecRuns s (.vupk w) w ⟨6, (Fmt.ofCode w.fmt).width / 2, if w.aux.getLsbD 0 then n else 0, n, 0, 0, false, [], none, none,
        (Fmt.ofCode w.fmt).width, n⟩)) = true := by
  decide +kernel

def cp0 : CP := ⟨⟨0, 0, 0, 0, 0⟩, 0, 1, 0, 0, 15, 15, 0, 0, 0⟩
/-- `State.NamesOk` as a check. -/
def namesOk (s : State) (snaps : List Snap) (names : List Named) : Bool :=
  (snaps.findSome? Snap.unbound).isNone && (match s.issued.nameLimits s.cur.core s.cur.ctx (firstNames names []) 0 0 0 with
    | .ok => true
    | _ => false)
/-- The same with slot L or S in focus, and a copy queue of `n` commands. -/
def atCopy (p : Strand) (i : WideWord) (w : CP) (n : Nat) : State :=
  let s := { atX with cur := { atX.cur with strand := p } }
  let s := s.modHere fun k => { k with streams := k.streams.set 2 { StreamReg.reset with bound := true, base := 512, dims := StreamReg.reset.dims.set 0 ⟨63, 1⟩ } }
  s.modHere fun k => { k with copyL := List.replicate n (s.cpCmd i w), copyS := List.replicate n (s.cpCmd i w) }
def copyReady (s : State) (i : WideWord) (w : CP) : Bool :=
  rdy s (.wide i) [w.bar] [] && w.pre.tok == 0 && namesOk s (s.issued.cpCmd i w).snaps (s.issued.cpCmd i w).names
theorem witness_CopyWordResults :
    (([(WideWord.cp, cp0), (.cpG, { cp0 with idx := 2 }), (.cpSc, { cp0 with idx := 2 }), (.cpBc, cp0), (.cpRed, { cp0 with rfmt := 15 }),
       (.cpW, { cp0 with dst := 63 }), (.cpFe, { cp0 with src := 0, fe := 3 }), (.cpZero, { cp0 with src := 0 })] : List ((CP → WideWord) × CP)).all
       fun q => copyReady (atCopy .L (q.1 q.2) q.2 31) (q.1 q.2) q.2 && ((atCopy .L (q.1 q.2) q.2 31).here.copyQueue .L).length == 31 &&
         copyReady (atCopy .S (q.1 q.2) q.2 32) (q.1 q.2) q.2 && ((atCopy .S (q.1 q.2) q.2 32).here.copyQueue .S).length == 32) = true ∧
    ([true, false].all fun b =>
       let s := { atX with cur := { atX.cur with strand := .L, joint := true, xword := some (.mzero MX.zero), carried := b } }
       copyReady s (.cpMm cp0) cp0 && (s.here.copyQueue .L).isEmpty && mxFields (.mzero MX.zero) == some MX.zero &&
         (s.here.strand .X).wideGuard MX.zero.pre) = true := by
  decide +kernel
theorem witness_MatrixWordResults :
    (let step : MX := { MX.zero with aKind := 1, bKind := 1, bIdx := 1, kb := 1, fmtA := 0, fmtB := 0 }
     let z := MX.zero
     ([(WideWord.mm step, step), (.mmSp { step with n := 3 }, { step with n := 3 }), (.mmTn { step with fmtB := 8 }, { step with fmtB := 8 }),
       (.mm { step with aKind := 0, bKind := 0, bIdx := 0 }, { step with aKind := 0, bKind := 0, bIdx := 0 }),
       (.mdrain { z with dfmt := 15 }, { z with dfmt := 15 }), (.mzero z, z), (.mcorrLd { z with mask := 15 }, { z with mask := 15 }),
       (.mcorrSt { z with mask := 15 }, { z with mask := 15 }), (.mstat { z with statD := 31 }, { z with statD := 31 })].all fun q =>
         let full := atX.modHere fun k => { k with mx := List.replicate 32 (k.mxCmd .t0 q.1 q.2 0 .t0 0) }
         let joint := { atX with cur := { atX.cur with joint := true, carried := true } }
         [atX, full, joint].all fun s => rdy s (.wide q.1) [] (if q.2.statD = 0 then [] else [q.2.statD]) &&
           ((mxHandles q.1 q.2).all fun h => (resolveHandle s.here s.cur.ctx h).isSome) &&
           (let q0 := s.issued.here.mxCmd s.cur.ctx q.1 q.2 (s.here.serial + 1) s.issued.matrixTarget 0
            namesOk s q0.snaps q0.names) && s.here.mxFull s.cur.ctx == (s.here.mx.length == 32)) &&
     (let w : VA := ⟨⟨0, 0, 0, 0, 0⟩, ⟨0, 0, 0⟩, ⟨3, 31, 0⟩, ⟨0, 0, 0⟩, 0, 0, 0, 0, 0⟩
      let v : VA := { w with op1 := ⟨2, 1, 0⟩ }
      rdy (base .t0 .X) (.wide (.vsrSeed w)) (gregsOf w.op1 true) [] &&
        (base .t0 .X).here.mx.isEmpty && (base .t0 .X).myCore.noneFor .t0 && (base .t0 .X).capMode 0 != 2 &&
        (let s := (base .t0 .X).modCtx 0 .fw fun k => { k with mx := [k.mxCmd .fw (.mzero MX.zero) MX.zero 1 .t0 0] }
         rdy s (.wide (.vsrSeed w)) (gregsOf w.op1 true) [] && s.here.mx.isEmpty && !s.myCore.noneFor .t0) &&
        (let s := (base .t0 .X).modHere fun k => { k with qlx := [0] }
         rdy s (.wide (.vsrSeed v)) (gregsOf v.op1 true) [] && !s.here.headBad 1))) = true := by
  decide +kernel

/-- No task in any context. -/
def Three.ofTasks : Three TaskId := ⟨⟨0, 0, 0, 0, 0⟩, ⟨0, 0, 0, 0, 0⟩, ⟨0, 0, 0, 0, 0⟩⟩
/-- `State.BarrierAt`, for words without tokens, with a property of the object. -/
def barrierAt (s : State) (h : Word) (f : State → Barrier → Bool) : Bool :=
  canon s && match s.issued.barPlace s.cur.core s.cur.ctx s.cur.strand none s.cur.ticket
      (if barSpace h then none else resolveHandle s.here s.cur.ctx (barHandle h)) h with
    | .ok r p => r.cur == s.issued.cur && r.here.part == s.here.part && r.here.tokens == s.here.tokens && !s.unsent && f r (r.barrier p).2
    | _ => false
/-- An object in the last 16 bytes of the segment. -/
def atBarrier (p : Strand) (b : Barrier) (v : Word) : State :=
  let s := baseG .t0 p [(1, 0xFF0), (2, v)]
  s.modCore 0 fun k => { k with lstore := k.lstore.write 0x1FF0 16 b.toNat }
/-- A window object of the die: SPACE 1. -/
def atWindow (b : Barrier) (v : Word) : State :=
  let s := baseG .t0 .L [(1, 2 ^ 63 + 0xFF0), (2, v)]
  { s with parts := s.parts.set 0 { s.parts[0] with window := (s.parts[0]).window.set 0 ⟨0, 0, true, 0⟩ }
           dies := s.dies.set 0 { s.dies[0] with window := (s.dies[0]).window.write 0xFF0 16 b.toNat } }
def sy0 : SY := ⟨⟨0, 0, 0, 0, 0⟩, 0, 1, 0, 0, 0, 0, 0, 0, 0, 0⟩
theorem witness_BarrierWordResults :
    (let w : SY := { sy0 with b := 2 }
     [atBarrier .S ⟨0, 0, 0, 0, 0, false, false, false, 0⟩ 0xFFFF, atWindow ⟨0, 0, 0, 0, 0, false, false, false, 0⟩ 1].all fun s =>
       rdy s (.wide (.barInit w)) [1, 2] [] && (s.rd w.b).setWidth 16 != 0 && barrierAt s (s.rd 1) fun _ b => b.wait == 0) = true ∧
    (let w : SY := { sy0 with d := 31, imm := 3, scope := 1 }
     let b (n : BitVec 16) : Barrier := ⟨5, 4, n, 0, 0, true, false, false, 0⟩
     [atBarrier .S (b 3) 0, atBarrier .K (b 4) 0, atWindow (b 3) 0].all (fun s => rdy s (.wide (.barArr w)) [1] [31] &&
       barrierAt s (s.rd 1) fun r b => b.armed && w.imm.toNat ≤ b.pend.toNat && !r.strandBusy) &&
     [atBarrier .S (b 2) 0, atWindow (b 2) 0].all fun s => rdy s (.wide (.barArr w)) [1] [31] &&
       barrierAt s (s.rd 1) fun _ b => b.armed && b.pend.toNat < w.imm.toNat) = true ∧
    (let w : SY := { sy0 with d := 31, b := 2, scope := 1 }
     let b : Barrier := ⟨5, 4, 3, 0, 0, true, false, false, 0⟩
     [atBarrier .S b 4, atWindow b 4].all (fun s => rdy s (.wide (.barWait w)) [1, 2] [31] && s.me.woken.isNone && s.me.resend.isNone && !s.issued.parkedHere &&
       barrierAt s (s.rd 1) fun _ b => b.gen != (s.rd 2).setWidth 4) &&
     (let s := atBarrier .S b 5
      rdy s (.wide (.barWait w)) [1, 2] [31] && s.me.woken.isNone && s.me.resend.isNone && !s.issued.parkedHere &&
        barrierAt s (s.rd 1) fun _ b => b.gen == (s.rd 2).setWidth 4) &&
     rdy ((atBarrier .S b 5).modMe fun t => { t with woken := some 0x16 }) (.wide (.barWait w)) [1, 2] [31]) = true ∧
    (let w : SY := { sy0 with b := 2 }
     let b (n : BitVec 16) : Barrier := ⟨5, 4, 0, n, n, true, false, false, 0⟩
     [atBarrier .S (b 0xFFFF) 1, atBarrier .S (b 0) 32767, atBarrier .S (b 1) 32767, atWindow (b 0) 0].all fun s =>
       rdy s (.wide (.barXferIn w)) [1, 2] [] && rdy s (.wide (.barXferOut { w with imm := 1 })) [1, 2] [] &&
         barrierAt s (s.rd 1) fun _ _ => true) = true := by
  decide +kernel
/-- An ldm of the strand still stands in its queue before a barrier word. -/
theorem witness_BarrierWordResults_unsent :
    (let w : SY := { sy0 with b := 2 }
     let s := atWindow ⟨0, 0, 0, 0, 0, false, false, false, 0⟩ 1
     let q := s.meCmd (.ldm (meAt 0 3 0)) (meAt 0 3 0)
     let t := s.modHere fun k => { k with meL := [{ q with phase := .queued }] }
     barSpace (t.rd 1) && t.unsent && canon t && t.cur.strand == .L &&
       rdy t (.wide (.barInit w)) [1, 2] [] && rdy t (.wide (.barArr { w with b := 0, d := 31, imm := 3, scope := 1 })) [1] [31] &&
       rdy t (.wide (.barXferIn w)) [1, 2] [] && rdy t (.wide (.barXferOut { w with imm := 1 })) [1, 2] [] &&
       (match t.issued.barPlace t.cur.core t.cur.ctx t.cur.strand none t.cur.ticket none (t.rd 1) with
        | .ok r _ => r.cur == t.issued.cur && r.here.part == t.here.part && r.here.tokens == t.here.tokens
        | _ => false)) = true := by
  decide +kernel
/-- The focus core's position is wholly its partition's. -/
def atBank : State := (base .t0 .L).modPosition 0 fun p => { p with
  half0 := { p.half0 with owner := 0, valid := true }, half1 := { p.half1 with owner := 0, valid := true } }
theorem witness_ClusterWordResults :
    (let w : SY := { sy0 with a := 0, cc := 15, inc := 15 }
     rdy atBank (.wide (.wbSwap w)) [] [] && (atBank.position 0).ownsBoth atBank.here.part && (atBank.position 0).pend == none &&
       rdy (base .t0 .L) (.wide (.wbSwap w)) [] [] && !((base .t0 .L).position 0).ownsBoth 0 &&
       (let s := atBank.modPosition 0 fun p => { p with pend := some ⟨.t0, 0, 0, ⟨0, 0, 0⟩, Three.ofTasks, [], 0⟩ }
        rdy s (.wide (.wbSwap w)) [] [] && (s.position 0).pend.isSome)) = true ∧
    (rdy (base .t0 .S) (.wide (.wbStat { sy0 with a := 0, d := 31 })) [] [31] &&
      rdy (base .t0 .S) (.wide (.vbRd { sy0 with d := 31, imm := 0xFFFF })) [1] [31] &&
      [baseG .fw .K [(1, 0)], baseG .fw .K [(1, 0xFFFF)]].all (fun s => rdy s (.wide (.vbWr { sy0 with d := 31, b := 2 })) [1, 2] [31]) &&
      [baseG .fw .K [(1, 0)], baseG .fw .K [(1, 2)], baseG .fw .K [(1, 3)]].all fun s =>
        rdy s (.wide (.clkRatio { sy0 with d := 31 })) [1] [31]) = true := by
  decide +kernel
/-- Fabric queue of strand L with `n` words. -/
def atFab (i : WideWord) (w : SY) (n : Nat) : State :=
  let s := { atX with cur := { atX.cur with strand := .L } }
  s.modHere fun k => { k with fabL := List.replicate n (s.fabCmd i w) }
theorem witness_FabricWordResults :
    (let w : SY := { sy0 with b := 2 }
     ([(WideWord.xld { w with d := 31 }, { w with d := 31 }, [1, 2], [31]), (.xst { w with d := 31 }, { w with d := 31 }, [1, 2, 31], []),
       (.xat { w with d := 31, c := 3, fmt := 2 }, { w with d := 31, c := 3, fmt := 2 }, [1, 2, 3], [31]),
       (.xat { w with d := 31, c := 3, fmt := 3, imm := 9 }, { w with d := 31, c := 3, fmt := 3, imm := 9 }, [1, 2, 3, 31], [31]),
       (.xcpPush { w with imm := 1 }, { w with imm := 1 }, [1, 2], []), (.xcpPull { w with imm := 0x21 }, { w with imm := 0x21 }, [1, 2], []),
       (.xsigSet { w with c := 3, scope := 5 }, { w with c := 3, scope := 5 }, [1, 2, 3], []),
       (.xsigAdd { w with c := 3, imm := 1, scope := 5 }, { w with c := 3, imm := 1, scope := 5 }, [1, 2, 3], []),
       (.xfence { sy0 with a := 0 }, { sy0 with a := 0 }, [], [])] : List (WideWord × SY × List GReg × List GReg)).all fun q =>
         [31, 32].all fun n =>
           let s := atFab q.1 q.2.1 n
           rdy s (.wide q.1) q.2.2.1 q.2.2.2 && (s.here.fabQueue .L).length == n &&
             namesOk s (s.issued.fabCmd q.1 q.2.1).snaps (s.issued.fabCmd q.1 q.2.1).names) = true ∧
    (let w : SY := { sy0 with d := 31 }
     let s (v : Word) (ok : Bool) := { baseG .t0 .L [(1, v)] with
       parts := State.reset.parts.set 0 { Partition.reset with peers := Partition.reset.peers.set 63 { Peer.reset with v := ok } } }
     [s 127 true, s 63 true, s 127 false, s 128 true].all (fun s => rdy s (.wide (.xroute w)) [1] [31]) &&
       ((s 127 true).peer 0 63).v && [s 127 true, s 127 false].all (fun s => !s.here.toPeer 63) && !(s 128 true).here.toPeer 0 &&
       !((s 127 false).peer 0 63).v &&
       (let f : SY := { sy0 with b := 1 }
        let t := (s 63 true).modHere fun k => { k with fabL := [(s 63 true).fabCmd (.xld f) f] }
        rdy t (.wide (.xroute w)) [1] [31] && t.here.toPeer 63)) = true := by
  decide +kernel

theorem witness_PackageWordResults :
    (let w : SY := { sy0 with a := 0, d := 31 }
     let s := base .t0 .K
     rdy s (.wide (.enRd { w with imm := 11 })) [] [31] && rdy s (.wide (.enMark { sy0 with a := 1 })) [1] [] &&
       !s.here.commandsBusy (s.me.mark.getD s.here.serial) && (s.part 0).marks.isEmpty && rdy s (.wide (.partId w)) [] [31] &&
       (let t := { s with parts := s.parts.set 0 { s.parts[0] with marks := List.replicate 256 ⟨0, 0, [], 0, Vector.replicate 12 0⟩ } }
        rdy t (.wide (.enMark { sy0 with a := 1 })) [1] [] && (t.part 0).marks.length == 256) &&
       rdy s (.wide (.tlbInv { sy0 with a := 1, b := 2, scope := 1 })) [1, 2] [] && (invRange false (s.rd 1) (s.rd 2)).isNone &&
       rdy s (.wide (.tlbInvAll { sy0 with a := 0, imm := 1, scope := 4 })) [0, 0] [] && (match invRange true (s.rd 0) (s.rd 0) with
         | some (va, size) => !s.holdsPages (fun d => inScope { sy0 with imm := 1, scope := 4 } 0 d && s.sharesRoot s.here d) s.here.root va size
         | none => false)) = true ∧
    (let step : MX := { MX.zero with aKind := 1, bKind := 1, bIdx := 1, kb := 1, fmtA := 0, fmtB := 0 }
     let s := baseG .t0 .K [(1, 0x20000), (2, 1)]
     let r : StreamReg := { StreamReg.reset with bound := true, space := 1, base := 0x20000, dims := StreamReg.reset.dims.set 0 ⟨63, 1⟩ }
     let s := s.modHere fun k => { k with streams := (k.streams.set 0 r).set 1 r }
     let s := s.modHere fun k => { k with mx := [{ k.mxCmd .t0 (.mm step) step 1 .t0 0 with phase := .started }] }
     let w : SY := { sy0 with a := 1, b := 2, scope := 1 }
     rdy s (.wide (.tlbInv w)) [1, 2] [] && (match invRange false (s.rd 1) (s.rd 2) with
       | some (va, size) => s.holdsPages (fun d => inScope w 0 d && s.sharesRoot s.here d) s.here.root va size
       | none => false)) = true ∧
    (let w : SY := { sy0 with d := 31 }
     let s := base .t0 .K
     [s, baseG .t0 .K [(1, 64)]].all (fun s => rdy s (.wide (.segInv w)) [1] [31]) && resolveHandle s.here .t0 0 == some 5 &&
       (s.myCore.seg? .t0 5).isSome && [0, 1].all (fun i => rdy (baseG .t0 .K [(1, 192)]) (.wide (.tarRd { w with imm := i })) [1] [31]) &&
       (let t := { baseG .t0 .K [(1, 191)] with pkg := { s.pkg with coreOwner := s.pkg.coreOwner.set 191 (some 0) } }
        [0, 1].all fun i => rdy t (.wide (.tarRd { w with imm := i })) [1] [31] && t.pkg.coreOwner[191] == some t.here.part)) = true := by
  decide +kernel
/-- A bundle at the start of the code page: header and words, for the joined group of t0. -/
def atBundle (h : Header) (w : Nat) (word : Nat) : State :=
  let s := base .t0 .K
  { s with mem := s.mem.write placeCode (4 + 4 * w) (encodeHeader h + 2 ^ 32 * word) }
/-- The bundle is framed, its header decodes and suits the group, and its words pass their checks or not. -/
def bundleOkFor (s : State) (ok : Bool) : Bool :=
  match (s.ctx 0 .t0).unit .K with
  | [] => false
  | lead :: r => (s.core 0).mayIssue .t0 (lead :: r) && (s.strand 0 .t0 lead).bubble == 0 &&
    match (s.begin 0 .t0 (lead :: r) lead).frame (s.strand 0 .t0 lead).pc with
    | .ok s1 hdr fs len => match decodeHeader hdr with
      | some h => ((h.sync == 1) == (s1.strand 0 .t0 lead).joined) &&
        (match checkWords lead (lead :: r) .t0 (h.sync == 1) len (xWord fs) fs with
          | .ok _ => ok
          | .error _ => !ok)
      | none => false
    | _ => false
theorem witness_BundleResults :
    (bundleOkFor (atBundle ⟨1, 1, 0, 0, 0, 0⟩ 1 0x00731410) true && bundleOkFor (atBundle ⟨1, 1, 0, 0, 0, 15⟩ 1 0x00731410) true &&
      bundleOkFor (atBundle ⟨1, 1, 0, 0, 0, 0⟩ 1 0) false &&
      (let s := (base .t0 .K).modCore 0 fun k => { k with freeze := 1 }
       !(s.core 0).mayIssue .t0 ((s.ctx 0 .t0).unit .K)) &&
      (let s := (base .t0 .K).modHere fun k => { k with strands := k.strands.map fun _ t => { t with bubble := 1 } }
       (s.core 0).mayIssue .t0 ((s.ctx 0 .t0).unit .K) && (s.strand 0 .t0 .K).bubble != 0) &&
      (let s := (base .t0 .K).modHere fun k => k.modStrand .X fun t => { t with redirect := some 0x10000 }
       Strand.all.Nodup && (Strand.all.all fun q => (s.strand 0 .t0 q).forced == none && (s.strand 0 .t0 q).joined) &&
         (s.ctx 0 .t0).activeLevels.isEmpty && (s.strand 0 .t0 .X).redirect == some 0x10000 &&
         [Strand.K, .L].all fun q => (s.strand 0 .t0 q).redirect == none)) = true := by
  decide +kernel
/-- A result of this kind on its way in L, due now. -/
def landing (w : LandWhat) : State := (base .t0 .K).modHere fun k => k.modStrand .L fun t => { t with land := [⟨0, false, true, 0, w⟩] }
theorem witness_LandingResults :
    (([.reg 31 5, .reg 0 5, .bit 31 63 true, .bit 0 0 true, .vec 15 32 7 0, .push 9] : List LandWhat).all fun w =>
      ((landing w).core 0).freeze == 0 && ((landing w).strand 0 .t0 .L).landDue == some ⟨0, false, true, 0, w⟩) = true ∧
    ([31, 0].all fun d =>
      let s := (base .t0 .K).modHere fun k => k.modStrand .L fun t => { t with pend := [⟨1, none, false, false, 1⟩, ⟨d, some 5, false, false, 0⟩] }
      (s.core 0).freeze == 0 && (s.core 0).save == none && (s.strand 0 .t0 .L).pend.find? (·.val.isSome) == some ⟨d, some 5, false, false, 0⟩) = true := by
  decide +kernel
theorem witness_TrapResults :
    (let s := (base .t0 .K).modHere fun k => k.modStrand .L fun t => { t with due := [⟨.poison, .L, 7⟩] }
     (s.core 0).freeze == 0 && (s.strand 0 .t0 .L).atBoundary && (s.strand 0 .t0 .L).due == [⟨.poison, .L, 7⟩]) = true ∧
    (let s := (base .t0 .K).modCore 0 fun k => { k with trapQueue := [(.t1, .K), (.t0, .L)] }
     (s.core 0).freeze == 0 && (s.core 0).serving.get .L == none && !(s.core 0).fwHalted &&
       (s.core 0).trapQueue.find? (·.2 == .L) == some (.t0, .L)) = true := by
  decide +kernel
theorem witness_CoreSharingResults :
    (let s := (base .t0 .K).modCore 0 fun k => (k.placedAt .t1).modCtx .t0 fun m => { m with
       strands := m.strands.map fun _ t => { t with life := .waiting .segment } }
     let s := s.modCore 0 fun k => { k with active := .t0 }
     (s.core 0).freeze == 0 && !(s.ctx 0 .t0).runnable && ({ s.ctx 0 .t1 with yielding := false } : Context).runnable && (s.ctx 0 .t1).busy) = true := by
  decide +kernel
theorem witness_UncorrectableErrorResults :
    (let s := landing (.reg 1 2)
     let s := s.modHere fun k => { k.modStrand .S (fun t => { t with lateq := [⟨.align, .S, 1⟩] }) with qlx := [1, 2] }
     65535 < 65536 && 16383 < 16384 && (s.strand 0 .t0 .L).land[0]?.isSome && (s.strand 0 .t0 .S).lateq[0]?.isSome &&
       1 < (s.ctx 0 .t0).qlx.length) = true := by
  decide +kernel

/-- The base state with a directory at 0x20000 and an absent segment 7 that L waits for. -/
def atSeg : State :=
  let s := (base .t0 .L).modHere fun k => { k with res := { k.res with dirbase := 0x2000 }, touch := [⟨7, .L, none, 0, 0, false⟩] }
  { s with mem := s.mem.write 0x20070 16 0x20 }
def absentOk (s : State) (f : Seg → Bool) : Bool :=
  ((s.ctx 0 .t0).oldestTouch 7).isSome && ((s.ctx 0 .t0).seg? 7).isNone && match s.segDesc 0 .t0 7 with
    | .found g => g.granules ≤ (s.ctx 0 .t0).room g.isAcc && f g
    | _ => false
/-- Segment 5 of the base state with this change. -/
def withSeg (s : State) (f : Seg → Seg) : State := s.modCtx 0 .t0 (·.modSeg 5 f)
theorem witness_SegmentEventStarts :
    (absentOk atSeg fun g => (atSeg.ctx 0 .t0).usedGranules g.isAcc + g.granules ≤ (atSeg.ctx 0 .t0).quota g.isAcc &&
      (firstFit (atSeg.frames 0 g.isAcc) ((atSeg.core 0).frameWindow .t0 g.isAcc) g.granules).isSome && (atSeg.core 0).freeze == 0 &&
      ((atSeg.ctx 0 .t0).touch.map (·.name)).eraseDups == [7]) = true ∧
    ([false, true].all fun host =>
       let s := atSeg.modHere fun k => { k with res := { k.res with lq := 1 } }
       let s := { s with parts := s.parts.set 0 { s.parts[0] with split := if host then 1 else 0 } }
       absentOk s fun g => (s.ctx 0 .t0).quota g.isAcc < (s.ctx 0 .t0).usedGranules g.isAcc + g.granules &&
         ((s.ctx 0 .t0).victim g.isAcc 7).isSome && ((s.ctx 0 .t0).segs.all fun h => h.moving != some .pushOut) && (s.part (s.ctx 0 .t0).part).split.getLsbD 0 == host) = true ∧
    (let s := atSeg.modHere fun k => { k with askHost := true }
     let t := { s with parts := s.parts.set 0 { s.parts[0] with split := 1 } }
     (s.ctx 0 .t0).askHost && !(s.part 0).split.getLsbD 0 && (t.part 0).split.getLsbD 0 && match (s.ctx 0 .t0).seg? 5 with
       | some g => g.pins == 0 && !(s.ctx 0 .t0).held? 5 && g.moving == none && !g.stuck &&
         frameFree ((s.frames 0 g.isAcc).filter (·.1 != g.base.toNat)) ((s.core 0).frameWindow .t0 g.isAcc) 495 g.granules
       | none => false) = true ∧
    (let s := (base .t0 .L).modHere fun k => { k with pinWait := some (1, false) }
     (s.core 0).freeze == 0 && (s.ctx 0 .t0).pinWait == some (1, false) && pinReady s 1) = true := by
  decide +kernel
theorem witness_SegmentEventStarts_adrift :
    (let g : Seg := ⟨7, 0, 0, 0, 0x20000, 0, 0, 0, 0, [0], 0, none, false⟩
     let s := atSeg.modHere fun k => { k with adrift := [(g, Store.empty.write 0 1 9)] }
     (s.core 0).freeze == 0 && ((s.ctx 0 .t0).oldestTouch 7).isSome && ((s.ctx 0 .t0).seg? 7).isNone &&
       ((s.ctx 0 .t0).adriftSeg? 7).map (·.1) == some g && g.granules ≤ (s.ctx 0 .t0).room g.isAcc &&
       (s.ctx 0 .t0).usedGranules g.isAcc + g.granules ≤ (s.ctx 0 .t0).quota g.isAcc &&
       (firstFit (s.frames 0 g.isAcc) ((s.core 0).frameWindow .t0 g.isAcc) g.granules).isSome && ((atSeg.ctx 0 .t0).adriftSeg? 7).isNone) = true := by
  decide +kernel
theorem witness_SegmentEventEnds :
    (let s := withSeg (base .t0 .L) fun g => { g with moving := some .recall }
     canon s && (s.core 0).freeze == 0 && match (s.ctx 0 .t0).seg? 5 with
       | some g => g.moving == some .recall && g.granules == 1 &&
         (match s.translate (s.ctx 0 .t0).root ((homeOf g 0).setWidth 64) needRd with
          | .ok pa m => m == s.mem && !s.hbm.badMeta pa granule && !s.badData pa granule && pa % 64 == 0
          | _ => false)
       | none => false) = true ∧
    ([([] : List Nat), [0]].all fun l =>
       let s := withSeg (base .t0 .L) fun g => { g with moving := some .pushOut, dirty := l }
       canon s && (s.core 0).freeze == 0 && s.dies.toList.all (·.waiters.isEmpty) && match (s.ctx 0 .t0).seg? 5 with
         | some g => g.moving == some .pushOut && g.cls != 1 && g.dirty == l && 0 < g.granules &&
           (match s.translate (s.ctx 0 .t0).root ((homeOf g 0).setWidth 64) needWr with
            | .ok pa m => m == s.mem && pa % 64 == 0
            | _ => false)
         | none => false) = true ∧
    (let s := withSeg (base .t0 .L) fun g => { g with moving := some .pushOut, cls := 1, head := 64, tail := 4032 }
     let s := s.modHere fun k => { k with res := { k.res with dirbase := 0x2000 } }
     canon s && (s.core 0).freeze == 0 && s.dies.toList.all (·.waiters.isEmpty) && match (s.ctx 0 .t0).seg? 5 with
       | some g => g.moving == some .pushOut && g.cls == 1 && g.dirty.isEmpty &&
         (match s.translate (s.ctx 0 .t0).root (dirAddr (s.ctx 0 .t0) g.name) needWr with
          | .ok _ m => m.wf
          | _ => false)
       | none => false) = true ∧
    (let s := withSeg (base .t0 .L) fun g => { g with moving := some (.relocate 991) }
     canon s && (s.core 0).freeze == 0 && ((s.ctx 0 .t0).seg? 5).map (·.moving) == some (some (.relocate 991))) = true ∧
    ([2, 4, 8, 16, 32].all fun width =>
       let s := (base .t0 .L).modHere fun k => { k with streams := k.streams.set 31 { StreamReg.reset with
         bound := true, space := 1, base := 0x2FFFC, dims := StreamReg.reset.dims.set 0 ⟨15, 0⟩ } }
       let r := (s.ctx 0 .t0).streams[31]
       let e := r.spot width 0 (r.pos % r.total)
       (s.core 0).freeze == 0 && r.bound && r.space == 1 && r.ahead.isEmpty && e.addr % e.bytes == 0 &&
         !(s.ctx 0 .t0).replayHolds .X e.eval.toNat && match s.xlat 0 .vector (s.ctx 0 .t0).root e.eval needRd with
         | .ok pa _ => !s.hbm.badPoison pa e.bytes
         | _ => false) = true := by
  decide +kernel
/-- A matrix command at the head of the queue of t0. -/
def atMx (i : WideWord) (w : MX) (ph : Phase) (seed : Option (BitVec 32)) : State :=
  let s := atX
  s.modHere fun k => { k with mx := [{ k.mxCmd .t0 i w 1 .t0 0 with phase := ph, seed := seed }] }
def atCp (i : WideWord) (w : CP) (ph : Phase) : State :=
  let dev (a : Word) : StreamReg := { StreamReg.reset with bound := true, space := 1, base := a, fmt := 3 }
  let s := { base .t0 .L with cur := { (base .t0 .L).cur with strand := .L } }
  let s := s.modHere fun k => { k with streams := (k.streams.set 0 (dev 0x2FFF8)).set 1 (dev 0x20000) }
  s.modHere fun k => { k with copyL := [{ s.cpCmd i w with phase := ph }] }
theorem witness_CommandStartResults :
    (let s := atMx (.mzero MX.zero) MX.zero .queued (some 0)
     (s.core 0).freeze == 0 && (match (s.ctx 0 .t0).mx with
      | [q] => (s.core 0).mxTurn .t0 q &&
        !((s.modCtx 0 .fw fun k => { k with mx := [{ q with target := .t0 }] }).core 0).mxTurn .t0 q
      | _ => false)) = true ∧
    ((let w := MX.zero
      [(WideWord.mzero w, w), (.mstat { w with statD := 31 }, { w with statD := 31 })].all fun q =>
        let s := atMx q.1 q.2 .queued none
        match (s.ctx 0 .t0).mx with
        | [c] => (s.core 0).mxTurn .t0 c && c.seed == none && c.phase == .queued && c.names.isEmpty && (mxKind c.word == .zero || mxKind c.word == .stat)
        | _ => false) &&
     (let step : MX := { MX.zero with aKind := 1, bKind := 1, bIdx := 1, kb := 255, fmtA := 0, fmtB := 0 }
      let s := atMx (.mm step) step .queued none
      (match (s.ctx 0 .t0).mx with
        | q :: _ => (match s.holdAll 0 .t0 .X q.tag.serial (q.tag.ticket.getD 0) (firstNames q.names []) with
          | .all s1 _ => (s.core 0).mxTurn .t0 q && (s1.mxStartFault 0 .t0 q).isNone
          | _ => false)
        | _ => false)) &&
     (match (atCp (.cp cp0) cp0 .queued).here.copyL with
      | q :: _ => !(atCp (.cp cp0) cp0 .queued).here.held && q.phase == .queued && q.bar == none && q.names.isEmpty && q.kind == .plain && q.dst.isSome &&
        (q.dst.map (·.reg.space)) == some 1
      | [] => false)) = true := by
  decide +kernel
theorem witness_CommandCompletionResults :
    (let s := atCp (.cp cp0) cp0 .started
     (s.core 0).freeze == 0 &&
     match s.here.copyL with
     | q :: _ => q.phase == .started && q.kind == .plain && q.w.fe == 0 && q.bar == none && q.follow == none &&
       (match q.dst, q.src with
        | some d, some e => d.reg.space == 1 && e.reg.space == 1 && d.reg.total == 1 && e.reg.total == 1 &&
          (match s.reach 0 .t0 q.tag.strand (some q.tag.serial) (q.tag.ticket.getD 0) e needRd false [q.dstSpot e 0] with
           | .ok s1 [.dev _] => (match s1.reach 0 .t0 q.tag.strand (some q.tag.serial) (q.tag.ticket.getD 0) d needWr false [q.dstSpot d 0] with
             | .ok s2 [.dev _] => canon s2 && (s2.core 0).waitList.isEmpty && s2.dies.toList.all (·.waiters.isEmpty)
             | _ => false)
           | _ => false)
        | _, _ => false)
     | [] => false) = true ∧
    (((atMx (.mzero MX.zero) MX.zero .started none).core 0).freeze == 0 && mxKind (.mzero MX.zero) == .zero && mxKind (.mstat MX.zero) == .stat &&
      (base .t0 .L).here.meL.isEmpty && (base .t0 .L).here.meS.isEmpty) = true ∧
    (let g : Stage := ⟨⟨1, .L, false, none, Vector.replicate 6 ⟨false, 0, 0⟩, false, 3, 15, 15⟩, none, 0, false, none⟩
     let s := (base .t0 .L).modHere fun k => { k with stageL := [g] }
     (s.ctx 0 .t0).stages .copyL == [g] && g.tag.push &&& 12 == 0) = true := by
  decide +kernel
/-- A started copy of kind `k` between elements of device memory, with an index stream at 0x20008 that holds `j`. -/
def atCpOf (i : WideWord) (w : CP) (j : Nat) : State :=
  let dev (a : Word) : StreamReg := { StreamReg.reset with bound := true, space := 1, base := a, fmt := 3 }
  let s := base .t0 .L
  let s := s.modHere fun k => { k with streams := ((k.streams.set 0 (dev 0x2FFF8)).set 1 (dev 0x20000)).set 2 (dev 0x20008) }
  let s := { s with mem := s.mem.write 0x20008 8 j }
  s.modHere fun k => { k with copyL := [{ s.cpCmd i w with phase := .started }] }
/-- `State.CopyAt` as a check. -/
def copyAt (s : State) (k : CpKind) : Bool :=
  (s.core 0).freeze == 0 && match s.here.copyL with
  | q :: _ => q.phase == .started && q.kind == k && q.bar == none && q.follow == none && q.dst.isNone == (k == .weight) &&
    q.src.isNone == (k == .zero || k == .fe) && q.idx.isNone == (k != .gather && k != .scatter)
  | [] => false
/-- Nobody waits anywhere, as a check. -/
def unwaited (s : State) : Bool :=
  s.cores.toList.all (·.waitList.isEmpty) && s.dies.toList.all fun d => d.waiters.isEmpty && d.parked.isEmpty
/-- Where element `j` of a stream lies, with a property of the state that its translation leaves. -/
def elementAt (s : State) (q : CopyCmd) (e : Option Snap) (n : Need) (j : Nat) (f : State → Place → Bool) : Bool :=
  match e with
  | none => false
  | some e => match s.reach 0 .t0 q.tag.strand (some q.tag.serial) (q.tag.ticket.getD 0) e n false [q.dstSpot e j] with
    | .ok s1 [p] => f s1 p
    | _ => false
def isDev (p : Place) : Bool := p matches .dev _
theorem witness_CommandCompletionResults_elements :
    (([(WideWord.cp cp0, cp0, CpKind.plain), (.cpBc cp0, cp0, .bcast), (.cpRed { cp0 with rfmt := 15 }, { cp0 with rfmt := 15 }, .red)] :
        List (WideWord × CP × CpKind)).all fun q =>
       let s := atCpOf q.1 q.2.1 0
       copyAt s q.2.2 && match s.here.copyL with
         | c :: _ => c.w.fe == 0 && snapTotal c.dst == 1 && snapTotal c.src == 1 && (c.dst.map (·.reg.space)) == some 1 &&
           elementAt s c c.src needRd 0 fun s1 _ => elementAt s1 c c.dst (if q.2.2 = .red then needRW else needWr) 0 fun s2 p =>
             isDev p && canon s2 && unwaited s2
         | [] => false) = true := by
  decide +kernel
theorem witness_CommandCompletionResults_indexed :
    (([(WideWord.cpG { cp0 with idx := 2 }, CpKind.gather), (.cpSc { cp0 with idx := 2 }, .scatter)] : List (WideWord × CpKind)).all fun q =>
       [0, 1].all fun j =>
         let s := atCpOf q.1 { cp0 with idx := 2 } j
         copyAt s q.2 && unwaited s && s.me.life == .running && match s.here.copyL with
           | c :: _ => c.w.fe == 0 && snapTotal c.dst == 1 && snapTotal c.src == 1 && (c.dst.map (·.reg.space)) == some 1 &&
             (match s.indexAt 0 .t0 c 0 with
              | .ok s0 n => n == j && (n != 0 || elementAt s0 c c.src needRd 0 fun s1 _ => elementAt s1 c c.dst needWr 0 fun s2 p =>
                isDev p && canon s2 && unwaited s2)
              | _ => false)
           | [] => false) = true := by
  decide +kernel
theorem witness_CommandCompletionResults_filling :
    (let s := atCpOf (.cpZero { cp0 with src := 0 }) { cp0 with src := 0 } 0
     copyAt s .zero && match s.here.copyL with
       | c :: _ => c.w.fe == 0 && snapTotal c.dst == 1 && elementAt s c c.dst needWr 0 fun s2 p => isDev p && canon s2 && unwaited s2
       | [] => false) = true ∧
    ([2, 3].all fun fe =>
       let s := atCpOf (.cpFe { cp0 with src := 0, fe := fe }) { cp0 with src := 0, fe := fe } 0
       copyAt s .fe && match s.here.copyL with
         | c :: _ => c.w.fe == fe && snapTotal c.dst == 1 && elementAt s c c.dst needFe 0 fun s2 p =>
           isDev p && canon s2 && unwaited s2 && !s2.badFPlace p c.size
         | [] => false) = true ∧
    (let s := atCpOf (.cpW { cp0 with dst := 63 }) { cp0 with dst := 63 } 0
     copyAt s .weight && match s.here.copyL with
       | c :: _ => c.w.fe == 0 && snapTotal c.src == 1 && elementAt s c c.src needRd 0 fun s1 _ =>
         [0, 1].all fun a => ((s1.position 0).half a).store.wf
       | [] => false) = true := by
  decide +kernel
/-- Cores 0 and 1 in a gang of two, with segment 5 pinned in both, to which core 0 broadcasts. -/
def atBroadcast : State :=
  let s := atCpOf (.cpBc { cp0 with dst := 3 }) { cp0 with dst := 3 } 0
  let joins (k : Context) : Context := { k.modSeg 5 (fun g => { g with pins := 1 }) with busy := true, gang := 1, gangId := 9 }
  let s := s.modHere joins
  let s := s.modHere fun k => { k with streams := k.streams.set 3 { StreamReg.reset with bound := true, base := 8, fmt := 3 } }
  let s := s.modCtx 1 .t0 fun k => { joins k with segs := [⟨5, 0, 0, 0, 0x20000, 1, 1, 0, 0, [], 0, none, false⟩] }
  s.modHere fun k => { k with copyL := [{ s.cpCmd (.cpBc { cp0 with dst := 3 }) { cp0 with dst := 3 } with
    phase := .started, rs := [(1, .t0, (s.ctx 1 .t0).task)] }] }
theorem witness_CommandCompletionResults_broadcast :
    (copyAt atBroadcast .bcast && match atBroadcast.here.copyL with
      | c :: _ => c.w.fe == 0 && c.tails.isEmpty && snapTotal c.dst == 1 && snapTotal c.src == 1 && (c.dst.map (·.reg.space)) == some 0 &&
        atBroadcast.stillThere 0 .t0 c == [(0, .t0), (1, .t0)] &&
        (c.dst.all fun r => !atBroadcast.unpinned c r [(0, .t0), (1, .t0)]) &&
        elementAt atBroadcast c c.src needRd 0 fun s1 _ => elementAt s1 c c.dst needWr 0 fun s2 p =>
          p == .seg 0 .t0 5 8 && canon s2 && unwaited s2 && match (s2.core 1).seg? .t0 5 with
            | some g => 8 + c.size ≤ g.bytes
            | none => false
      | [] => false) = true := by
  decide +kernel
/-- A started matrix command that reaches a segment of 256 granules. -/
def atImage (i : WideWord) (w : MX) : State :=
  let s := withSeg atX fun g => { g with len := 255 }
  s.modHere fun k => { k with mx := [{ k.mxCmd .t0 i w 1 .t0 0 with phase := .started }] }
theorem witness_CommandCompletionResults_images :
    (let z := MX.zero
     (([0, 1, 2, 3].flatMap (fun fuse => [0, 9, 13, 15].map fun f =>
        (WideWord.mdrain { z with dfmt := f, fuse := fuse }, { z with dfmt := f, fuse := fuse }))) ++
       [(.mcorrLd { z with mask := 5 }, { z with mask := 5 }), (.mcorrSt { z with mask := 10, off := 1 }, { z with mask := 10, off := 1 })] :
         List (WideWord × MX)).all fun q =>
       let s := atImage q.1 q.2
       (s.core 0).freeze == 0 && (s.core 0).save.isNone && canon s && unwaited s && match (s.ctx 0 .t0).mx with
         | [c] => c.seed == none && c.phase == .started && c.target == .t0 && match (s.core 0).seg? .t0 c.nameD with
           | some g => 4096 * c.w.off.toNat + c.extent ≤ g.bytes
           | none => false
         | _ => false) = true := by
  decide +kernel

theorem witness_CommandStartResults_commit :
    (let step : MX := { MX.zero with aKind := 1, bKind := 1, bIdx := 1, kb := 1, fmtA := 9, fmtB := 9 }
     let s := atMx (.mm step) step .started none
     match (s.ctx 0 .t0).mx with
     | q :: _ => mxKind q.word == .step && (match s.gather 0 .t0 q with
       | .ok _ _ => true
       | _ => false)
     | _ => false) = true := by
  decide +kernel

/-- An ldm.wait of a full word in L of t0 whose access waits in this way. -/
def meWaits (ph : MePhase) (feb : BitVec 16) : State :=
  let w := meAt 0 3 1
  let s := baseG .t0 .L [(1, 0x20008)]
  let s := { s with mem := s.mem.setFs 0x20008 8 true }
  let s := s.modMe fun t => { t with feb := feb }
  s.modHere fun k => { k with meL := [{ s.meCmd (.ldmWait w) w with phase := ph }], febDue := true }
def waiterOf (s : State) (p : Place) (c : Cond) (record : Option Nat) : Waiter :=
  ⟨0, .t0, .L, (s.here.meL.headD (s.meCmd (.ldmWait (meAt 0 3 1)) (meAt 0 3 1))).tag.serial, 0, p, 8, 0x20008, c, 0, record⟩
theorem witness_WaiterResults :
    (let s := meWaits (.waiting 0) 5
     let s := s.modCore 0 fun k => { k with lstore := k.lstore.setFs 0x1008 8 true }
     let w := waiterOf s (.seg 0 .t0 5 8) .full none
     let s := s.modCore 0 fun k => { k with waitList := [w] }
     (s.core 0).freeze == 0 && s.waitersAt w.place == ([w], []) && s.condHolds w.cond w.place w.bytes && match s.meOf w with
       | some q => s.here.meL ++ s.here.meS == [q] && q.kind == .load true false && q.bytes == 8 && !s.poisonPlace w.place q.bytes && !s.badAt true true w.place q.bytes
       | none => false) = true ∧
    (let s := meWaits (.waiting 0) 5
     let w := waiterOf s (.dev 0x20008) .full none
     let s := { s with dies := s.dies.set 0 { s.dies[0] with waiters := [w] } }
     dieOfPa 0x20008 == 0 && (s.die 0).qwaits.isEmpty && s.waitersAt w.place == ([w], []) && s.condHolds w.cond w.place w.bytes &&
       match s.meOf w with
       | some q => s.here.meL ++ s.here.meS == [q]
       | none => false) = true ∧
    (let s := meWaits (.parked 0) 0
     let park (w : Waiter) := { s with dies := s.dies.set 0 { s.dies[0] with parked := [w] } }
     let b := waiterOf s (.win 0 0xFF0) (.phase 5) (some 0)
     let w := waiterOf s (.dev 0x20008) .full (some 0)
     (park b).nextWake 0 == some b && b.isBarrier && (park w).nextWake 0 == some w && !w.isBarrier && ((park w).meOf w).isSome &&
       (s.strand 0 .t0 .L).feb == 0 && (s.strand 0 .t0 .L).life == .running) = true ∧
    ([0, 1].all fun f => [MePhase.waiting 7, .parked 7].all fun ph =>
       let s := meWaits ph f
       (s.core 0).freeze == 0 && s.here.febDue && (s.here.meL.map (·.phase)) == [ph] && s.here.meS.isEmpty &&
         (s.strand 0 .t0 .L).life == .running) = true := by
  decide +kernel
theorem witness_WeightLayerEvents :
    (let w : Swap := ⟨.t0, 15, 15, ⟨0, 0, 0⟩, Three.ofTasks, [], 0⟩
     let s := atBank.modPosition 0 fun p => { p with pend := some w }
     let s := s.modHere fun k => { k with task := ⟨0, 0, 0, 0, 0⟩ }
     coreAt 0 0 == 0 && (s.position 0).pend == some w && s.swapReady 0 w && (s.ctx 0 w.ctx).task == w.tasks.get w.ctx) = true ∧
    (let w : Swap := ⟨.t0, 15, 15, ⟨9, 0, 0⟩, Three.ofTasks, [], 0⟩
     let step : MX := { MX.zero with aKind := 1, bKind := 2, kb := 1 }
     let s := atMx (.mm step) step .queued none
     let s := s.modPosition 0 fun p => { p with pend := some w }
     let s := s.modHere fun k => { k with task := ⟨0, 0, 0, 0, 0⟩ }
     (s.position 0).pend == some w && !s.swapReady 0 w) = true ∧
    ([false, true].all fun hot =>
       let s := (base .t0 .K).modCluster 47 fun c => { c with hot := hot, table := Vector.replicate 16 3 }
       let l := ((s.cluster 47).atFrame (if hot then 24 else 48)).ruling.toList
       (s.cluster 47).hotNext.isNone && l.all (fun e => e.toNat / 4 != 3) &&
         l.contains (BitVec.ofNat 5 3) && (if hot then (24 : Nat) % 32 == 8 * 3 else 48 % 64 == 16 * 3)) = true ∧
    (((base .t0 .K).modCluster 47 fun c => { c with chg := some 2 }).cluster 47).chg = some 2 := by
  decide +kernel
/-- Page faults of the root of t0, with frame 9 in the pool of its partition. -/
def pageWaits (host : Bool) (va : Addr) : State :=
  let s := base .t0 .K
  { s with hbm := { s.hbm with faults := [⟨s.here.root, va, 0, host⟩] }, pkg := { s.pkg with frames := [⟨9, 1, 0⟩] } }
theorem witness_PagingAndMemoryErrors :
    ([(0, 0), (1, 0), (0, 2), (0, 4)].all fun q =>
       let s := base .t0 .K
       let s := { s with mem := s.mem.write 0x5030 8 (0x30 + q.2), parts := s.parts.set 0 { s.parts[0] with split := 2 * q.1 } }
       let s := if q == (0, 0) then { s with parts := s.parts.set 0 { s.parts[0] with split := 2 } } else s
       s.hbm.faults.isEmpty && match walk s.mem (s.ctx 0 .t0).root 0x60000 with
         | .absent _ pte _ => (s.part (s.ctx 0 .t0).part).split.getLsbD 1 || pte.testBit 1 || pte.testBit 2
         | _ => false) = true ∧
    ([false, true].all fun host =>
       let s := pageWaits host 0x60000
       let s := { s with mem := s.mem.write 0x5030 8 0x34 }
       canon s && s.cores.toList.all (fun k => k.ctxs.t0.replay.isEmpty && k.ctxs.t1.replay.isEmpty && k.ctxs.fw.replay.isEmpty) &&
         (s.faultAt s.here.root 0x60123).isSome && s.dies.toList.all (·.queues.isEmpty) && (s.outAt s.here.root 0x60123).isNone &&
         s.pkg.saved.isEmpty && s.pkg.images.isEmpty && s.pkg.delayed.isEmpty &&
         match s.leaf s.here.root 0x60123 with
         | some (_, pte, size) => !pte.testBit 0 && !pte.testBit 1 && s.freeFrame 0 size == some 9
         | none => false) = true ∧
    (let s := base .t0 .K
     let r : StreamReg := { StreamReg.reset with bound := true, space := 1, base := 0x20000, dims := StreamReg.reset.dims.set 0 ⟨63, 1⟩ }
     let step : MX := { MX.zero with aKind := 1, bKind := 1, bIdx := 1, kb := 1, fmtA := 0, fmtB := 0 }
     let t := s.modHere fun k => { k with streams := (k.streams.set 0 r).set 1 r }
     let t := t.modHere fun k => { k with mx := [{ k.mxCmd .t0 (.mm step) step 1 .t0 0 with phase := .started }] }
     [(s, false), (t, true)].all fun q => canon q.1 && (q.1.outAt s.here.root 0x20000).isNone && match q.1.leaf s.here.root 0x20000 with
       | some (e, pte, size) => pte.testBit 0 && !q.1.objectPage e && !q.1.frameWaited (entryAddr pte) size &&
         q.1.holdsPages (fun _ => true) s.here.root (0x20000 / size * size) size == q.2 &&
         (e + 8 ≤ entryAddr pte / 65536 * 65536 || entryAddr pte + size ≤ e)
       | none => false) = true ∧
    (dataArea 0x20000 && ({ State.reset.hbm with scrubbed := [2] }).live 0x20000 && !State.reset.hbm.live 0x20000) = true := by
  decide +kernel

/-- A fabric word at the head of the queue of L of t0, to a present peer 63 by this kind of path. -/
def atPeer (i : WideWord) (w : SY) (kind : BitVec 1) : State :=
  let s := baseG .t0 .L [(1, 0x20008), (2, 63), (3, 7)]
  let s := { s with parts := s.parts.set 0 { Partition.reset with peers := Partition.reset.peers.set 63 { Peer.reset with
    v := true, kind := kind, path0 := 95, rpkg := 9, rpart := 5 } } }
  let s := { s with pkg := { s.pkg with links := s.pkg.links.set 11 { Link.reset with up := 0x80, owner := 2 ^ 63 }, subs := s.pkg.subs.set 95 ⟨9, 0, 0, 0, 0, false, [], [], []⟩ } }
  s.modHere fun k => { k with fabL := [s.fabCmd i w] }
theorem witness_RemoteAccessResults_out :
    (let w : SY := { sy0 with b := 2, d := 31, fmt := 3, c := 3 }
     ([(WideWord.xld w, FabKind.load), (.xst { w with imm := 0x20 }, .store), (.xat { w with imm := 9 }, .atomic)] : List (WideWord × FabKind)).all fun q =>
       let s := atPeer q.1 (match q.1 with
         | .xst w | .xat w => w
         | _ => w) 0
       match s.here.fabL with
       | [c] => c.phase == .queued && c.kind == q.2 && c.names.isEmpty && !s.fabHeld 0 .t0 c && (s.core 0).freeze == 0 && !s.here.held &&
         s.unacked s.here.part c.peerIdx < 2048 && (s.peer s.here.part c.peerIdx).v &&
         (c.check (s.peer s.here.part c.peerIdx)).isNone && (s.pathFor s.here.part (s.peer s.here.part c.peerIdx)) == some 0 &&
         (s.peer s.here.part c.peerIdx).sent.isEmpty
       | _ => false) = true ∧
    (let s := atPeer (.xfence sy0) sy0 0
     s.here.fabL.map (·.kind) == [.fence]) = true ∧
    (let s := atPeer (.xld { sy0 with b := 2, d := 31, fmt := 3 }) { sy0 with b := 2, d := 31, fmt := 3 } 0
     let s := s.modHere fun k => { k with fabL := k.fabL.map fun q => { q with phase := .started, answer := some (.done 5) } }
     (s.core 0).freeze == 0 && s.here.fabL.all (fun q => q.phase == .started && q.answer == some (.done 5)) && !s.here.fabL.isEmpty) = true := by
  decide +kernel
theorem witness_PagingAndMemoryErrors_remote :
    (let s := pageWaits true 0x60000
     let q : Delayed := ⟨{ srcPkg := 9, srcPart := 5, dst := 0, num := 3, op := .load 0x60008 8 }, some 95⟩
     let s := { s with mem := s.mem.write 0x5030 8 0x34, pkg := { s.pkg with delayed := [q] }
                       parts := s.parts.set 0 { s.parts[0] with inen := true, inroot := s.here.root.extractLsb' 12 45, peers := (s.parts[0]).peers.set 63 { Peer.reset with
                         v := true, path0 := 95, rpkg := 9, rpart := 5 } } }
     (s.faultAt s.here.root 0x60123).isSome && s.dies.toList.all (·.queues.isEmpty) && (s.outAt s.here.root 0x60123).isNone &&
       s.admits q.req == some 63 && ((s.part 0).inroot.setWidth 57 : Addr) <<< (12 : Nat) == s.here.root &&
       ((s.inXlat (s.dieOfRequest q.sub q.req 63) s.here.root 0x60008 needRd) matches .absent _)) = true := by
  decide +kernel
/-- A store to the last bytes of a page, and its target, which admits it from peer 63; `sub` is where it comes in. -/
def storeIn (sub : Option (Fin 96)) : Delayed := ⟨{ srcPkg := 9, srcPart := 5, dst := 0, num := 3, op := .store 0x2FFF8 8 (-1) 0 }, sub⟩
def atTarget : State :=
  let s := atPeer (.xfence sy0) sy0 0
  { s with parts := s.parts.set 0 { s.parts[0] with inen := true, inroot := 1 } }
def inTarget (s : State) (q : Delayed) : Bytes2 :=
  s.inboundBytes (s.dieOfRequest q.sub q.req 63) 0 ((s.part 0).inroot.setWidth 57 <<< 12) none 0x2FFF8 needFill false (List.range 8)
theorem witness_RemoteAccessResults_in :
    (let q := storeIn none
     let f : Flit := ⟨0, true, true, .request q.req⟩
     let t := atTarget
     let u := { t with parts := t.parts.set 0 { t.parts[0] with peers := (t.parts[0]).peers.set 63 ((t.parts[0]).peers[63].take 3) } }
     let v := t.tookFlit 95
     (atPeer (.xfence sy0) sy0 0).admits q.req == none && t.admits q.req == some 63 && !(t.peer 0 63).seen 3 && u.admits q.req == some 63 &&
       (u.peer 0 63).seen 3 && f.seq == (t.pkg.subs[95]).rx && t.subOwned 0 95 && v.admits q.req == some 63 && v.pkg.delayed.isEmpty &&
       [(t, q), (v, storeIn (some 95))].all fun e => match inTarget e.1 e.2 with
         | .ok s1 (pa :: _) => canon s1 && (s1.waitersAt (.dev pa)).1.isEmpty
         | _ => false) = true ∧
    (let s := { atTarget with mem := atTarget.mem.write 0x5010 8 0x34 }
     (inTarget s (storeIn none)) matches .waits _) = true ∧
    (let q := storeIn none
     let o : Delayed := ⟨{ q.req with num := 2 }, some 95⟩
     sameSource o.req q.req && o.req != q.req) = true := by
  decide +kernel
theorem witness_LinkResults :
    (let s := State.reset
     (subWidth (s.pkg.links[11]).split 0).isSome && (s.pkg.pairs[5]).failed == false &&
       (s.pkg.subs[95]).rx == 0 && !s.subOwned 0 95 && s.dies.toList.all (·.parked.isEmpty) &&
       (let t : State := { s with pkg := { s.pkg with links := s.pkg.links.set 11 { Link.reset with owner := 2 ^ 63 } } }
        t.subOwned 0 95 && (t.admits ⟨9, 5, 0, 3, .load 0 8⟩).isNone) &&
       (let t : State := { s with pkg := { s.pkg with timePorts := 0x80 } }
        t.pkg.timePorts.getLsbD 7 && !t.pkg.timePorts.getLsbD 0) &&
       (let t := s.modLink 11 fun l => { l with rsp := 16 }
        (s.pkg.links[11]).rsp == 0 && (t.pkg.links[11]).rsp != 0)) = true := by
  decide +kernel
theorem witness_HeatResults :
    (let s := { State.reset with
       pkg := { State.reset.pkg with coreOwner := ((State.reset.pkg.coreOwner.set 0 (some 0)).set 47 (some 0)).set 1 (some 63) }
       parts := (State.reset.parts.set 0 { Partition.reset with root := 0x800 }).set 63 { Partition.reset with root := 0x900 }
       mem := (Store.empty.write 0x800 64 (2 ^ 395 * 100 + 2 ^ 406 * 1024)).write 0x900 64 (2 ^ 395 * 1 + 2 ^ 406 * 1) }
     let s := s.modCore 1 fun k => { k with drew := true }
     let act : List PartId := ((s.spenders 0 ++ [0, 63, 0, 7]).eraseDups).filter fun p => !(s.coresOf p 0).isEmpty
     s.spenders 0 == [63] && act == [63, 0] && (act.map s.baseOf).sum != 0 && (s.coresOf 0 0).length == 2) = true ∧
    (State.reset.cores.toList.all (fun k => !k.tar.spent) && !(State.reset.core 191).moving &&
      ((State.reset.modCore 191 fun k => { k with moving := true }).core 191).moving) = true := by
  decide +kernel
theorem witness_EnergyAccounting :
    (let s := { State.reset with parts := State.reset.parts.set 63 { Partition.reset with marks := [⟨1, 2, [(0x100, Vector.replicate 12 0)], 0, Vector.replicate 12 3⟩] } }
     (s.part 63).marks.length == 1 && (s.part 0).marks.isEmpty && !{ s.pkg with running := false }.running) = true := by
  decide +kernel

/-- Queue 5 of die 3 with a control block whose ring lies at 0x20000 and whose root block lies at 0x7000. -/
def qcb0 : Qcb := ⟨2, 0, 0x28000, 0x7000, 3, 5, false, 1, 0x20000, 0⟩
/-- A valid root block with a fabric share, a forward budget of 64 and a tick of 1,000. -/
def rcb0 : Nat := 1 + 2 ^ 256 * 1000 + 2 ^ 277 * 64
def ringEntry (ty flags i rest : Nat) : BitVec 512 := BitVec.ofNat 512 (ty + 2 ^ 8 * flags + 2 ^ 32 * i + 2 ^ 64 * rest)
def queue0 (l : List (BitVec 512)) : Queue :=
  { num := 5, v := true, qcb := 0x7800, copy := some qcb0, reread := false, count := 7 + BitVec.ofNat 64 (max 1 l.length), rd := 7, err := 0, slot := some (0, 0)
    fetched := (l.zip (List.range l.length)).map fun e => ⟨7 + e.2, e.1⟩, ended := false, started := [], opening := none, resend := false
    held := none, lser := 0xFFFF, bell := some 1, owed := false }
/-- The queue with these entries in its ring from index 7 on, fetched. -/
def atQueue (l : List (BitVec 512)) : State :=
  let s := base .t0 .K
  let m := (s.mem.write 0x7000 64 (rcb0 + 2 ^ 140)).write 0x7100 64 (rcb0 + 2 ^ 104 * 7 + 2 ^ 140)
  let m := (l.zip (List.range l.length)).foldl (fun m e => m.write (0x201C0 + 64 * e.2) 64 e.1.toNat) m
  { s with mem := m, dies := s.dies.set 3 { s.dies[3] with queues := [queue0 l] }, pkg := { s.pkg with vfs := [(3, 0)] }
           parts := (s.parts.set 0 { s.parts[0] with root := 0x7000 }).set 1 { s.parts[1] with root := 0x7100 } }
/-- `State.PacketAt` for the queue of `atQueue`, as a check, with a property of the queue, its head, and memory after the walk. -/
def packetAt (s : State) (ty : Nat) (f : Queue → RingEntry → Store → Bool) : Bool :=
  canon s && s.dies.toList.all (·.waiters.isEmpty) && match s.queue? 3 5 with
  | none => false
  | some q => match q.copy, q.fetched with
    | some c, e :: _ => q.slot.isSome && q.opening.isNone && s.queueReady q && q.started.isEmpty && headerType (entryWord e.bits 0) == ty &&
      (entryWord e.bits 0).toNat / 2 ^ 10 % 2 ^ 22 == 0 && q.rd + 2 < 2 ^ 48 &&
      (match s.translate (s.queueRoot c) (c.entryAddr q.rd) needRd with
        | .ok pa m => m.read pa 8 == (entryWord e.bits 0).toNat && f q e m &&
          (match (State.marked s m).translate ((State.marked s m).queueRoot c) (word57 c.rdaddr) needWr with
            | .ok _ _ => true
            | _ => false)
        | _ => false)
    | _, _ => false
/-- An address of the queue's region translates in state `s`, to clean data. -/
def qAt (s : State) (va : Word) (n : Need) : Bool :=
  match s.translate (s.queueRoot qcb0) va n with
  | .ok pa m => !m.poisoned pa && !s.hbm.badPoison pa 8
  | _ => false
/-- L of t0 trapped with this cause, the budget policy of its region, and no image of the firmware. -/
def trapped (code : BitVec 8) (pol : BitVec 2) (done : Bool) : State :=
  (base .t0 .K).modCore 0 fun k => { (k.modCtx .fw fun m => { m with root := 0 }).modCtx .t0 (fun m => { m with
    refilled := done, terms := { m.terms with febPol := pol }
    strands := m.strands.map fun q t => { t with life := .trapped, code := code, ending := q == .L && code == Cause.exitq.code } }) with
    trapQueue := [(.t0, .L)] }
def handles (s : State) : Bool :=
  (s.core 0).freeze == 0 && (s.core 0).serving.get .L == none && !(s.core 0).fwHalted && (s.core 0).trapQueue.find? (·.2 == .L) == some (.t0, .L) &&
    s.noImage 0
theorem witness_TrapResults_handlers :
    ([(1, false), (1, true), (2, false)].all (fun q =>
       let s := trapped Cause.febudget.code q.1 q.2
       handles s && (s.strand 0 .t0 .L).code == Cause.febudget.code && !(s.strand 0 .t0 .L).ending && (Strand.all.all fun r => (s.strand 0 .t0 r).lateq.isEmpty) &&
         (s.ctx 0 .t0).terms.febPol == q.1 && (s.ctx 0 .t0).refilled == q.2) &&
     [(0, false), (3, false), (2, true)].all fun q =>
       let s := trapped Cause.febudget.code q.1 q.2
       handles s && (s.ctx 0 .t0).busy && !(s.part (s.ctx 0 .t0).part).split.getLsbD 3 && (s.ctx 0 .t0).terms.febPol == q.1 &&
         (s.ctx 0 .t0).refilled == q.2) = true ∧
    (let s := { trapped Cause.exitq.code 0 false with dies := (atQueue []).dies }
     let s := s.modCtx 0 .t0 fun k => { k with task := { k.task with die := 3, queue := 5 } }
     handles s && (s.strand 0 .t0 .L).code == Cause.exitq.code && (s.strand 0 .t0 .L).ending && match s.queue? 3 5 with
       | some q => q.copy == some qcb0
       | none => false) = true := by
  decide +kernel
theorem witness_QueueResults :
    (let s := atQueue []
     s.dies.toList.all (·.waiters.isEmpty) && [Func.pf, .vf 3].all (fun f => (s.bellOf f 3 5).isSome) && (s.bellOf (.vf 4) 3 5).isNone &&
       (s.bellOf .pf 0 0).isNone && (s.bellOf (.vf 3) 3 5).map (·.bell) == some (some 1) && (s.die 3).queues.map (·.num) == [5] &&
       [0, 1, 2].all (fun d : DieId => (s.die d).queues.isEmpty) && bar0At (.vf 3) (8 * 1) == .bellOf 1 &&
       bar0At .pf (0x1000000 + 0x8000 * 3 + 8 * 5) == .bell 3 5 &&
       (let t := s.modQueue 3 5 fun q => { q with reread := true }
        match t.queue? 3 5 with
        | some q => q.v && q.reread && q.copy.isSome
        | none => false)) = true ∧
    (let s := (atQueue []).modQueue 3 5 fun q => { q with slot := none }
     let r : Queue := { queue0 [] with num := 9, slot := none, copy := some { qcb0 with region := 0x7100 } }
     let s := s.modDie 3 fun k => { k with queues := k.queues ++ [r] }
     (s.die 3).queues.map (·.num) == [5, 9] && s.queueReady r && (s.die 3).queues.all (fun q => q.slot.isNone && !q.owed) &&
       (s.die 3).queues.all fun q => q == r || s.queuePrio q < s.queuePrio r) = true ∧
    ([7, 8].all fun i =>
       let s := { (atQueue []) with mem := (atQueue []).mem.write 0x201C0 8 (2 ^ 32 * i) }
       match s.queue? 3 5 with
       | some q => q.slot.isSome && s.queueReady q && q.fetched.isEmpty && !q.ended && q.count.toNat == q.rd + 1 &&
         (match s.translate (s.queueRoot qcb0) (qcb0.entryAddr q.rd) needRd with
          | .ok pa m => (m.read pa 64 / 2 ^ 32 % 2 ^ 32 == q.rd) == (i == 7)
          | _ => false)
       | none => false) = true := by
  decide +kernel
theorem witness_PacketResults :
    (packetAt (atQueue [ringEntry 0 3 7 0]) 0 (fun _ e _ => e.bits.toNat / 2 ^ 64 == 0) &&
      packetAt (atQueue [ringEntry 0 0 7 1]) 0 (fun _ e _ => e.bits.toNat / 2 ^ 64 != 0)) = true := by
  decide +kernel
theorem witness_PacketResults_b :
    ([0, 1].all fun v =>
       let s := atQueue [ringEntry 2 2 7 (0x2FFF8 + 2 ^ 64 * v)]
       packetAt s 2 fun q e m => !q.resend && e.bits.toNat / 2 ^ 192 == 0 && (entryWord e.bits 1).toNat % 8 == 0 &&
         qAt (State.marked s m) (entryWord e.bits 1) needRd && m.read 0x2FFF8 8 == 0 && (entryWord e.bits 2).toNat == v &&
         s.tableRoom (dieOfPa 0x2FFF8) 0 && (s.die (dieOfPa 0x2FFF8)).qwaits.isEmpty) = true := by
  decide +kernel
theorem witness_PacketResults_c :
    (match ((atQueue []).modQueue 3 5 fun q => { q with resend := true }).queue? 3 5, (atQueue []).queue? 3 5 with
      | some q, some r => q.resend && !r.resend
      | _, _ => false) = true := by
  decide +kernel
theorem witness_PacketResults_d :
    ([0, 1].all fun add =>
       let s := atQueue [ringEntry 3 2 7 (0x2FFF8 + 2 ^ 64 * 5 + 2 ^ 128 * add)]
       packetAt s 3 fun q e m => e.bits.toNat / 2 ^ 256 == 0 && (entryWord e.bits 3).toNat ≤ 1 && (entryWord e.bits 1).toNat % 8 == 0 &&
         (let s2 := ((State.marked s m).modQueue 3 5 fun k => { k with started := k.started ++ [⟨q.rd, headerIrq (entryWord e.bits 0), none, some (e.bits, 0)⟩] }).passed 3 5 1
          qAt s2 (entryWord e.bits 1) (if entryWord e.bits 3 = 1 then needRmw else needFill))) = true := by
  decide +kernel
theorem witness_PacketResults_e :
    ([0, 1].all fun mode =>
       let s := atQueue [ringEntry 4 2 7 (0x2FFF8 + 2 ^ 64 * 0x20004 + 2 ^ 128 * 4 + 2 ^ 192 * mode)]
       packetAt s 4 fun q e m => e.bits.toNat / 2 ^ 320 == 0 && (entryWord e.bits 4).toNat ≤ 3 && (entryWord e.bits 1).toNat % 4 == 0 &&
         (entryWord e.bits 2).toNat % 4 == 0 && (entryWord e.bits 3).toNat == 4 &&
         (let s2 := ((State.marked s m).modQueue 3 5 fun k => { k with started := k.started ++ [⟨q.rd, headerIrq (entryWord e.bits 0), none, some (e.bits, 0)⟩] }).passed 3 5 1
          match s2.translate (s2.queueRoot qcb0) (entryWord e.bits 2) needRd with
          | .ok pf m2 =>
            (match (State.marked s2 m2).translate ((State.marked s2 m2).queueRoot qcb0) (entryWord e.bits 1) needFill with
             | .ok pt m3 => !s2.unreadable (mode == 1) pf && !s2.unreadable (mode != 0) pt && (State.marked s2 m2).queueRoot qcb0 == s2.queueRoot qcb0 &&
               [m3, dirtied m3 (s2.queueRoot qcb0) (entryWord e.bits 1).toNat].all fun m =>
                 (State.marked s2 m).paOf (s2.queueRoot qcb0) (entryWord e.bits 2).toNat == pf &&
                 (State.marked s2 m).paOf (s2.queueRoot qcb0) (entryWord e.bits 1).toNat == pt
             | _ => false)
          | _ => false)) = true := by
  decide +kernel
theorem witness_PacketResults_e2 :
    ([2, 3].all fun mode =>
       let s := atQueue [ringEntry 4 2 7 (0x2FFF8 + 2 ^ 64 * 0x20004 + 2 ^ 128 * 4 + 2 ^ 192 * mode)]
       packetAt s 4 fun q e m => e.bits.toNat / 2 ^ 320 == 0 && (entryWord e.bits 4).toNat ≤ 3 && (entryWord e.bits 1).toNat % 4 == 0 &&
         (entryWord e.bits 2).toNat % 4 == 0 && (entryWord e.bits 3).toNat == 4 &&
         (let s2 := ((State.marked s m).modQueue 3 5 fun k => { k with started := k.started ++ [⟨q.rd, headerIrq (entryWord e.bits 0), none, some (e.bits, 0)⟩] }).passed 3 5 1
          match s2.translate (s2.queueRoot qcb0) (entryWord e.bits 2) needRd with
          | .ok pf m2 =>
            (match (State.marked s2 m2).translate ((State.marked s2 m2).queueRoot qcb0) (entryWord e.bits 1) needFill with
             | .ok pt m3 => !s2.unreadable (mode == 1) pf && !s2.unreadable (mode != 0) pt && (State.marked s2 m2).queueRoot qcb0 == s2.queueRoot qcb0 &&
               [m3, dirtied m3 (s2.queueRoot qcb0) (entryWord e.bits 1).toNat].all fun m =>
                 (State.marked s2 m).paOf (s2.queueRoot qcb0) (entryWord e.bits 2).toNat == pf &&
                 (State.marked s2 m).paOf (s2.queueRoot qcb0) (entryWord e.bits 1).toNat == pt
             | _ => false)
          | _ => false)) = true := by
  decide +kernel
theorem witness_PacketResults_f :
    (let s := atQueue [ringEntry 5 2 7 0xFFFFFFFF]
     packetAt s 5 fun _ e _ => e.bits.toNat / 2 ^ 128 == 0 && (entryWord e.bits 1).toNat < 2 ^ 32 && s.queuePart qcb0 == some 0 &&
       (s.part 0).marks.length < 256) = true := by
  decide +kernel

/-- A LAUNCH of one task of slot 9 in the ring of the queue, the slot loaded or not. -/
def atLaunch (loaded : Bool) : State :=
  let s := atQueue [ringEntry 1 2 7 (9 + 2 ^ 64 * 0x7000 + 2 ^ 128 * 0x30000), BitVec.ofNat 512 (2 ^ 512 - 1)]
  let o : ObjSlot := ⟨9, .loaded, 0x7000, 0x10000, 0, 0, [], [], [], []⟩
  let s := { s with parts := s.parts.set 0 { s.parts[0] with slots := if loaded then [o] else [] } }
  { s with pkg := { s.pkg with coreOwner := s.pkg.coreOwner.set 191 (some 0) } }
def launch0 : Launch := { id := 0, die := 3, queue := 5, index := 7, lser := 4, slot := 9, rcb := 0x7000, scratch := 0x30000, pmap := 0, dbg := false
                          gang := 0, args := Vector.replicate 8 (-1), vf := 3, part := 0, irq := true, open_ := true, todo := [0], live := 1 }
theorem witness_LaunchAndMessageResults :
    ([true].all fun loaded =>
       let s := atLaunch loaded
       packetAt s 1 fun q e m => q.fetched.length == 2 && q.lser == 0xFFFF && s.queuePart qcb0 == some 0 &&
         !(State.marked s m).energySpent (addr57 (entryWord e.bits 2)) && !(State.marked s m).coreSpent (addr57 (entryWord e.bits 2)) &&
         s.pkg.launches.isEmpty && (match q.fetched with
         | [e, f] => (match (State.marked s m).launchCheck 3 ⟨q, qcb0, q.rd, e.bits, f.bits⟩ with
           | .ok _ => loaded
           | .error c => !loaded && c == 0x03)
         | _ => false)) = true := by
  decide +kernel
theorem witness_LaunchAndMessageResults2 :
    ([false].all fun loaded =>
       let s := atLaunch loaded
       packetAt s 1 fun q e m => q.fetched.length == 2 && q.lser == 0xFFFF && s.queuePart qcb0 == some 0 &&
         !(State.marked s m).energySpent (addr57 (entryWord e.bits 2)) && !(State.marked s m).coreSpent (addr57 (entryWord e.bits 2)) &&
         s.pkg.launches.isEmpty && (match q.fetched with
         | [e, f] => (match (State.marked s m).launchCheck 3 ⟨q, qcb0, q.rd, e.bits, f.bits⟩ with
           | .ok _ => loaded
           | .error c => !loaded && c == 0x03)
         | _ => false)) = true := by
  decide +kernel
theorem witness_LaunchAndMessageResults_b :
    ([0, 1].all fun n =>
       let s := (atQueue []).modQueue 3 5 fun q => { q with started := [⟨5, true, some 0, none⟩] }
       let s := { s with pkg := { s.pkg with launches := [{ launch0 with live := n }] } }
       match s.queue? 3 5 with
       | some q => q.copy.isSome && (q.started.find? (·.index == 5)).map (·.launch) == some (some 0)
       | none => false) = true := by
  decide +kernel
/-- A service entry for service 0x41 on port 2, its buffer ring at 0x24000 with one record. -/
def service0 (maxlen : BitVec 32) : Service := ⟨0, 0x41, 4, true, false, 3, 5, 0x7000, 9, maxlen, 0x24000, Vector.replicate 4 0⟩
def atMessage (maxlen : BitVec 32) (full : Bool) : State :=
  let s := atQueue []
  let s := { s with mem := (s.mem.write 0x24008 8 1).write 0x24010 16 (0x26000 + 2 ^ 64 * 0x30000) }
  (s.modQueue 3 5 fun q => { q with count := if full then 22 else 21 }).modPkg fun k => { k with services := [service0 maxlen] }
def payload0 : List Byte := 0x41 :: List.replicate 16 0
theorem witness_LaunchAndMessageResults_messages :
    ((atQueue []).pkg.services.isEmpty &&
     (let s := atMessage 17 false
      s.dies.toList.all (·.waiters.isEmpty) &&
      (s.pkg.services.find? fun e => e.v && e.svc.toNat == listWord payload0 0 4 && e.ports.getLsbD (2 : BitVec 3).toNat && 16 ≤ payload0.length) == some (service0 17) &&
        match s.serviceQueue (service0 17) with
        | some q => q.v && q.copy == some qcb0 && s.queuePart qcb0 == some 0 && !(s.part 0).split.getLsbD 2 && payload0.length ≤ 17 &&
          q.rd ≤ q.count.toNat && q.count.toNat + 2 ≤ q.rd + 2 ^ (qcb0.rsize.toNat + 4) && (match s.bufRecord (s.queueRoot qcb0) (service0 17) with
            | some (s1, buf, _) => (s1.mayAccess (s.queueRoot qcb0) needWr (pagesOf (BitVec.ofNat 64 buf) (payload0.drop 16).length ++
                [qcb0.entryAddr q.count.toNat, qcb0.entryAddr (q.count.toNat + 1)])).isSome
            | none => false)
        | none => false) &&
     ([(16, false), (17, true)].all fun q =>
        let s := atMessage q.1 q.2
        (s.pkg.services.find? fun e => e.v && e.svc.toNat == listWord payload0 0 4 && e.ports.getLsbD (2 : BitVec 3).toNat && 16 ≤ payload0.length) == some (service0 q.1) &&
          match s.serviceQueue (service0 q.1) with
          | some k => k.copy == some qcb0 && s.queuePart qcb0 == some 0 && !(s.part 0).split.getLsbD 2 && (q.1.toNat < payload0.length || k.rd + 2 ^ (qcb0.rsize.toNat + 4) < k.count.toNat + 2)
          | none => false)) = true := by
  decide +kernel
theorem witness_TaskPlacementAndEnd :
    (let s := (atLaunch true).modPkg fun k => { k with launches := [launch0] }
     s.dies.toList.all (·.waiters.isEmpty) && (s.copiesReady 3).isEmpty && s.waitingLaunches 3 == [launch0] && s.openCores 0 3 == [191] &&
       s.freeCtx 191 == some .t0 && s.capMode launch0.part == 0 && ((s.part launch0.part).slots.find? (·.num == launch0.slot)).isSome) = true := by
  decide +kernel
theorem witness_TaskPlacementAndEnd_b :
    ((State.reset.waitingLaunches 3).isEmpty && (State.reset.copiesReady 3).isEmpty) = true := by
  decide +kernel
/-- A task of slot 9 in t1 of core 191 whose copying is still to be made. -/
theorem witness_TaskPlacementAndEnd_copy :
    (let s := (atLaunch true).modCore 191 fun k => k.modCtx .t1 fun m => { m with busy := true, copying := true, task := { m.task with slot := 9 } }
     (s.copiesReady 3 == [(191, .t1)] && s.pkg.launches.isEmpty)) = true := by
  decide +kernel
theorem witness_TaskPlacementAndEnd_c :
    (let s := (base .t0 .K).modHere fun k => { k with strands := k.strands.map fun _ t => { t with life := .ended } }
     s.here.busy && Strand.all.all (fun p => (s.strand 0 .t0 p).life == .ended) && (State.reset.strand 0 .fw .K).life == .running) = true := by
  decide +kernel
/-- `State.Still` and that every context is calm, as a check. -/
def still (s : State) : Bool :=
  canon s && s.dies.toList.all (fun d => d.waiters.isEmpty && d.parked.isEmpty) && s.cores.toList.all fun k =>
    k.waitList.isEmpty && k.save.isNone && k.later.isNone
def calm (k : Context) : Bool := k.mx.all (·.phase != .committed) && !k.fabricStarted
def allCalm (s : State) : Bool := s.cores.toList.all fun k => calm k.ctxs.t0 && calm k.ctxs.t1 && calm k.ctxs.fw
theorem witness_FaultDomainResults :
    (let s := (base .t0 .K).modHere fun k => k.modStrand .X fun t => { t with life := .trapped }
     let s := { s with parts := s.parts.set 0 { s.parts[0] with split := 8 } }
     (s.part 0).split.getLsbD 3 && s.here.busy && s.here.part == 0 && s.here.fdom == 0 && !s.here.triage && s.failing 0 .t0) = true := by
  decide +kernel
theorem witness_FaultDomainResults_b :
    (let s := base .t0 .K
     still s && allCalm s && !(s.part 0).split.getLsbD 3 && s.pkg.saved.isEmpty && s.cores.toList.all (!·.fwHalted) &&
       s.dies.toList.all (·.queues.isEmpty) && s.here.busy) = true := by
  decide +kernel
theorem witness_FaultDomainResults_c :
    (let s := { atQueue [] with cores := State.reset.cores }
     still s && s.pkg.saved.isEmpty && (s.tasksOf 0 fun _ => true).isEmpty && (s.die 0).queues.isEmpty && (s.die 3).queues == [queue0 []] &&
       s.queuePart qcb0 == some 0 && s.effFdom qcb0.region == 0) = true := by
  decide +kernel
theorem witness_FaultDomainResults_d :
    (let s := (base .t0 .K).modHere fun k => { k with triage := true }
     still s && allCalm s && s.pkg.saved.isEmpty && s.dies.toList.all (·.queues.isEmpty) &&
       (s.tasksOf 0 fun t => t.triage && t.task.word == s.here.task.word) == [(0, .t0)]) = true := by
  decide +kernel
def save0 (service : Bool) : Save := ⟨.t0, 0x20000, 5, service, none, 31⟩
/-- The root of partition 0 at 0x7000 ticks every 1,000 µs. -/
def ticking (s : State) : State := { s with mem := s.mem.write 0x7000 64 rcb0, parts := s.parts.set 0 { s.parts[0] with root := 0x7000 } }
theorem witness_TickResults :
    (let s := ticking State.reset
     !State.reset.tickDue 0 && s.tickDue 0 && !{ s with pkg := { s.pkg with fabricTime := 1000 } }.tickDue 0 && still s && s.pkg.saved.isEmpty && (s.tasksOf 0 fun k => !((s.chosen 0).map (·.id)).contains k.gangId).isEmpty) = true := by
  decide +kernel
theorem witness_TickResults_b :
    (let s := ticking (base .t0 .K)
     s.tickDue 0 && still s && s.pkg.incoming.isEmpty && calm s.here && s.here.activeLevels.isEmpty &&
       (s.tasksOf 0 fun k => !((s.chosen 0).map (·.id)).contains k.gangId) == [(0, .t0)]) = true := by
  decide +kernel
theorem witness_TickResults_c :
    ([true, false].all fun b =>
       let s := (base .t0 .K).modCore 0 fun k => { k with save := some (save0 b) }
       let s := s.modDie 0 fun d => { d with time := 300000 }
       s.sinceTick (s.ctx 0 .t0).part == 300000 && canon s && s.dies.toList.all (fun d => d.waiters.isEmpty && d.parked.isEmpty) &&
         s.cores.toList.all (fun k => k.waitList.isEmpty && k.later.isNone) && (s.cores.toList.drop 1).all (·.save.isNone) &&
         (s.core 0).save == some (save0 b) && s.pkg.incoming.isEmpty && s.here.busy && calm s.here) = true := by
  decide +kernel
theorem witness_TickResults_d :
    State.reset.cores.toList.all (·.save.isNone) = true := by
  decide +kernel

/-- Firmware K with two pages of firmware memory at 0x20000 and a task in t0; `busy` or not. -/
def atSave (busy : Bool) : State :=
  let s := baseG .fw .K [(1, 0x20000), (2, 9)]
  let s := s.modCore 0 fun k => k.modCtx .t0 fun m => { m with busy := busy, root := BitVec.ofNat 57 placeTables }
  { s with mem := s.mem.write 0x5018 8 0x30631 }
def canPop (s : State) (w : SY) : Bool := s.me.popped == 0 && w.pre.tok == 0
theorem witness_ContextWordResults_save :
    (let w : SY := { sy0 with b := 2, d := 31 }
     [true, false].all (fun b => rdy (atSave b) (.wide (.ctxSv w)) [1, 2] [31] && canPop (atSave b) w && (atSave b).myCore.save.isNone &&
       ((atSave b).ctx 0 .t0).busy == b && (atSave b).imageArea 0x20000 == some 0x20000) &&
       (let s := (atSave true).modMe (·.write 1 0x21000)
        rdy s (.wide (.ctxSv w)) [1, 2] [31] && (s.imageArea (s.rd 1)).isNone && (s.ctx 0 .t0).busy) &&
       still (atSave true) && calm ((atSave true).ctx 0 .t0) &&
       (let s := (atSave true).modCore 0 fun k => { k with save := some (save0 false) }
        rdy s (.wide (.ctxSv w)) [1, 2] [31] && s.myCore.save.isSome)) = true := by
  decide +kernel
theorem witness_ContextWordResults_save_b :
    (let w : SY := { sy0 with b := 2, d := 31, imm := 2 }
     ctxNumber w == .t0 && [true, false].all (fun b =>
       let s := (atSave b).modCore 0 fun k => k.modCtx .t0 fun m => { m with
         clamp := some (5, 3), lv := m.lv.set 5 ⟨true, 4, 1, 1, placeAddr, placeAddr + 8, Vector.replicate 32 0, placeAddr + 16, true⟩ }
       rdy s (.wide (.ctxSvEpi w)) [1, 2] [31] && canPop s w && s.myCore.save.isNone && (s.ctx 0 .t0).busy == b &&
         (s.imageArea (s.rd 1)).isSome && (s.ctx 0 .t0).clamp.isSome && !(s.ctx 0 .t0).epilogueDone && (s.rd 2).toNat % 2 ^ 32 == 9)) = true := by
  decide +kernel
/-- The same with an image at 0x20000, of the accumulation epoch of the context or not. -/
def atLoad (busy v inPlace epi : Bool) : State :=
  let s := atSave busy
  let img : Image := ⟨0x20000, 0, .t0, epi, 0, 0, 0, { Context.reset .running with busy := true, aepoch := if inPlace then 0 else 1 }, [], false, false⟩
  { s with mem := s.mem.write 0x20000 8 v.toNat, pkg := { s.pkg with images := [img] } }
theorem witness_ContextWordResults_load :
    (let w : SY := { sy0 with d := 31 }
     [(true, true, true, true), (false, false, true, true)].all fun q =>
       let s := atLoad q.1 q.2.1 q.2.2.1 q.2.2.2
       rdy s (.wide (.ctxLd w)) [1] [31] && rdy s (.wide (.ctxLdHold { w with imm := 2 })) [1] [31] && ctxNumber { w with imm := 2 } == .t0 && canPop s w && (s.ctx 0 .t0).busy == q.1 &&
         s.imageArea (s.rd 1) == some 0x20000 && (s.imageAt 0x20000).isSome == q.2.1 && ctxNumber w != s.cur.ctx && match s.imageAt 0x20000 with
         | some g => g.core == s.cur.core && g.epi == q.2.2.2 && s.inPlace 0 .t0 g == q.2.2.1
         | none => true) = true := by
  decide +kernel
theorem witness_ContextWordResults_load2 :
    (let w : SY := { sy0 with d := 31 }
     [(false, true, false, false), (false, true, true, false), (false, true, false, true)].all fun q =>
       let s := atLoad q.1 q.2.1 q.2.2.1 q.2.2.2
       rdy s (.wide (.ctxLd w)) [1] [31] && rdy s (.wide (.ctxLdHold { w with imm := 2 })) [1] [31] && ctxNumber { w with imm := 2 } == .t0 && canPop s w && (s.ctx 0 .t0).busy == q.1 &&
         s.imageArea (s.rd 1) == some 0x20000 && (s.imageAt 0x20000).isSome == q.2.1 && ctxNumber w != s.cur.ctx && match s.imageAt 0x20000 with
         | some g => g.core == s.cur.core && g.epi == q.2.2.2 && s.inPlace 0 .t0 g == q.2.2.1
         | none => true) = true := by
  decide +kernel
theorem witness_ContextWordResults_load_b :
    (let w : SY := { sy0 with d := 31 }
     let s := (atLoad false true true true).modMe (·.write 1 0x20008)
     rdy s (.wide (.ctxLd w)) [1] [31] && (s.imageArea (s.rd 1)).isNone) = true := by
  decide +kernel
theorem witness_ContextWordResults_load_c :
    (let w : SY := { sy0 with a := 0, d := 31, imm := 5 }
     [true, false].all fun b =>
       let s := (atSave true).modCore 0 fun k => k.modCtx .t1 fun m => { m with held := b, unrestored := 5 }
       rdy s (.wide (.ctxLdGo w)) [] [31] && canPop s w && ctxNumber w == .t1 && (s.ctx 0 .t1).held == b) = true := by
  decide +kernel
def rq0 : Req := { fn := .pf, seq := 1, op := 0, len := 1968, body := [], again := false }
def takes (s : State) (rq : Req) : Bool :=
  s.pkg.running && !rq.again && (s.mail rq.fn).busy == none && rq.seq != (s.mail rq.fn).rspseq && rq.len.toNat ≤ 1968
/-- Quotas of 496, 248, 128 and 64 granules. -/
def resctl0 : Nat := 496 + 2 ^ 11 * 248 + 2 ^ 22 * 128 + 2 ^ 31 * 64
/-- Partition 63 made; function 7 bound to it; core 191 its, with a task in t0. -/
def made : State :=
  let s := State.reset.modCore 191 fun k => k.modCtx .t0 fun m => { m with busy := true, part := 63, vf := 7 }
  { s with parts := s.parts.set 63 { Partition.reset with made := true, root := 0x7000 }
           mem := s.mem.write 0x7000 64 (rcb0 + 2 ^ 192 * resctl0)
           pkg := { s.pkg with vfs := [(7, 63)], coreOwner := s.pkg.coreOwner.set 191 (some 63) } }
theorem witness_PartitionCommands :
    (takes made rq0 && takes made { rq0 with fn := .vf 7 } && (State.reset.mail .pf).busy == none && (State.reset.mail .pf).rspseq == 0) = true := by
  decide +kernel
theorem witness_PartitionCommands_b :
    (!(made.part 0).made && (made.part 63).made && made.partLives 63) = true := by
  decide +kernel
theorem witness_PartitionCommands_b2 :
    (let s := { made with cores := State.reset.cores }
     (s.part 63).made && !s.partLives 63) = true := by
  decide +kernel
theorem witness_PartitionCommands_c :
    (made.pkg.coreOwner[0] == none && !(made.ctx 0 .t0).busy && !(made.ctx 0 .t1).busy && made.pkg.coreOwner[191] == some 63 &&
      (made.ctx 191 .t0).busy) = true := by
  decide +kernel
theorem witness_PartitionCommands_d :
    (made.partOfVf 9 == none && (made.pkg.vfs.filter (·.2 == (63 : PartId))).length == 1 && (made.partOfVf 7).isSome &&
      taskContexts.all (fun q => !(made.ctx q.1 q.2).busy || (made.ctx q.1 q.2).vf != (9 : VfId))) = true := by
  decide +kernel
theorem witness_PartitionCommands_e :
    made.callerPart { rq0 with fn := .vf 7 } = some 63 := by
  decide +kernel
theorem witness_PartitionCommands_f :
    (canon made && made.dies.toList.all (·.waiters.isEmpty) && made.treeOf 0x7100 (0x7021) == 63 &&
      made.nodeOk 0x7100 (0x7021 + 2 ^ 277 * 1024) 63 && !made.nodeOk 0x7100 (0x7041 + 2 ^ 277 * 1024) 63 && !made.nodeOk 0x7100 (0x7021 + 2 ^ 277 * 7) 63 &&
      allParts.all fun p => State.reset.nodeOk 0x7000 (rcb0 + 2 ^ 192 * resctl0) p) = true := by
  decide +kernel
/-- A partition's root at a free address is in the house area that owns it, whichever that is. -/
theorem witness_PartitionCommands_f2 : Config.houseArea 0x7000 = State.reset.treeOf 0x7000 (rcb0 + 2 ^ 192 * resctl0) ∧
    State.reset.nodeOk 0x7000 (rcb0 + 2 ^ 192 * resctl0) (State.reset.treeOf 0x7000 (rcb0 + 2 ^ 192 * resctl0)) = true := by
  have h : ∀ p : PartId, State.reset.nodeOk 0x7000 (rcb0 + 2 ^ 192 * resctl0) p = true := by decide +kernel
  have d : rcbDepth (rcb0 + 2 ^ 192 * resctl0) = 0 := by decide +kernel
  exact ⟨by rw [State.treeOf, if_pos d], h _⟩
theorem witness_PartitionCommands_busy :
    (let s := made.setMail rq0.fn { made.mail rq0.fn with busy := some 9 }
     !rq0.again && (s.mail rq0.fn).busy.isSome) = true := by
  decide +kernel
/-- The image of an object without sections whose entry is parcel 3. -/
def ivo0 : List Byte := [0x49, 0x56, 0x4F, 0x31, 0, 0, 0, 0, 0, 0, 1, 0, 3] ++ List.replicate 51 0
theorem witness_ServiceCommands :
    (canon made && made.dies.toList.all (·.waiters.isEmpty) && made.hbm.faults.isEmpty && (invRange false 0 0).isNone && !made.holdsPages (fun _ => true) 0x1000 0 (2 ^ 57) &&
      invRange true 0 0 == some (0, 2 ^ 57) &&
      (let step : MX := { MX.zero with aKind := 1, bKind := 1, bIdx := 1, kb := 1, fmtA := 0, fmtB := 0 }
       let s := base .t0 .K
       let r : StreamReg := { StreamReg.reset with bound := true, space := 1, base := 0x20000, dims := StreamReg.reset.dims.set 0 ⟨63, 1⟩ }
       let s := s.modHere fun k => { k with streams := (k.streams.set 0 r).set 1 r }
       let s := s.modHere fun k => { k with mx := [{ k.mxCmd .t0 (.mm step) step 1 .t0 0 with phase := .started }] }
       takes s rq0 && s.holdsPages (fun _ => true) s.here.root 0 (2 ^ 57))) = true := by
  decide +kernel
theorem witness_ServiceCommands_b :
    (made.queue? 3 5 == none && made.dies.toList.all (·.queues.isEmpty) && made.freeBell (qcbOf (made.mem.read 0x7800 64)).vf == some 0) = true := by
  decide +kernel
def plan0 : LoadPlan := { root := 0x1000, textVa := 0x10000, textPa := 0x30000, data := [] }
theorem witness_ServiceCommands_c :
    (let o : ObjSlot := ⟨9, .loaded, 0x7000, 0x10000, 0, 0, [], [], [], []⟩
     let s := { made with parts := made.parts.set 63 { made.parts[63] with slots := [o], split := 16 } }
     let t := s.setMail rq0.fn { s.mail rq0.fn with busy := some rq0.seq, op := 0x000B }
     let t := { t with parts := t.parts.set 63 { t.parts[63] with slots := [loadingSlot 8 plan0] } }
     let t := { t with hbm := { t.hbm with host := t.hbm.host.writeList 0x9000 ivo0 } }
     (parseIvo (s.hostBytes 0x9000 64)).isNone && (parseIvo (t.hostBytes 0x9000 64)).isSome && t.pkg.running && (t.mail rq0.fn).busy == some rq0.seq && (t.mail rq0.fn).op == 0x000B &&
       (t.part 63).slots.find? (·.num == 8) == some (loadingSlot 8 plan0) && (t.part 63).slots.all (·.num != 7) && (t.part 63).split.getLsbD 4 && plan0.data.isEmpty && (s.part 63).split.getLsbD 4 && (s.part 63).slots.find? (·.num == 9) == some o &&
       !s.slotUsed 63 9 && (s.part 63).slots.all (·.num != 8)) = true := by
  decide +kernel
theorem witness_ServiceCommands_c2 :
    (let o : ObjSlot := ⟨9, .loaded, 0x7000, 0x10000, 0, 0, [], [], [], []⟩
     let s := { made with parts := made.parts.set 63 { made.parts[63] with slots := [o], split := 16 } }
     let t := s.modCore 191 fun k => k.modCtx .t0 fun m => { m with task := { m.task with slot := 9 } }
     (t.part 63).split.getLsbD 4 && (t.part 63).slots.find? (·.num == 9) == some o && t.slotUsed 63 9) = true := by
  decide +kernel
theorem witness_ServiceCommands_d :
    (still made && allCalm made) = true := by
  decide +kernel
theorem witness_ServiceCommands_e :
    (made.path 0x7000 == [0x7000] && (made.part 63).root == 0x7000) = true := by
  decide +kernel
theorem witness_ServiceCommands_f :
    (taskContexts.find? fun q => (made.ctx q.1 q.2).busy && (made.ctx q.1 q.2).task.word == 0) = some (191, .t0) := by
  decide +kernel
theorem witness_ResetAndHostResults :
    (let f : Checkpoint := ⟨Vector.replicate 64 (Vector.replicate 12 0), [], 0, 5, 6, 7, [], true⟩
     newestSealed State.reset.pkg.flash [true] == none && newestSealed [f] [false] == none && newestSealed [f, f] [false, true] == some (f, []) && still made && allCalm made) = true ∧
    ([0, 1].all fun v =>
       let s := atQueue []
       let s := { s with mem := (s.mem.write 0x7830 8 (2 ^ 6 * (0x9000 / 64))).write 0x9000 8 v }
       canon s && (qcbOf (s.mem.read 0x7800 64)).jrnl == 0x9000 && s.mem.read 0x9000 8 % 2 == v) = true ∧
    (let s := atQueue []
     let s := { s with parts := s.parts.set 0 { s.parts[0] with root := 0x7000 } }
     (s.bar2Root 4).isNone && (s.partOfVf 4).isNone && (s.partOfVf 3).isSome && s.bar2Root 3 == some 0x1000 && (s.winBase 3) == 0 &&
       (s.mayAccess 0x1000 needRd (pagesOf 0x2FFF8 8)).isSome && (s.mayAccess 0x1000 needWr (pagesOf 0x2FFFF 1)).isSome) = true := by
  decide +kernel

theorem test_decode_scalar_words :
    (decodeTableWord 32 0xD5E6C4C0 == some (.lui ⟨0, 17, 0x1ABCD⟩) &&
      decodeTableWord 32 0x18520CF8 == some (.bfx ⟨2, 3, 4, 5, 6⟩) &&
      decodeTableWord 32 0xC2742524 == some (.ceq ⟨1, 9, 8, 7, 33, 1⟩) &&
      decodeTableWord 32 0xFFD41600 == some (.brT ⟨0, 5, 40, -2⟩) &&
      decodeTableWord 32 0xFFFFF620 == some (.jmp ⟨0, -3⟩) &&
      decodeTableWord 32 0x0C952F20 == some (.ldlW ⟨0, 11, 10, 9, 3⟩) &&
      decodeTableWord 32 0xFF808BF0 == some (.stgD ⟨0, 2, 1, -8⟩) &&
      decodeTableWord 32 0x03FEF880 == some (.shri ⟨0, 30, 29, 63⟩) &&
      decodeTableWord 32 0x0AD019C0 == some (.bnot ⟨0, 6, 0, 45, 2⟩) &&
      decodeTableWord 32 0x01888670 == some (.lpStride ⟨0, 1 + 8 * 2 + 256 * 3⟩) &&
      decodeTableWord 32 0x00268A70 == some (.lpRun ⟨0, 5 + 8 * 9⟩) &&
      decodeTableWord 32 0x01F38A80 == some (.rdsr ⟨0, 7 + 32 * 0x1F⟩) &&
      decodeTableWord 32 0x05218290 == some (.ccAdd ⟨0, 3 + 16 * 4 + 512 * 5⟩) &&
      decodeTableWord 32 0x00038660 == some (.join ⟨0, 7 + 16 * 0⟩) &&
      decodeTableWord 32 0x006802A0 == some (.fence ⟨0, 16 + 64 * 3⟩)) = true := by
  decide +kernel
theorem test_decode_vector_width_words :
    (decodeTableWord 96 0x0000F8013FF2A80066124405 == some (.vadd ⟨⟨1, 1, 4, 33, 1⟩, ⟨0, 3, 0⟩, ⟨1, 21, -2⟩, ⟨3, 9, 0⟩, 15, 1, 0, 0, 0⟩) &&
      decodeTableWord 96 0x00084A6FFE00000536126181 == some (.ldmWait ⟨⟨8, 1, 4, 33, 1⟩, 6, 5, 0, 0, 0, 0, -8, 3, 1, 1, 1, 1, 2, 1, 0, 0⟩) &&
      decodeTableWord 96 0x000004100FFFA045361241B9 == some (.atCas ⟨⟨0, 1, 4, 33, 1⟩, 6, 5, 2, 8, 1, 63, 63, 4, 0, 0, 2, 0, 0, 0, 0, 0⟩) &&
      decodeTableWord 96 0x00080000019511840E124A05 == some (.cpG ⟨⟨2, 1, 4, 33, 1⟩, 1, 2, 3, 1, 4, 5, 6, 0, 1⟩) &&
      decodeTableWord 96 0x000000007800003CFE124211 == some (.cpRed ⟨⟨0, 1, 4, 33, 1⟩, 31, 30, 0, 0, 0, 0, 0, 15, 0⟩) &&
      decodeTableWord 96 0x0000000003C04A003E124285 == some (.asDim ⟨⟨0, 1, 4, 33, 1⟩, 7, 0, 8, 9, 0, 15, 0, 0⟩) &&
      decodeTableWord 96 0x00002AF34000003F06124299 == some (.sgBind ⟨⟨0, 1, 4, 33, 1⟩, 0, 63, 0, 0, 0, 0, 0, 0xABCD⟩) &&
      decodeTableWord 96 0x00000001891A00083E1252CD == some (.barArr ⟨⟨4, 1, 4, 33, 1⟩, 7, 8, 0, 0, 0x1234, 3, 0, 0, 0, 0⟩) &&
      decodeTableWord 96 0x000832CE8014A9283E124309 == some (.xat ⟨⟨0, 1, 4, 33, 1⟩, 7, 8, 9, 10, 0x29, 5, 3, 11, 12, 1⟩) &&
      decodeTableWord 96 0x00000000000580003E124341 == some (.enRd ⟨⟨0, 1, 4, 33, 1⟩, 7, 0, 0, 0, 11, 0, 0, 0, 0, 0⟩)) = true := by
  decide +kernel
theorem test_decode_matrix_width_words :
    (decodeTableWord 192 0x00000000000000000008D00B87000000FFA20DAA8E127C0A == some (.mmSp ⟨⟨15, 1, 4, 33, 1⟩, 1, 0, 1, 10, 10, 1, 3, 2, 40, 255, 0, 0, 0, 0, 0, 7, 8, 1, 5, 0, 0, 1, 6, 2, 0, 0⟩) &&
      decodeTableWord 192 0x00000000000000000000000021ADFFFF0000000036124012 == some (.mdrain ⟨⟨0, 1, 4, 33, 1⟩, 0, 3, 0, 0, 0, 0, 0, 0, 0, 0, 63, 1023, 13, 2, 1, 1, 2, 0, 0, 0, 0, 0, 0, 0, 0, 0⟩) &&
      decodeTableWord 192 0x00000000000000090000000021000185000000000E12401A == some (.mcorrLd ⟨⟨0, 1, 4, 33, 1⟩, 1, 0, 0, 0, 0, 0, 0, 0, 0, 0, 5, 6, 0, 0, 0, 1, 2, 0, 0, 0, 0, 0, 0, 0, 9, 0⟩) &&
      decodeTableWord 192 0x000000000000009000000000000000000000000006124022 == some (.mstat ⟨⟨0, 1, 4, 33, 1⟩, 0, 0, 0, 0, 0, 0, 0, 0, 0, 0, 0, 0, 0, 0, 0, 0, 0, 0, 0, 0, 0, 0, 0, 0, 0, 9⟩)) = true := by
  decide +kernel

/-! ## Ill-formed terms, one for each check -/

theorem illFormed_scalar_words :
    ([.add ⟨3, 1, 2, 3⟩, .mov ⟨0, 1, 2, 3⟩, .jr ⟨0, 1, 2, 0⟩, .callr ⟨0, 0, 2, 1⟩, .addi ⟨3, 1, 2, 0⟩, .shli ⟨0, 1, 2, 64⟩, .sari ⟨0, 1, 2, -1⟩,
      .lui ⟨3, 1, 0⟩, .bfx ⟨0, 1, 2, 1, 63⟩, .bfi ⟨0, 1, 2, 63, 1⟩, .ceq ⟨3, 1, 2, 3, 0, 0⟩, .clti ⟨3, 1, 2, 0, 0⟩, .bset ⟨0, 1, 2, 0, 0⟩,
      .bclr ⟨0, 1, 0, 0, 2⟩, .brT ⟨3, 1, 0, 1⟩, .jmp ⟨3, 1⟩, .ldlB ⟨3, 1, 2, 0, 0⟩, .ldgB ⟨3, 1, 2, 0⟩, .fork ⟨3, 1⟩, .join ⟨0, 8⟩,
      .join ⟨0, 7 + 128⟩, .jbset ⟨0, 8⟩, .exit ⟨0, 1⟩, .lpSet ⟨0, 6⟩, .lpStride ⟨0, 7⟩, .lpRun ⟨0, 6⟩, .lpBrk ⟨0, 6⟩, .lpClamp ⟨0, 256⟩,
      .trap ⟨3, 0⟩, .eret ⟨0, 1⟩, .rdsr ⟨0, 32 * 0x20⟩, .wrsr ⟨0, 32 * 7⟩, .guard ⟨0, 2048⟩, .ccAdd ⟨3, 0⟩, .tokPush ⟨0, 2⟩, .fence ⟨0, 64⟩,
      .fence ⟨0, 1 + 64 * 6⟩, .fence ⟨0, 512⟩] : List Instr).all (!·.legal) = true := by
  decide +kernel
def pre0 : Pre := ⟨0, 0, 0, 0, 0⟩
theorem illFormed_vector_words :
    (let w : VA := ⟨pre0, ⟨0, 3, 0⟩, ⟨1, 5, 2⟩, ⟨3, 9, 0⟩, 15, 0, 0, 0, 0⟩
     Instr.legal (.vadd w) &&
       ([.vadd { w with pre := ⟨0, 0, 1, 0, 0⟩ }, .vadd { w with pre := ⟨0, 0, 0, 1, 0⟩ }, .vadd { w with pre := ⟨0, 0, 0, 0, 1⟩ },
         .vadd { w with op0 := ⟨0, 16, 0⟩ }, .vadd { w with op0 := ⟨0, 3, 1⟩ }, .vadd { w with op0 := ⟨2, 0, 0⟩ }, .vadd { w with op1 := ⟨1, 32, 0⟩ },
         .vadd { w with op1 := ⟨2, 3, 0⟩ }, .vadd { w with op1 := ⟨2, 0, 1⟩ }, .vadd { w with op2 := ⟨3, 32, 0⟩ }, .vadd { w with op2 := ⟨3, 1, 1⟩ },
         .vadd { w with fmt := 8 }, .vadd { w with rnd := 5 }, .vadd { w with fmt := 0, rnd := 1 }, .vadd { w with sq := 1 }, .vadd { w with aux := 1 },
         .vmin { w with rnd := 1 }, .vmin { w with sat := 1 }, .vabs { w with op2 := ⟨0, 0, 0⟩, sat := 1 }, .vabs w, .vshl w,
         .vfma { w with op0 := ⟨1, 3, 0⟩ }, .vperm w, .vsel { w with aux := 16 }, .vbcast { w with op1 := ⟨0, 0, 0⟩, op2 := ⟨0, 0, 0⟩, aux := 128 },
         .vsp { w with op2 := ⟨0, 0, 0⟩, aux := 0 }, .vcvt { w with op2 := ⟨0, 0, 0⟩, aux := 16 }, .vpop { w with op2 := ⟨0, 0, 0⟩ },
         .vsrSeed { w with op0 := ⟨0, 0, 0⟩, op2 := ⟨0, 0, 0⟩, op1 := ⟨3, 1, 0⟩ }] : List Instr).all (!·.legal)) = true := by
  decide +kernel
theorem illFormed_memory_words :
    (let w : ME := ⟨pre0, 2, 1, 0, 0, 0, 0, 0, 2, 0, 0, 0, 0, 0, 0, 0, 0⟩
     Instr.legal (.ldm w) && Instr.legal (.stm w) && Instr.legal (.atAdd w) &&
       ([.ldm { w with width := 5 }, .ldm { w with fe := 1 }, .ldmWait { w with fe := 2 }, .stmFill { w with fe := 1 }, .ldm { w with atom := 3 },
         .ldm { w with ord := 3, scope := 1 }, .ldm { w with ord := 1 }, .ldm { w with scope := 1 }, .ldm { w with ord := 1, scope := 6 },
         .ldm { w with ord := 2, scope := 1 }, .stm { w with ord := 1, scope := 1 }, .stm { w with zx := 1 }, .ldm { w with atom := 1 },
         .ldm { w with width := 3, atom := 2 }, .ldm { w with width := 4, d := 3 }, .ldm { w with space := 1, imm := 64 }, .ldm { w with b := 1 },
         .ldm { w with c := 1 }, .ldm { w with afmt := 1 }, .ldm { w with fval := 1 }, .ldmWait { w with fe := 1, width := 3 }, .atAdd { w with width := 1 },
         .atAdd { w with c := 1 }, .atCas { w with width := 4, atom := 2, b := 3 }, .atAdd { w with fe := 1 }, .atFadd w, .atFadd { w with afmt := 15, width := 3 },
         .feProbe { w with sq := 1 }, .feSet { w with d := 1 }, .acq w, .rel w, .syncBind { w with d := 1, width := 0 }, .syncUnbind { w with d := 0, width := 0, b := 1 },
         .prefetch { w with width := 0 }] : List Instr).all (!·.legal)) = true := by
  decide +kernel
theorem illFormed_copy_and_configuration_words :
    (Instr.legal (.cp cp0) && ([.cp { cp0 with dst := 32 }, .cp { cp0 with src := 32 }, .cp { cp0 with idx := 1 }, .cp { cp0 with rfmt := 1 },
       .cpRed { cp0 with rfmt := 8 }, .cpW { cp0 with fe := 1 }, .cpFe { cp0 with src := 0, fe := 1 }, .cpFe { cp0 with src := 1, fe := 2 },
       .cpZero { cp0 with src := 0, fe := 1 }, .cp { cp0 with pre := ⟨0, 0, 1, 0, 0⟩ }, .asCfg { cf0 with b := 1 }, .asDim { cf0 with imm := 1 },
       .asFmt { cf0 with a := 1 }, .asBindLocal { cf0 with imm := 1 }, .asBindDevice { cf0 with imm := 0 }, .asRst { cf0 with handle := 1 },
       .asAdv { cf0 with b := 1 }, .sgBind { cf0 with t := 1 }, .sgPin { cf0 with handle := 1 }, .sgTouch { cf0 with a := 1 }, .sgInfo { cf0 with a := 1 },
       .vlSet { cf0 with dim := 1 }, .vlSet { cf0 with fmt := 1 }, .vlSet { cf0 with name := 1 }] : List Instr).all (!·.legal)) = true := by
  decide +kernel
theorem illFormed_sy_words :
    (let w : SY := { sy0 with a := 0 }
     let u : SY := { sy0 with d := 1, b := 2, fmt := 3 }
     Instr.legal (.wbSwap w) && Instr.legal (.xld u) &&
       ([.wbSwap { w with d := 1 }, .wbSwap { w with a := 1 }, .wbSwap { w with b := 1 }, .wbSwap { w with c := 1 }, .wbSwap { w with imm := 1 },
         .wbSwap { w with scope := 1 }, .wbSwap { w with fmt := 1 }, .wbSwap { w with sq := 1 }, .wbStat { w with cc := 1 }, .wbStat { w with inc := 1 },
         .barArr { w with imm := 1, scope := 4 }, .barArr { w with imm := 0, scope := 1 }, .barWait w, .barXferIn { w with imm := 1 }, .barXferOut w,
         .xld { u with imm := 0x40 }, .xld { u with imm := 0x20, scope := 5 }, .xld { u with fmt := 8 }, .xld { u with scope := 5 }, .xst { u with imm := 0x10, scope := 5 },
         .xst { u with imm := 0xC0 }, .xat { u with imm := 11 }, .xat { u with imm := 10 }, .xat { u with fmt := 1 }, .xat { u with imm := 0x30, scope := 5 },
         .xcpPush { u with d := 0, fmt := 0, imm := 0x20 }, .xcpPull { u with d := 0, fmt := 0, imm := 0 }, .xsigSet { u with d := 0, fmt := 0 },
         .xsigAdd { u with d := 0, fmt := 0, scope := 5 }, .xsigSet { u with d := 0, fmt := 0, scope := 5, imm := 4 }, .enRd { w with imm := 12 },
         .tlbInv { w with imm := 1, scope := 1 }, .tlbInv w, .tlbInvAll { w with b := 1, imm := 1, scope := 1 }, .tarRd { w with imm := 2 }, .ctxSv { w with imm := 2 },
         .ctxSvEpi w, .ctxLd { w with imm := 2 }, .ctxLdHold w, .ctxLdGo { w with imm := 4, a := 1 }] : List Instr).all (!·.legal)) = true := by
  decide +kernel
theorem illFormed_matrix_words :
    (let z := MX.zero
     let w : MX := { z with aKind := 1, bKind := 1, bIdx := 1, kb := 1 }
     Instr.legal (.mm w) && Instr.legal (.mzero z) && Instr.legal (.mdrain { z with dfmt := 15 }) &&
       ([.mm { w with fuse := 4 }, .mm { w with aKind := 2 }, .mm { w with bKind := 3 }, .mm { w with kb := 0 }, .mm { w with aIdx := 32 }, .mm { w with bIdx := 32 },
         .mm { w with sa := 1 }, .mm { w with sb := 1 }, .mmSp { w with n := 1, md := 1 }, .mmSp w, .mm { w with n := 1 }, .mm { w with mdEn := 1 }, .mm { w with handle := 1 },
         .mm { w with off := 1 }, .mm { w with dfmt := 1 }, .mm { w with rnd := 1 }, .mm { w with sat := 1 }, .mm { w with mask := 1 }, .mm { w with statD := 1 },
         .mm { w with fmtA := 8 }, .mm { w with fmtB := 15 }, .mmTn w, .mdrain { z with dfmt := 2 }, .mdrain { z with dfmt := 15, rnd := 5 }, .mdrain { z with dfmt := 15, kb := 1 },
         .mdrain { z with dfmt := 15, first := 1 }, .mdrain { z with dfmt := 15, saEn := 1 }, .mzero { z with fuse := 4 }, .mzero { z with fmtA := 1 }, .mzero { z with aIdx := 1 },
         .mcorrLd z, .mcorrSt { z with mask := 1, fuse := 1 }, .mstat { z with cc := 1 }, .mstat { z with sq := 1 }, .mzero { z with pre := ⟨0, 0, 1, 0, 0⟩ }] :
         List Instr).all (!·.legal)) = true := by
  decide +kernel
/-- A TOK bit toward a side without a neighbour, a sequencer word outside K, a firmware word in a task context (R44, R56, R57). -/
theorem illPlaced_words :
    (wordCheck (.scalar (.tokPush ⟨0, 0⟩)) .K .t0 true none == some .illegal && wordCheck (.scalar (.tokPop ⟨0, 1⟩)) .S .t0 true none == some .illegal &&
      wordCheck (.scalar (.lpBrk ⟨0, 0⟩)) .L .t0 true none == some .slot && wordCheck (.scalar (.fork ⟨0, 1⟩)) .K .t0 false none == some .slot &&
      wordCheck (.scalar (.eret ⟨0, 0⟩)) .K .t0 true none == some .priv && (wordCheck (.scalar (.eret ⟨0, 0⟩)) .K .fw true none).isNone &&
      wordCheck (.scalar (.join ⟨0, 6⟩)) .K .t0 true none == some .illegal && wordCheck (.wide (.cpMm cp0)) .L .t0 true none == some .illegal) = true := by
  decide +kernel

/-! ## Words as a whole -/

theorem witness_EncodedWordsDecodeBack :
    (([.add ⟨0, 5, 6, 7⟩, .cp cp0, .mzero MX.zero, .mstat { MX.zero with statD := 9 }] : List Instr).all fun i => i.legal) = true := by
  decide +kernel
theorem witness_DecodedBytesAreTheEncoding : decode [0x10, 0x14, 0x73, 0x00, 0xAA] = .ok (.add ⟨0, 5, 6, 7⟩, [0xAA]) := by
  rfl
theorem witness_StepRunsDecodedWords_agenda : (State.reset.placeWord 0x00731410).agenda = [.bundleIssue 0 .t0 .K] := by
  decide +kernel
theorem witness_StepRunsDecodedWords_schedule :
    ({ State.reset.placeWord 0x00731410 with agenda := [] }).schedule.isSome = true ∧ State.reset.schedule.isSome = false := by
  decide +kernel
/-- A NOP packet at the head of a queue of partition 0, which records or replays. -/
def atCapture (m : BitVec 2) (l : List Crossing) : State :=
  let s := atQueue [ringEntry 0 0 7 0]
  { s with parts := s.parts.set 0 { s.parts[0] with capMode := m, capLeft := ⟨l, [], [], []⟩ } }
theorem witness_StepRunsDecodedWords_capture :
    (([(1, []), (2, [.event (.bar2Write 3 0 [])])] : List (BitVec 2 × List Crossing)).all fun q =>
       let s := atCapture q.1 q.2
       s.captures && s.inputOf (.nop 3 5) == some 0 && s.capMode 0 == q.1.toNat && kindOf (.bar2Write 3 0 []) != kindOf (.nop 3 5) &&
         match exec (.nop 3 5) s with
         | .next t => crossed (.nop 3 5) s t && (copyDone (.nop 3 5) s t).isNone && t.capMode 0 == q.1.toNat && t.clusters == s.clusters &&
             allDies.all fun d => (t.die d).ring == (s.die d).ring
         | _ => false) = true ∧
    ∀ m, (atCapture m [.event (.bar2Write 3 0 [])]).deliverThyme = atCapture m [.event (.bar2Write 3 0 [])] ∧
      (atCapture m []).deliverThyme = atCapture m [] := by
  refine ⟨by decide +kernel, fun m => ⟨State.deliverThyme_none ?_, State.deliverThyme_none ?_⟩⟩ <;> revert m <;> decide +kernel
theorem test_seed_of_replay :
    (let s := base .t0 .X
     let s := { s with parts := s.parts.set 0 { s.parts[0] with capMode := 2, capLeft := ⟨[], [], [], [(0, .t0, 9)]⟩ } }
     s.seedIn 0 .t0 5 == 9 && (s.noteSeed 0 .t0 9).seedIn 0 .t0 5 == 5 && (base .t0 .X).seedIn 0 .t0 5 == 5) = true := by
  decide +kernel
theorem witness_StepRunsDecodedWords_bundle :
    (decodeNat 0x00731410 matches .ok (.scalar (.add _)) && (takeWord [0x10, 0x14, 0x73, 0x00] matches .ok (0x00731410, [])) &&
      (let s := base .t0 .K
       let w : SlotWord := ⟨.K, placeAddr + 4, .scalar (.add ⟨0, 5, 6, 7⟩)⟩
       (s.ctx 0 .t0).slotIssues s.cur.hdr false false && w.slot != .X &&
         ((({ s with cur := { s.cur with carried := false } }).atSlot ⟨1, 1, 0, 0, 0, 0⟩ w).run w.word).cur.res == .done)) = true := by
  decide +kernel
theorem witness_ChecksAndGuardsOfEveryWord :
    (let s := base .t0 .X
     let v : AnyWord := .scalar (.add ⟨1, 31, 30, 29⟩)
     s.check (.scalar (.add ⟨3, 31, 30, 29⟩)) == some .illegal && s.check v == none && !s.me.pending (guardRegs v s.me) && !guardHolds v s.me &&
       s.here.dbg == false &&
       (let t := s.modHere fun k => { k with dbg := true }
        t.here.dbg && t.me.stale (guardRegs v t.me) == none)) = true := by
  decide +kernel
theorem witness_RegisterWordFrame :
    (let s := base .t0 .X
     [0, 31].all fun d =>
       registerDest (.add ⟨0, d, 30, 29⟩) == some d && (s.run (.scalar (.add ⟨0, d, 30, 29⟩))).cur.res == .done &&
         registerDest (.div ⟨0, d, 30, 29⟩) == some d && registerDest (.bset ⟨0, d, 0, 63, 0⟩) == some d) = true := by
  decide +kernel
/-- The hypotheses of the frames are among those of ScalarLoadAndStoreResults; these are the ones that it does not have. -/
theorem witness_ScalarStoreFrames :
    ((baseG .t0 .L [(1, 0xFC0)]).dies.toList.all (·.waiters.isEmpty) && (baseG .t0 .L [(1, 0xFC0)]).here.bars.isEmpty &&
      (baseG .t0 .L [(1, 0xFC0)]).myCore.waitList.isEmpty) = true := by
  decide +kernel
theorem witness_WordsChangeNoOwnership : ((base .t0 .K).run (.scalar (.add ⟨0, 5, 6, 7⟩))).cur.res = .done := by
  decide +kernel
theorem witness_EveryStepKeepsMemoryCanonical : canon (State.reset.placeWord 0x00731410) = true := by
  decide +kernel

/-! ## Small steps whose results the spec gives -/

/-- The results on their way of the focus strand after a scalar word. -/
def lands (s : State) (v : ScalarWord) : List LandWhat := (s.run (.scalar v)).me.land.map (·.what)
/-- R119: every result wraps; R120 to R124: shifts, fields, compares. -/
theorem test_alu_results :
    (let s := baseG .t0 .K [(1, -1), (2, 2), (3, 2 ^ 63), (4, 63)]
     lands s (.add ⟨0, 31, 1, 2⟩) == [.reg 31 1] && lands s (.mulh ⟨0, 31, 3, 3⟩) == [.reg 31 0x4000000000000000] &&
       lands s (.mulhn ⟨0, 31, 1, 1⟩) == [.reg 31 0xFFFFFFFFFFFFFFFE] && lands s (.sar ⟨0, 31, 3, 4⟩) == [.reg 31 (-1)] &&
       lands s (.shrw ⟨0, 31, 1, 2⟩) == [.reg 31 0x3FFFFFFF] && lands s (.sarw ⟨0, 31, 1, 2⟩) == [.reg 31 (-1)] &&
       lands s (.bswap ⟨0, 31, 2, 0⟩) == [.reg 31 0x0200000000000000] && lands s (.clz ⟨0, 31, 0, 0⟩) == [.reg 31 64] &&
       lands s (.lih ⟨0, 2, 5⟩) == [.reg 2 262149] && lands s (.add ⟨0, 0, 1, 2⟩) == []) = true := by
  decide +kernel
/-- R119: −2⁶³ / −1 gives −2⁶³ with remainder 0; a division by zero traps DIVZ (R60: 0x0C) with the dividend and writes nothing. -/
theorem test_division_corners :
    (let s := baseG .t0 .K [(1, -1), (3, 0x8000000000000000)]
     let q (v : ScalarWord) : List (GReg × Option Word) := (s.run (.scalar v)).me.pend.map fun e => (e.d, e.val)
     let t := s.run (.scalar (.div ⟨0, 31, 3, 0⟩))
     q (.div ⟨0, 31, 3, 1⟩) == [(31, some 0x8000000000000000)] && q (.rem ⟨0, 31, 3, 1⟩) == [(31, some 0)] && t.me.life == .trapped &&
       t.me.code == 0x0C && t.me.eval == 0x8000000000000000 && t.me.pend.isEmpty) = true := by
  decide +kernel
/-- R93, R94, R111: trap saves the cause, the slot, the bundle's length and its address, and the immediate in %eval. -/
theorem test_trap_saves :
    (let t := (base .t0 .X).run (.scalar (.trap ⟨0, 0x1ABCD⟩))
     t.me.life == .trapped && t.me.code == 0x0D && t.me.slot == 2 && !t.me.late && t.me.len == 2 && t.me.epc.toNat * 4 == placeAddr.toNat &&
       t.me.eval == 0x1ABCD) = true := by
  decide +kernel
/-- R11, R130: a store lays its bytes down little-endian and leaves the next byte. -/
theorem test_store_little_endian :
    (let s := baseG .t0 .L [(1, 0x20FFC), (2, 0x1122334455667788)]
     let t := s.run (.scalar (.stgW ⟨0, 2, 1, 0⟩))
     (t.mem.readList 0x20FFB 6).map (·.toNat) == [0, 0x88, 0x77, 0x66, 0x55, 0]) = true := by
  decide +kernel
/-- R32, R97: the step after a word has been placed fetches, decodes and issues it, and its strand goes on behind the bundle. -/
theorem test_placed_word_runs :
    (match step (State.reset.withFetchWord 32 0x00731410) with
     | .next t => (t.strand 0 .t0 .K).pc == 0x10008 && t.agenda.isEmpty
     | _ => false) = true := by
  decide +kernel

end Sys2Proof.Tests
end

/-! # The family of the encodings (O51 to O55)

O51 assembles the round trips of the single words. O52 is the way back: the bytes taken are those of the word's number, the
number is the pack of its fields, and a view has one word, whose view it is. O55 reads off the two ends of issuing a word. O54 fails:
its clause on bundles leaves out that a bundle which issues ends the page waits of its strands. -/

/-! ## Words and instructions -/

namespace Sys2Proof

theorem AnyWord.word?_instr (w : AnyWord) : w.instr.word? = some w := by
  cases w with
  | scalar v => cases v <;> rfl
  | wide v => cases v <;> rfl

theorem Instr.instr_of_word? {i : Instr} {w : AnyWord} (h : i.word? = some w) : w.instr = i := by
  cases i <;> cases h <;> rfl

theorem AnyWord.instr_wellFormed {w : AnyWord} (h : w.legal = true) : w.instr.WellFormed := by
  simp only [Instr.WellFormed, Instr.legal, w.word?_instr, h]

/-- Only words are well formed: an event has no encoding. -/
theorem Instr.WellFormed.exists_word {i : Instr} (h : i.WellFormed) : ∃ w : AnyWord, w.instr = i := by
  cases hw : i.word? with
  | none => simp [Instr.WellFormed, Instr.legal, hw] at h
  | some w => exact ⟨w, instr_of_word? hw⟩

end Sys2Proof

/-! ## Every word round-trips -/

namespace Sys2Proof.Laws.RoundTrip

theorem of_scalarWord : ∀ v : ScalarWord, Statement (AnyWord.scalar v).instr
  | .add w => add w | .sub w => sub w | .mul w => mul w | .mulh w => mulh w | .mulhn w => mulhn w | .div w => div w | .divn w => divn w
  | .rem w => rem w | .remn w => remn w | .and w => and w | .or w => or w | .xor w => xor w | .andn w => andn w | .orn w => orn w
  | .shl w => shl w | .shr w => shr w | .sar w => sar w | .rol w => rol w | .ror w => ror w | .min w => min w | .max w => max w
  | .minn w => minn w | .maxn w => maxn w | .addw w => addw w | .subw w => subw w | .mulw w => mulw w | .shlw w => shlw w
  | .shrw w => shrw w | .sarw w => sarw w | .mov w => mov w | .not w => not w | .neg w => neg w | .abs w => abs w | .clz w => clz w
  | .ctz w => ctz w | .popc w => popc w | .brev w => brev w | .bswap w => bswap w | .sxb w => sxb w | .sxh w => sxh w | .sxw w => sxw w
  | .zxb w => zxb w | .zxh w => zxh w | .zxw w => zxw w | .addi w => addi w | .andi w => andi w | .ori w => ori w | .xori w => xori w
  | .shli w => shli w | .shri w => shri w | .sari w => sari w | .muli w => muli w | .addwi w => addwi w | .lui w => lui w | .lih w => lih w
  | .pca w => pca w | .bfx w => bfx w | .bfxn w => bfxn w | .bfi w => bfi w | .ceq w => ceq w | .cne w => cne w | .clt w => clt w
  | .cle w => cle w | .cltn w => cltn w | .clen w => clen w | .ceqi w => ceqi w | .cnei w => cnei w | .clti w => clti w | .cgti w => cgti w
  | .bset w => bset w | .bclr w => bclr w | .bnot w => bnot w | .brT w => brT w | .brF w => brF w | .jmp w => jmp w | .call w => call w
  | .jr w => jr w | .callr w => callr w | .fork w => fork w | .join w => join w | .jbset w => jbset w | .jbclr w => jbclr w
  | .jbwait w => jbwait w | .exit w => exit w | .exitAb w => exitAb w | .yield w => yield w | .lpSet w => lpSet w
  | .lpStride w => lpStride w | .lpRun w => lpRun w | .lpBrk w => lpBrk w | .lpClamp w => lpClamp w | .trap w => trap w | .eret w => eret w
  | .rdsr w => rdsr w | .wrsr w => wrsr w | .guard w => guard w | .brk w => brk w | .ccAdd w => ccAdd w | .ccSet w => ccSet w
  | .waitLt w => waitLt w | .waitGe w => waitGe w | .tokPush w => tokPush w | .tokPop w => tokPop w | .fence w => fence w
  | .ldlB w => ldlB w | .ldlH w => ldlH w | .ldlW w => ldlW w | .ldlD w => ldlD w | .stlB w => stlB w | .stlH w => stlH w
  | .stlW w => stlW w | .stlD w => stlD w | .ldgB w => ldgB w | .ldgH w => ldgH w | .ldgW w => ldgW w | .ldgD w => ldgD w
  | .stgB w => stgB w | .stgH w => stgH w | .stgW w => stgW w | .stgD w => stgD w
theorem of_wideWord : ∀ v : WideWord, Statement (AnyWord.wide v).instr
  | .vadd w => vadd w | .vsub w => vsub w | .vmul w => vmul w | .vfma w => vfma w | .vfms w => vfms w | .vmin w => vmin w
  | .vmax w => vmax w | .vabs w => vabs w | .vneg w => vneg w | .vsqr w => vsqr w | .vrcp w => vrcp w | .vrsqrt w => vrsqrt w
  | .vexp2 w => vexp2 w | .vlog2 w => vlog2 w | .vand w => vand w | .vor w => vor w | .vxor w => vxor w | .vshl w => vshl w
  | .vshr w => vshr w | .vsar w => vsar w | .vceq w => vceq w | .vclt w => vclt w | .vcle w => vcle w | .vsel w => vsel w
  | .vperm w => vperm w | .vbcast w => vbcast w | .vredAdd w => vredAdd w | .vredMax w => vredMax w | .vredMin w => vredMin w
  | .vscanAdd w => vscanAdd w | .vmov w => vmov w | .vclamp w => vclamp w | .vscale w => vscale w | .vpop w => vpop w | .vcvt w => vcvt w
  | .vq w => vq w | .vdq w => vdq w | .vsp w => vsp w | .vdsp w => vdsp w | .vsrSeed w => vsrSeed w | .vpk w => vpk w | .vupk w => vupk w
  | .ldm w => ldm w | .ldmWait w => ldmWait w | .ldmCons w => ldmCons w | .stm w => stm w | .stmFill w => stmFill w | .stmOvf w => stmOvf w
  | .stmSete w => stmSete w | .feProbe w => feProbe w | .feSet w => feSet w | .atAdd w => atAdd w | .atSub w => atSub w
  | .atAnd w => atAnd w | .atOr w => atOr w | .atXor w => atXor w | .atMin w => atMin w | .atMax w => atMax w | .atMinn w => atMinn w
  | .atMaxn w => atMaxn w | .atXchg w => atXchg w | .atCas w => atCas w | .atFadd w => atFadd w | .atInc w => atInc w | .acq w => acq w
  | .rel w => rel w | .syncBind w => syncBind w | .syncUnbind w => syncUnbind w | .prefetch w => prefetch w | .cp w => cp w
  | .cpG w => cpG w | .cpSc w => cpSc w | .cpBc w => cpBc w | .cpRed w => cpRed w | .cpW w => cpW w | .cpMm w => cpMm w | .cpFe w => cpFe w
  | .cpZero w => cpZero w | .asCfg w => asCfg w | .asDim w => asDim w | .asFmt w => asFmt w | .asBindLocal w => asBindLocal w
  | .asBindDevice w => asBindDevice w | .asRst w => asRst w | .asAdv w => asAdv w | .sgBind w => sgBind w | .sgPin w => sgPin w
  | .sgUnpin w => sgUnpin w | .sgTouch w => sgTouch w | .sgEvict w => sgEvict w | .sgInfo w => sgInfo w | .vlSet w => vlSet w
  | .wbSwap w => wbSwap w | .wbStat w => wbStat w | .barInit w => barInit w | .barArr w => barArr w | .barWait w => barWait w
  | .barXferIn w => barXferIn w | .barXferOut w => barXferOut w | .vbRd w => vbRd w | .vbWr w => vbWr w | .clkRatio w => clkRatio w
  | .xld w => xld w | .xst w => xst w | .xat w => xat w | .xcpPush w => xcpPush w | .xcpPull w => xcpPull w | .xsigSet w => xsigSet w
  | .xsigAdd w => xsigAdd w | .xfence w => xfence w | .xroute w => xroute w | .enRd w => enRd w | .enMark w => enMark w
  | .partId w => partId w | .tlbInv w => tlbInv w | .tlbInvAll w => tlbInvAll w | .segInv w => segInv w | .tarRd w => tarRd w
  | .ctxSv w => ctxSv w | .ctxSvEpi w => ctxSvEpi w | .ctxLd w => ctxLd w | .ctxLdHold w => ctxLdHold w | .ctxLdGo w => ctxLdGo w
  | .mm w => mm w | .mmSp w => mmSp w | .mmTn w => mmTn w | .mdrain w => mdrain w | .mzero w => mzero w | .mcorrLd w => mcorrLd w
  | .mcorrSt w => mcorrSt w | .mstat w => mstat w

end Sys2Proof.Laws.RoundTrip

namespace Sys2Proof

/-- Settles O51: a well-formed instruction is that of a word, and every word decodes back from its encoding. -/
theorem encodedWordsDecodeBack : Obligations.EncodedWordsDecodeBack := by
  intro i hi
  obtain ⟨w, rfl⟩ := hi.exists_word
  cases w with
  | scalar v => exact Laws.RoundTrip.of_scalarWord v hi
  | wide v => exact Laws.RoundTrip.of_wideWord v hi

/-! ## Bytes and numbers -/

theorem bytesOfNat_natOfBytes : ∀ bs : List Byte, bytesOfNat bs.length (natOfBytes bs) = bs
  | [] => rfl
  | b :: bs => by
    have hb : b.toNat < 256 := b.isLt
    rw [natOfBytes, List.length_cons, bytesOfNat, Nat.add_mul_mod_self_left, Nat.mod_eq_of_lt hb,
      Nat.add_mul_div_left _ _ (by decide), Nat.div_eq_of_lt hb, Nat.zero_add, bytesOfNat_natOfBytes bs, BitVec.ofNat_toNat,
      BitVec.setWidth_eq]

theorem natOfBytes_lt : ∀ bs : List Byte, natOfBytes bs < 256 ^ bs.length
  | [] => by simp [natOfBytes]
  | b :: bs => by
    have hb : b.toNat < 256 := b.isLt
    have ih := natOfBytes_lt bs
    rw [natOfBytes, List.length_cons, Nat.pow_succ]
    omega

theorem natOfBytes_take_mod (b : Byte) (bs : List Byte) {k : Nat} (hk : 0 < k) :
    natOfBytes ((b :: bs).take k) % 4 = b.toNat % 4 := by
  obtain ⟨m, rfl⟩ := Nat.exists_eq_add_one.mpr hk
  rw [List.take_succ_cons, natOfBytes]
  omega

/-- The bytes at the head of which a word is found are the bytes of its number, as many as its length code says (R32). -/
theorem takeWord_ok {bs rest : List Byte} {n : Nat} (h : takeWord bs = .ok (n, rest)) :
    n < 256 ^ (4 * parcelsOf (n % 4)) ∧ bs = bytesOfNat (4 * parcelsOf (n % 4)) n ++ rest := by
  cases bs with
  | nil => cases h
  | cons b r =>
    simp only [takeWord, beq_iff_eq] at h
    split at h
    · cases h
    next hk =>
    split at h
    · cases h
    next hlen =>
    cases h
    have hl : ((b :: r).take (4 * parcelsOf (b.toNat % 4))).length = 4 * parcelsOf (b.toNat % 4) :=
      List.length_take_of_le (Nat.le_of_not_lt hlen)
    have hlt := natOfBytes_lt ((b :: r).take (4 * parcelsOf (b.toNat % 4)))
    have hback := bytesOfNat_natOfBytes ((b :: r).take (4 * parcelsOf (b.toNat % 4)))
    rw [hl] at hlt hback
    rw [natOfBytes_take_mod b r (by omega), hback]
    exact ⟨hlt, (List.take_append_drop _ _).symm⟩

/-! ## Numbers and fields -/

/-- Packing what unpacking gave leaves the bits that the fields cover. -/
theorem pack_of_unpack : ∀ (l : List (Nat × Nat)) (n : Nat), unpack (l.map Prod.fst) n = l.map Prod.snd →
    pack l = n % 2 ^ (l.map Prod.fst).sum
  | [], n, _ => by simp [pack, Nat.mod_one]
  | (w, v) :: r, n, h => by
    simp only [List.map_cons, unpack, List.cons.injEq] at h
    obtain ⟨hv, hr⟩ := h
    rw [pack, pack_of_unpack r _ hr, ← hv, List.map_cons, List.sum_cons, Nat.pow_add, Nat.mod_mul]

/-- The fields of the view are those of the number. -/
def View.SplitsInto (v : View) (n : Nat) : Prop := unpack (v.fields.map Prod.fst) n = v.fields.map Prod.snd

theorem View.SplitsInto.parcels_eq {v : View} {n : Nat} (h : v.SplitsInto n) : v.parcels = parcelsOf (n % 4) := by
  cases v <;> (simp only [SplitsInto, fields, List.map, unpack, List.cons.injEq, Nat.reducePow] at h; rw [h.1]; rfl)

theorem View.SplitsInto.word_eq {v : View} {n : Nat} (h : v.SplitsInto n) (hn : n < 256 ^ (4 * v.parcels)) : v.word = n := by
  have e : (v.fields.map Prod.fst).sum = 8 * (4 * v.parcels) := by cases v <;> simp [fields, parcels]
  rw [word, pack_of_unpack _ n h, e, Nat.pow_mul, Nat.mod_eq_of_lt hn]

/-- What the reader makes of a number with this length code has the number's fields. -/
def ReadsFields (len : Nat) (read : Nat → Except DecodeError View) : Prop :=
  ∀ (n : Nat) (v : View), n % 4 = len → read n = .ok v → v.SplitsInto n

theorem unlessReserved_ok {bad : Bool} {v w : View} (h : unlessReserved bad v = .ok w) : bad = false ∧ v = w := by
  cases bad with
  | true => cases h
  | false => cases h; exact ⟨rfl, rfl⟩

/-- No layout of a scalar word has a reserved field. -/
theorem scalarLayout_readsFields (m : Nat) : ReadsFields 0 (scalarLayout m) := by
  intro n v hn h
  unfold scalarLayout at h
  repeat' split at h
  all_goals cases h <;> simp [View.SplitsInto, View.fields, unpack, hn]

theorem ReadsFields.of_reserved {len : Nat} {read : Nat → Except DecodeError View}
    (h : ∀ n, n % 4 = len → ∃ bad v, read n = unlessReserved bad v ∧ (bad = false → v.SplitsInto n)) : ReadsFields len read := by
  intro n v hn hr
  obtain ⟨bad, w, e, hs⟩ := h n hn
  obtain ⟨hb, rfl⟩ := unlessReserved_ok (e.symm.trans hr)
  exact hs hb
theorem readVA_readsFields : ReadsFields 1 readVA := by
  intro n v hn h
  cases h
  simp [View.SplitsInto, View.fields, unpack, hn]
theorem readME_readsFields : ReadsFields 1 readME :=
  .of_reserved fun n hn => ⟨_, _, rfl, by simp +contextual [View.SplitsInto, View.fields, unpack, hn]⟩
theorem readCP_readsFields : ReadsFields 1 readCP :=
  .of_reserved fun n hn => ⟨_, _, rfl, by simp +contextual [View.SplitsInto, View.fields, unpack, hn]⟩
theorem readCF_readsFields : ReadsFields 1 readCF :=
  .of_reserved fun n hn => ⟨_, _, rfl, by simp +contextual [View.SplitsInto, View.fields, unpack, hn]⟩
theorem readSY_readsFields : ReadsFields 1 readSY :=
  .of_reserved fun n hn => ⟨_, _, rfl, by simp +contextual [View.SplitsInto, View.fields, unpack, hn]⟩
theorem readMX_readsFields : ReadsFields 2 readMX :=
  .of_reserved fun n hn => ⟨_, _, rfl, by simp +contextual [View.SplitsInto, View.fields, unpack, hn]⟩

theorem vectorLayout_readsFields (c : Nat) : ReadsFields 1 (vectorLayout c) := by
  unfold vectorLayout
  split
  · exact readVA_readsFields
  split
  · exact readME_readsFields
  split
  · exact readCP_readsFields
  split
  · exact readCF_readsFields
  split
  · exact readSY_readsFields
  · intro n v _ h; cases h

theorem View.splitsInto_of_read {n : Nat} {v : View} (h : View.read n = .ok v) : v.SplitsInto n := by
  unfold View.read at h
  split at h
  · next hn => exact scalarLayout_readsFields _ n v hn h
  · next hn => exact vectorLayout_readsFields _ n v hn h
  · next hn => exact readMX_readsFields n v hn h
  · cases h

/-! ## Views and words -/

theorem rowSR_view {major fn : Nat} {w : SR} {x : ScalarWord} (h : rowSR major fn w = some x) :
    x.view = .sr (BitVec.ofNat 6 major) (BitVec.ofNat 7 fn) w := by
  unfold rowSR at h
  split at h <;> cases h <;> rfl
theorem rowSI_view {major : Nat} {w : SI} {x : ScalarWord} (h : rowSI major w = some x) : x.view = .si (BitVec.ofNat 6 major) w := by
  unfold rowSI at h
  split at h <;> cases h <;> rfl
theorem rowSF_view {major : Nat} {w : SF} {x : ScalarWord} (h : rowSF major w = some x) : x.view = .sf (BitVec.ofNat 6 major) w := by
  unfold rowSF at h
  split at h <;> cases h <;> rfl
theorem rowSC_view {major : Nat} {w : SC} {x : ScalarWord} (h : rowSC major w = some x) : x.view = .sc (BitVec.ofNat 6 major) w := by
  unfold rowSC at h
  split at h <;> cases h <;> rfl
theorem rowSCI_view {major : Nat} {w : SCI} {x : ScalarWord} (h : rowSCI major w = some x) : x.view = .sci (BitVec.ofNat 6 major) w := by
  unfold rowSCI at h
  repeat' split at h
  all_goals cases h <;> rfl
theorem rowSB_view {major : Nat} {w : SB} {x : ScalarWord} (h : rowSB major w = some x) : x.view = .sb (BitVec.ofNat 6 major) w := by
  unfold rowSB at h
  split at h <;> cases h <;> rfl
theorem rowSJ_view {major : Nat} {w : SJ} {x : ScalarWord} (h : rowSJ major w = some x) : x.view = .sj (BitVec.ofNat 6 major) w := by
  unfold rowSJ at h
  split at h <;> cases h <;> rfl
theorem rowSU_view {major : Nat} {w : SU} {x : ScalarWord} (h : rowSU major w = some x) : x.view = .su (BitVec.ofNat 6 major) w := by
  unfold rowSU at h
  split at h <;> cases h <;> rfl
theorem rowSL_view {major : Nat} {w : SL} {x : ScalarWord} (h : rowSL major w = some x) : x.view = .sl (BitVec.ofNat 6 major) w := by
  unfold rowSL at h
  split at h <;> cases h <;> rfl
theorem rowSG_view {major : Nat} {w : SG} {x : ScalarWord} (h : rowSG major w = some x) : x.view = .sg (BitVec.ofNat 6 major) w := by
  unfold rowSG at h
  split at h <;> cases h <;> rfl
theorem rowSS_view {major fn : Nat} {w : SS} {x : ScalarWord} (h : rowSS major fn w = some x) :
    x.view = .ss (BitVec.ofNat 6 major) (BitVec.ofNat 5 fn) w := by
  unfold rowSS at h
  split at h <;> cases h <;> rfl
theorem rowVA_view {op : Nat} {w : VA} {x : WideWord} (h : rowVA op w = some x) : x.view = .va (BitVec.ofNat 8 op) w := by
  unfold rowVA at h
  split at h <;> cases h <;> rfl
theorem rowME_view {op : Nat} {w : ME} {x : WideWord} (h : rowME op w = some x) : x.view = .me (BitVec.ofNat 8 op) w := by
  unfold rowME at h
  repeat' split at h
  all_goals cases h <;> rfl
theorem rowCP_view {op : Nat} {w : CP} {x : WideWord} (h : rowCP op w = some x) : x.view = .cp (BitVec.ofNat 8 op) w := by
  unfold rowCP at h
  split at h <;> cases h <;> rfl
theorem rowCF_view {op : Nat} {w : CF} {x : WideWord} (h : rowCF op w = some x) : x.view = .cf (BitVec.ofNat 8 op) w := by
  unfold rowCF at h
  repeat' split at h
  all_goals cases h <;> rfl
theorem rowSY_view {op : Nat} {w : SY} {x : WideWord} (h : rowSY op w = some x) : x.view = .sy (BitVec.ofNat 8 op) w := by
  unfold rowSY at h
  repeat' split at h
  all_goals cases h <;> rfl
theorem rowMX_view {op : Nat} {w : MX} {x : WideWord} (h : rowMX op w = some x) : x.view = .mx (BitVec.ofNat 8 op) w := by
  unfold rowMX at h
  split at h <;> cases h <;> rfl

theorem AnyWord.view_of_map_scalar {o : Option ScalarWord} {w : AnyWord} {v : View} (h : o.map .scalar = some w)
    (hv : ∀ x, o = some x → x.view = v) : w.view = v := by
  obtain ⟨x, hx, rfl⟩ := Option.map_eq_some_iff.mp h
  exact hv x hx
theorem AnyWord.view_of_map_wide {o : Option WideWord} {w : AnyWord} {v : View} (h : o.map .wide = some w)
    (hv : ∀ x, o = some x → x.view = v) : w.view = v := by
  obtain ⟨x, hx, rfl⟩ := Option.map_eq_some_iff.mp h
  exact hv x hx

/-- The word of a view has that view: each row's word fixes the opcode fields that select the row. -/
theorem View.view_of_anyWord {v : View} {w : AnyWord} (h : v.anyWord = some w) : w.view = v := by
  cases v with
  | sr major fn _ => exact AnyWord.view_of_map_scalar h fun _ hx => by simpa using rowSR_view hx
  | si major _ => exact AnyWord.view_of_map_scalar h fun _ hx => by simpa using rowSI_view hx
  | sf major _ => exact AnyWord.view_of_map_scalar h fun _ hx => by simpa using rowSF_view hx
  | sc major _ => exact AnyWord.view_of_map_scalar h fun _ hx => by simpa using rowSC_view hx
  | sci major _ => exact AnyWord.view_of_map_scalar h fun _ hx => by simpa using rowSCI_view hx
  | sb major _ => exact AnyWord.view_of_map_scalar h fun _ hx => by simpa using rowSB_view hx
  | sj major _ => exact AnyWord.view_of_map_scalar h fun _ hx => by simpa using rowSJ_view hx
  | su major _ => exact AnyWord.view_of_map_scalar h fun _ hx => by simpa using rowSU_view hx
  | sl major _ => exact AnyWord.view_of_map_scalar h fun _ hx => by simpa using rowSL_view hx
  | sg major _ => exact AnyWord.view_of_map_scalar h fun _ hx => by simpa using rowSG_view hx
  | ss major fn _ => exact AnyWord.view_of_map_scalar h fun _ hx => by simpa using rowSS_view hx
  | va op _ => exact AnyWord.view_of_map_wide h fun _ hx => by simpa using rowVA_view hx
  | me op _ => exact AnyWord.view_of_map_wide h fun _ hx => by simpa using rowME_view hx
  | cp op _ => exact AnyWord.view_of_map_wide h fun _ hx => by simpa using rowCP_view hx
  | cf op _ => exact AnyWord.view_of_map_wide h fun _ hx => by simpa using rowCF_view hx
  | sy op _ => exact AnyWord.view_of_map_wide h fun _ hx => by simpa using rowSY_view hx
  | mx op _ => exact AnyWord.view_of_map_wide h fun _ hx => by simpa using rowMX_view hx

/-- A number that decodes is the word of what it decodes to. -/
theorem decodeNat_ok {n : Nat} {w : AnyWord} (h : decodeNat n = .ok w) : w.legal = true ∧ w.view.SplitsInto n := by
  unfold decodeNat at h
  split at h
  · cases h
  next v hr =>
  split at h
  · cases h
  next w' hv =>
  split at h
  · next hl =>
    cases h
    exact ⟨hl, View.view_of_anyWord hv ▸ View.splitsInto_of_read hr⟩
  · cases h

theorem decode_ok {bs rest : List Byte} {i : Instr} (h : decode bs = .ok (i, rest)) :
    ∃ n w, takeWord bs = .ok (n, rest) ∧ decodeNat n = .ok w ∧ w.instr = i := by
  unfold decode at h
  split at h
  · cases h
  next n r ht =>
  split at h
  · cases h
  next w hd =>
  cases h
  exact ⟨n, w, ht, hd, rfl⟩

/-- Settles O52: the number taken from the bytes has the fields of the decoded word's view, so it is that word. -/
theorem decodedBytesAreTheEncoding : Obligations.DecodedBytesAreTheEncoding := by
  intro bs rest i h
  obtain ⟨n, w, ht, hd, rfl⟩ := decode_ok h
  obtain ⟨hlegal, hsplit⟩ := decodeNat_ok hd
  obtain ⟨hlt, hbs⟩ := takeWord_ok ht
  rw [← hsplit.parcels_eq] at hlt hbs
  refine ⟨AnyWord.instr_wellFormed hlegal, ?_⟩
  simp only [encode, w.word?_instr, hsplit.word_eq hlt]
  exact hbs

/-- Settles O53: the decoder runs on each of the words. -/
theorem specWordsDecode : Obligations.SpecWordsDecode :=
  ⟨rfl, rfl, rfl, rfl, rfl, rfl⟩

end Sys2Proof

/-! ## Checks and guards, and what a bundle leaves -/

namespace Sys2Proof.Machine

/-- A word that passes its checks and whose guard is false performs nothing (R115). -/
theorem State.issueInOrder_guardFalse {s : State} {w : AnyWord} (hc : s.check w = none)
    (hp : s.me.pending (guardRegs w s.me) = false) (hs : s.here.dbg = true → s.me.stale (guardRegs w s.me) = none)
    (hg : guardHolds w s.me = false) (rd wr : List GReg) (body : State → State) : s.issueInOrder w rd wr body = s.issued := by
  simp only [State.issueInOrder, hc, State.me_setRes, hp]
  rw [if_neg Bool.false_ne_true, State.staleCheck_fresh (s := s.issued) hs]
  simp only [State.me_setRes, hg, Bool.not_false, if_true]

/-- Settles O55: every word runs by issuing, and issuing ends in the check's trap or at the false guard. -/
theorem checksAndGuardsOfEveryWord : Obligations.ChecksAndGuardsOfEveryWord := by
  intro w s
  obtain ⟨rd, wr, body, he⟩ := exec_issues w s
  rw [he]
  exact ⟨fun _ hc => congrArg _ (State.issue_check hc rd wr body),
    fun hc hp hs hg => congrArg _ (State.issueInOrder_guardFalse hc hp hs hg rd wr body)⟩

/-- The reset state with a page wait of the own word of strand K in task context t0 of core 0. -/
def pageWaitState : State := State.reset.modStrand 0 .t0 .K fun t => { t with pages := [⟨none, 0x1000, false⟩] }
/-- The header and the one slot of a bundle with an add in K. -/
def addHeader : Header := ⟨1, 1, 0, 0, 0, 0⟩
def addSlot : SlotWord := ⟨.K, 4, .scalar (.add ⟨0, 5, 6, 7⟩)⟩
/-- What the add leaves at its slot. -/
def pageWaitAdded : State :=
  (({ pageWaitState with cur := { pageWaitState.cur with carried := false } }).atSlot addHeader addSlot).run addSlot.word

/-- Refutes O54: its last clause keeps the page waits of the strand as exec of the word left them, where a bundle that issues ends those
of its own words (dropPages in issueWords). The add waits for nothing and issues; the page wait that its strand still held is gone
after the bundle, and stands in the clause's right side. -/
theorem not_stepRunsDecodedWords : ¬ Obligations.StepRunsDecodedWords := by
  rintro ⟨-, -, -, -, -, -, -, hbundle⟩
  have hslot : (pageWaitState.ctx 0 .t0).slotIssues pageWaitState.cur.hdr (maskBit addHeader.first addSlot.slot)
      (maskBit addHeader.last addSlot.slot) = true := by decide +kernel
  have hdone : pageWaitAdded.cur.res = .done := by decide +kernel
  have h := hbundle 0 .t0 [.K] addHeader 2 addSlot pageWaitState pageWaitAdded hslot (by decide) rfl hdone (by decide)
  have hpages := congrArg (fun s => (s.strand 0 .t0 .K).pages.length) h
  exact absurd hpages (by decide +kernel)

end Sys2Proof.Machine

/-! # The family of the matrix words (O20)

A word whose tokens are there goes on from a state that differs in the token FIFOs and in the note of what is popped alone
(`State.popTokens_ready`). The words of the copy queue and of the matrix queue are then their own enqueue from that state, and the
frames of the enqueue give the clauses one by one. -/

namespace Sys2Proof.Machine

/-! ## Updates of the issuing context -/

theorem State.modCore_modCore (s : State) (c : CoreId) (f g : CoreSt → CoreSt) :
    (s.modCore c f).modCore c g = s.modCore c fun k => g (f k) := by
  simp [State.modCore, State.setCore, State.core]
theorem CoreSt.modCtx_modCtx (k : CoreSt) (x : Ctx) (f g : Context → Context) :
    (k.modCtx x f).modCtx x g = k.modCtx x fun m => g (f m) := by
  cases x <;> rfl
theorem State.modHere_modHere (s : State) (f g : Context → Context) : (s.modHere f).modHere g = s.modHere fun k => g (f k) := by
  simp only [State.modHere, State.modCtx, State.modCore_cur, State.modCore_modCore, CoreSt.modCtx_modCtx]
theorem CoreSt.modCtx_congr {k : CoreSt} {x : Ctx} {f g : Context → Context} (h : f (k.ctx x) = g (k.ctx x)) :
    k.modCtx x f = k.modCtx x g :=
  congrArg (fun m => { k with ctxs := k.ctxs.set x m }) h
/-- An update of the issuing context is what it makes of that context. -/
theorem State.modHere_congr {s : State} {f g : Context → Context} (h : f s.here = g s.here) : s.modHere f = s.modHere g :=
  congrArg (s.setCore s.cur.core) (CoreSt.modCtx_congr h)
theorem State.modHere_id (s : State) : s.modHere (fun k => k) = s := by
  have hc : (s.core s.cur.core).modCtx s.cur.ctx (fun k => k) = s.core s.cur.core := by cases s.cur.ctx <;> rfl
  rw [show s.modHere _ = s.setCore s.cur.core ((s.core s.cur.core).modCtx s.cur.ctx fun k => k) from rfl, hc]
  simp [State.setCore, State.core]
/-- The issuing context depends on the cores and on the issuing slot alone. -/
theorem State.here_congr {s t : State} (hcores : t.cores = s.cores) (hcur : t.cur = s.cur) : t.here = s.here := by
  simp only [State.here, State.ctx, State.core, hcores, hcur]
@[simp] theorem State.here_landWith (s : State) (n : Nat) (sat : Bool) (push : BitVec 4) (w : LandWhat) :
    (s.landWith n sat push w).here =
      s.here.modStrand s.cur.strand fun t => { t with land := t.land ++ [⟨n, s.cur.sqd, sat, push, w⟩] } := State.here_modHere _ _

/-! ## What readiness says of the slot (R56, R59) -/

theorem legalIn_slotOk_of_wordCheck {w : AnyWord} {p : Strand} {x : Ctx} {joint : Bool} {xword : Option WideWord}
    (h : wordCheck w p x joint xword = none) : w.legalIn p x = true ∧ slotOk w.view p = true := by
  unfold wordCheck at h
  split at h
  · cases h
  next hlegal =>
  split at h
  · cases h
  next hslot =>
  simp only [Bool.or_eq_true, Bool.not_eq_true', not_or, Bool.not_eq_false, Bool.and_eq_true] at hlegal hslot
  exact ⟨hlegal.1.2, hslot.1⟩
theorem State.Ready.tokOk {s : State} {i : WideWord} {rd wr : List GReg} (h : s.Ready (.wide i) rd wr) :
    tokOk s.cur.strand i.pre.tok = true :=
  (legalIn_slotOk_of_wordCheck h.checked).1
theorem State.Ready.slotOk {s : State} {v : AnyWord} {rd wr : List GReg} (h : s.Ready v rd wr) : slotOk v.view s.cur.strand = true :=
  (legalIn_slotOk_of_wordCheck h.checked).2
/-- A word that reads no register is ready also when it writes none. -/
theorem State.Ready.noWrites {s : State} {v : AnyWord} {wr : List GReg} (h : s.Ready v [] wr) : s.Ready v [] [] :=
  { h with free := rfl }

/-! ## Popping tokens (R169) -/

/-- The context with these token FIFOs, and this note of what strand `p` has popped. -/
def Context.withPops (k : Context) (p : Strand) (t : Tokens) (n : BitVec 2) : Context :=
  { (k.modStrand p fun u => { u with popped := n }) with tokens := t }
/-- The state whose issuing context and strand have them. -/
def State.withPops (s : State) (t : Tokens) (n : BitVec 2) : State := s.modHere (·.withPops s.cur.strand t n)

theorem Context.withPops_withPops (k : Context) (p : Strand) (t u : Tokens) (n m : BitVec 2) :
    (k.withPops p t n).withPops p u m = k.withPops p u m := by
  cases p <;> rfl
theorem Context.withPops_self (k : Context) (p : Strand) : k.withPops p k.tokens (k.strand p).popped = k := by
  cases p <;> rfl
theorem Context.strand_withPops (k : Context) (p : Strand) (t : Tokens) (n : BitVec 2) :
    (k.withPops p t n).strand p = { k.strand p with popped := n } := by
  cases p <;> rfl
@[simp] theorem State.here_withPops (s : State) (t : Tokens) (n : BitVec 2) :
    (s.withPops t n).here = s.here.withPops s.cur.strand t n := State.here_modHere _ _
@[simp] theorem State.withPops_cur (s : State) (t : Tokens) (n : BitVec 2) : (s.withPops t n).cur = s.cur := rfl
@[simp] theorem State.me_withPops (s : State) (t : Tokens) (n : BitVec 2) : (s.withPops t n).me = { s.me with popped := n } := by
  rw [State.me, State.here_withPops]
  exact Context.strand_withPops s.here s.cur.strand t n
theorem State.withPops_self (s : State) : s.withPops s.here.tokens s.me.popped = s :=
  (State.modHere_congr (Context.withPops_self s.here s.cur.strand)).trans s.modHere_id
theorem State.withPops_withPops (s : State) (t u : Tokens) (n m : BitVec 2) : (s.withPops t n).withPops u m = s.withPops u m := by
  simp only [State.withPops, State.modHere_modHere, State.modHere_cur, Context.withPops_withPops]
/-- The context at whose boundary firmware issues stands outside the FIFOs. -/
theorem State.matrixTarget_withPops (s : State) (t : Tokens) (n : BitVec 2) : (s.withPops t n).matrixTarget = s.matrixTarget := by
  have hb : (s.withPops t n).myCore.boundary = s.myCore.boundary := by
    simp only [State.myCore, State.withPops, State.modHere, State.modCtx, State.modCore_cur, State.core_modCore,
      CoreSt.modCtx_boundary]
  simp only [State.matrixTarget, State.withPops_cur, hb]
/-- Taking a token and noting it, as a pop does. -/
theorem State.takeToken_eq (s : State) (t : Tokens) (b : BitVec 2) :
    ((s.modHere fun k => { k with tokens := t }).modMe fun u => { u with popped := u.popped ||| b }) =
      s.withPops t (s.me.popped ||| b) := by
  rw [State.modMe, State.modHere_modHere]
  exact State.modHere_congr rfl
/-- Forgetting what is popped once the word goes on. -/
theorem State.forgetPops_eq (s : State) : (s.modMe fun u => { u with popped := 0 }) = s.withPops s.here.tokens 0 :=
  State.modHere_congr rfl

/-- A pop touches the FIFO of its own side alone. -/
theorem Tokens.get_of_pop {t u : Tokens} {p q : Strand} {right : Bool} (h : t.pop p right = some u) (hq : q ≠ neighbour p right) :
    u.get q p = t.get q p := by
  simp only [Tokens.pop] at h
  split at h
  · cases h
  · cases h
    exact Tokens.get_set _ _ _ _ _ fun e => hq (congrArg Prod.fst e)
/-- Noting a pop of one side leaves the note of the other. -/
theorem popped_or_and_other (right : Bool) (n : BitVec 2) :
    (n ||| if right then 2 else 1) &&& (if right then 1 else 2) = n &&& (if right then 1 else 2) := by
  revert right n
  decide
/-- One pop-before bit of a TOK field whose token, if it still has to be taken, is there; what it leaves of the other side. -/
theorem State.popIf_ready {s : State} {b right : Bool}
    (h : b = true → s.me.popped &&& (if right then 2 else 1) = 0 → s.here.tokens.get (neighbour s.cur.strand right) s.cur.strand ≠ 0) :
    ∃ t n, (if b then s.popOne right else some s) = some (s.withPops t n) ∧
      n &&& (if right then 1 else 2) = s.me.popped &&& (if right then 1 else 2) ∧
      ∀ q, (b = true → q ≠ neighbour s.cur.strand right) → t.get q s.cur.strand = s.here.tokens.get q s.cur.strand := by
  cases b with
  | false => exact ⟨_, _, by rw [State.withPops_self]; rfl, rfl, fun _ _ => rfl⟩
  | true =>
    obtain ⟨r, hr, rfl | ⟨t, ht, rfl⟩⟩ := State.popOne_ready (h rfl)
    · exact ⟨_, _, by rw [State.withPops_self]; exact hr, rfl, fun _ _ => rfl⟩
    · exact ⟨t, _, hr.trans (congrArg some (s.takeToken_eq t _)), popped_or_and_other right _, fun q hq => Tokens.get_of_pop ht (hq rfl)⟩

/-- A word that may pop on both sides has a neighbour on each (R44). -/
theorem neighbour_ne {p : Strand} {tok : BitVec 4} (h : tokOk p tok = true) (h0 : tok.getLsbD 0 = true) (h1 : tok.getLsbD 1 = true) :
    neighbour p true ≠ neighbour p false := by
  cases p with
  | K => simp only [tokOk, h0, Bool.not_true, Bool.false_and, Bool.false_eq_true] at h
  | S => simp only [tokOk, h1, Bool.not_true, Bool.false_and, Bool.false_eq_true] at h
  | L | X => decide

/-- A word whose tokens are there pops them, and goes on. -/
theorem State.popTokens_ready {s : State} {tok : BitVec 4} (hl : tokOk s.cur.strand tok = true) (hp : s.CanPop tok) :
    ∃ t, ∀ k : State → State, s.popTokens tok k = k (s.withPops t 0) := by
  obtain ⟨hleft, hright⟩ := hp
  obtain ⟨t, n, e, hn, ht⟩ := State.popIf_ready (s := s) (b := tok.getLsbD 0) (right := false) hleft
  obtain ⟨u, m, e', -, -⟩ := State.popIf_ready (s := s.withPops t n) (b := tok.getLsbD 1) (right := true) (by
    intro h1 hm
    rw [State.here_withPops, State.withPops_cur]
    rw [State.me_withPops] at hm
    have hget := ht (neighbour s.cur.strand true) fun h0 => neighbour_ne hl h0 h1
    show t.get _ _ ≠ 0
    rw [hget]
    exact hright h1 (hn.symm.trans hm))
  refine ⟨u, fun k => ?_⟩
  simp only [State.popTokens, e, e', State.withPops_withPops, State.forgetPops_eq, State.here_withPops]
  rfl

/-! ## Names (R149) -/

theorem State.checkNames_ok {s : State} {snaps : List Snap} {names : List Named} (h : s.NamesOk snaps names) (go : State → State) :
    s.issued.checkNames snaps names go = go s.issued := by
  obtain ⟨hbound, hlimits⟩ := h
  have hlimits' : s.issued.nameLimits s.issued.cur.core s.issued.cur.ctx (firstNames names []) 0 0 0 = .ok := hlimits
  simp only [State.checkNames, hbound, hlimits']

/-! ## Copy words (R159, R263) -/

/-- A copy word with its tokens, its names and room in its queue enters it. -/
theorem cpWord_ready {i : WideWord} {w : CP} {s : State} (hr : s.Ready (.wide i) [w.bar] []) (hpre : i.pre = w.pre)
    (hp : s.CanPop w.pre.tok) (hn : s.NamesOk (s.issued.cpCmd i w).snaps (s.issued.cpCmd i w).names)
    (hroom : (s.here.copyQueue s.cur.strand).length < 32) :
    ∃ t, let r := (s.issued.withPops t 0).enqueueCopy (s.issued.cpCmd i w)
      cpWord i w s = r.1.pushCopy r.2 := by
  obtain ⟨t, ht⟩ := State.popTokens_ready (s := s.issued) (hpre ▸ hr.tokOk) hp
  have hroom' : ¬(s.issued.here.copyQueue s.issued.cur.strand).length ≥ copyDepth := Nat.not_le.mpr hroom
  refine ⟨t, ?_⟩
  rw [cpWord, State.issue_ready hr]
  simp only [State.checkNames_ok hn, if_neg hroom', ht]

@[simp] theorem State.position_modPosition (s : State) (c : CoreId) (f : Position → Position) :
    (s.modPosition c f).position c = f (s.position c) := by
  simp [State.modPosition, State.position, State.cluster, State.modCluster, Cluster.modPos]
/-- The position of a cp.w moves on by the bytes of its elements (R263). -/
theorem State.takeWrite_wpos {s : State} {q : CopyCmd} (h : q.kind = .weight) :
    (((s.takeWrite q).position s.cur.core).streams[q.w.dst.toNat]).wpos =
      BitVec.ofNat 28 (((s.position s.cur.core).streams[q.w.dst.toNat].wpos.toNat + q.count * q.size) %
        (s.position s.cur.core).streams[q.w.dst.toNat].bytes) := by
  simp only [State.takeWrite, h, State.position_modPosition, Vector.getElem_set_self]
/-- The stream of a cp.w stands at the position that its enqueue gives it. -/
theorem cpW_wpos {w : CP} {s : State} (hr : s.Ready (.wide (.cpW w)) [w.bar] []) (hp : s.CanPop w.pre.tok)
    (hn : s.NamesOk (s.issued.cpCmd (.cpW w) w).snaps (s.issued.cpCmd (.cpW w) w).names)
    (hroom : (s.here.copyQueue s.cur.strand).length < 32) :
    ∃ t, exec (.cpW w) s = .next t ∧
      (let r := (s.taken (w.src.setWidth 5)).reg
       let ws := (s.position s.cur.core).streams[w.dst.toNat]
       ((t.position s.cur.core).streams[w.dst.toNat]).wpos =
         BitVec.ofNat 28 ((ws.wpos.toNat + r.total * (Fmt.ofCode r.fmt).bytes) % ws.bytes)) := by
  obtain ⟨u, e⟩ := cpWord_ready hr rfl hp hn hroom
  refine ⟨_, congrArg Host.Outcome.next e, ?_⟩
  exact State.takeWrite_wpos (s := s.issued.withPops u 0) (q := { s.issued.cpCmd (.cpW w) w with tag := _ }) rfl

/-! ## Matrix-width words (R159, R160, R188, R237, R240, R251) -/

theorem StrandSt.not_pendingBefore {t : StrandSt} {rs : List GReg} (h : t.pending rs = false) (n : Nat) : t.pendingBefore n rs = false := by
  simp only [StrandSt.pending, StrandSt.pendingBefore, List.any_eq_false, Bool.and_eq_true, not_and, Bool.not_eq_true] at h ⊢
  intro r hr hr0 q hq hd
  exact absurd hd (by simpa using h r hr hr0 q hq)

/-- The word's command stands at the end of the matrix queue, and its streams have advanced. -/
def State.enqueueMx (s : State) (i : WideWord) (w : MX) : State :=
  (s.prepareMx i w).1.modHere fun k => { k with mx := k.mx ++ [(s.prepareMx i w).2] }

/-- A matrix-width word with its handles and its names stalls on a full queue, unless a copy carries it; else it pops its tokens and,
unless carried, enters the queue. -/
theorem mxWord_ready {i : WideWord} {w : MX} {wr : List GReg} {s : State} (hr : s.Ready (.wide i) [] wr)
    (hh : ∀ h ∈ mxHandles i w, (resolveHandle s.here s.cur.ctx h).isSome = true)
    (hn : s.NamesOk (s.here.mxCmd s.cur.ctx i w (s.here.serial + 1) s.matrixTarget 0).snaps
      (s.here.mxCmd s.cur.ctx i w (s.here.serial + 1) s.matrixTarget 0).names) :
    mxWord i w wr s = if !s.cur.carried && s.here.mxFull s.cur.ctx then s.issued.stall .interlock
      else s.issued.popTokens w.pre.tok fun r => if r.cur.carried then r else r.enqueueMx i w := by
  have hr' : s.Ready (.wide i) [] (if s.cur.carried then [] else wr) := by
    split
    · exact hr.noWrites
    · exact hr
  have hb : ¬(s.issued.cur.carried && s.issued.me.pendingBefore s.issued.cur.serial wr) = true := by
    rw [StrandSt.not_pendingBefore (t := s.issued.me) (rs := wr) hr.free, Bool.and_false]
    decide
  have hf : (mxHandles i w).find? (fun h => (resolveHandle s.issued.here s.issued.cur.ctx h).isNone) = none := by
    refine List.find?_eq_none.mpr fun h hmem => ?_
    exact Option.isNone_eq_false_iff.mpr (hh h hmem) ▸ Bool.false_ne_true
  rw [mxWord, State.issue_ready hr']
  simp only [if_neg hb, hf]
  exact State.checkNames_ok hn _

/-! What an enqueue leaves in the context: streams, queue and reserved register. -/

/-- The streams after a step has taken its elements of each. -/
def advanceAll (l : List (BitVec 5 × Nat)) (ss : Vector StreamReg 32) : Vector StreamReg 32 :=
  l.foldl (fun ss q => ss.set q.1.toNat (ss[q.1.toNat].advance q.2)) ss
theorem Context.foldl_modStream (k : Context) (l : List (BitVec 5 × Nat)) :
    l.foldl (fun k q => k.modStream q.1 (·.advance q.2)) k = { k with streams := advanceAll l k.streams } := by
  induction l generalizing k with
  | nil => rfl
  | cons q l ih => exact ih _
/-- A step advances its streams and nothing else of its context. -/
theorem Context.advanceStep_eq (k : Context) (i : WideWord) (w : MX) :
    k.advanceStep i w = { k with streams := advanceAll (streamsOfStep i w) k.streams } :=
  k.foldl_modStream _
@[simp] theorem Context.advanceStep_mx (k : Context) (i : WideWord) (w : MX) : (k.advanceStep i w).mx = k.mx := by
  rw [k.advanceStep_eq]
theorem Context.advanceStep_streams_congr (k m : Context) (h : k.streams = m.streams) (i : WideWord) (w : MX) :
    (k.advanceStep i w).streams = (m.advanceStep i w).streams := by
  simp only [Context.advanceStep_eq, h]
@[simp] theorem State.advanceWeights_cores (s : State) (i : WideWord) (w : MX) : (s.advanceWeights i w).cores = s.cores := by
  unfold State.advanceWeights
  split <;> rfl
@[simp] theorem State.advanceWeights_cur (s : State) (i : WideWord) (w : MX) : (s.advanceWeights i w).cur = s.cur := by
  unfold State.advanceWeights
  split <;> rfl
theorem State.here_advanceWeights (s : State) (i : WideWord) (w : MX) : (s.advanceWeights i w).here = s.here :=
  State.here_congr (s.advanceWeights_cores i w) (s.advanceWeights_cur i w)
@[simp] theorem State.prepareMx_cur (s : State) (i : WideWord) (w : MX) : (s.prepareMx i w).1.cur = s.cur := by
  simp only [State.prepareMx]
  split <;> exact s.advanceWeights_cur i w
/-- The context in which an mstat has reserved its register for command `n` (R251). -/
def Context.reserved (k : Context) (i : WideWord) (w : MX) (n : Nat) : Context :=
  if mxKind i == .stat && w.statD != 0 then
    k.modStrand .X fun t => { t with pend := t.pend ++ [⟨w.statD, none, false, false, n⟩] }
  else k
@[simp] theorem Context.reserved_mx (k : Context) (i : WideWord) (w : MX) (n : Nat) : (k.reserved i w n).mx = k.mx := by
  unfold Context.reserved
  split <;> rfl
@[simp] theorem Context.reserved_streams (k : Context) (i : WideWord) (w : MX) (n : Nat) : (k.reserved i w n).streams = k.streams := by
  unfold Context.reserved
  split <;> rfl
theorem Context.reserved_pend {k : Context} {i : WideWord} {w : MX} (hk : mxKind i = .stat) (hd : w.statD ≠ 0) (n : Nat) :
    ((k.reserved i w n).strand .X).pend = (k.strand .X).pend ++ [⟨w.statD, none, false, false, n⟩] := by
  have hcond : (mxKind i == .stat && w.statD != 0) = true := by rw [hk, bne_iff_ne.mpr hd]; rfl
  rw [Context.reserved, if_pos hcond]
  rfl

/-- The context after a matrix-width word's issue: counted, its streams advanced, and the register of an mstat reserved. -/
theorem State.here_prepareMx (s : State) (i : WideWord) (w : MX) :
    (s.prepareMx i w).1.here =
      ((s.here.enqueued (!(s.prepareMx i w).2.names.isEmpty)).advanceStep i w).reserved i w (s.here.serial + 1) := by
  simp only [State.prepareMx, Context.reserved]
  split
  · rw [State.here_modHere, State.here_modHere, State.here_advanceWeights]
    rfl
  · rw [State.here_modHere, State.here_advanceWeights]
    rfl
theorem State.here_enqueueMx (s : State) (i : WideWord) (w : MX) :
    (s.enqueueMx i w).here =
      { ((s.here.enqueued (!(s.prepareMx i w).2.names.isEmpty)).advanceStep i w).reserved i w (s.here.serial + 1) with
        mx := s.here.mx ++ [(s.prepareMx i w).2] } := by
  rw [State.enqueueMx, State.here_modHere, State.here_prepareMx, Context.reserved_mx, Context.advanceStep_mx]
  rfl
theorem State.enqueueMx_mx (s : State) (i : WideWord) (w : MX) : (s.enqueueMx i w).here.mx = s.here.mx ++ [(s.prepareMx i w).2] := by
  rw [State.here_enqueueMx]
theorem State.enqueueMx_streams (s : State) (i : WideWord) (w : MX) :
    (s.enqueueMx i w).here.streams = (s.here.advanceStep i w).streams := by
  rw [State.here_enqueueMx]
  exact (Context.reserved_streams _ i w _).trans (Context.advanceStep_streams_congr (s.here.enqueued _) s.here rfl i w)
/-- An mstat reserves its register in X, where it stands (R251). -/
theorem State.enqueueMx_reserves {s : State} {i : WideWord} {w : MX} (hx : s.cur.strand = .X) (hk : mxKind i = .stat)
    (hd : w.statD ≠ 0) : ∃ e ∈ (s.enqueueMx i w).me.pend, e.d = w.statD ∧ e.val = none := by
  have hcur : (s.enqueueMx i w).cur.strand = .X := (congrArg Slot.strand (s.prepareMx_cur i w)).trans hx
  have hpend := Context.reserved_pend (k := (s.here.enqueued (!(s.prepareMx i w).2.names.isEmpty)).advanceStep i w) hk hd
    (s.here.serial + 1)
  refine ⟨⟨w.statD, none, false, false, s.here.serial + 1⟩, ?_, rfl, rfl⟩
  rw [State.me, hcur, State.here_enqueueMx]
  exact hpend ▸ List.mem_append_right _ (List.mem_singleton_self _)

/-- The stream that an operand of a step reads, as it stands. -/
theorem State.snapIf_eq_taken (s : State) (i : WideWord) (kind : BitVec 2) (t : BitVec 5) :
    s.here.snapIf s.cur.ctx (mxKind i == .step && kind == 1) t = if mxKind i = .step ∧ kind = 1 then some (s.taken t) else none := by
  simp [Context.snapIf, State.taken]
theorem ite_not_isEmpty {α β : Type} (l : List α) (x y : β) : (if !l.isEmpty then x else y) = if l.isEmpty then y else x := by
  cases l <;> rfl
/-- The command that stands in the queue: the word with its streams as they stand, its numbers and its target. -/
theorem State.prepareMx_cmd (s : State) (i : WideWord) (w : MX) :
    let q := (s.prepareMx i w).2
    q.word = i ∧ q.w = w ∧ q.seed = none ∧ q.phase = .queued ∧ q.target = s.matrixTarget ∧ q.tag.serial = s.here.serial + 1 ∧
      q.tag.stamp = s.here.stamp ∧ q.tag.cc = w.cc ∧ q.tag.inc = w.inc ∧ q.tag.push = w.pre.tok ∧
      q.tag.ticket = (if q.names.isEmpty then none else some s.here.ticket) ∧
      q.a = s.here.snapIf s.cur.ctx (mxKind i == .step && w.aKind == 1) (w.aIdx.setWidth 5) ∧
      q.b = s.here.snapIf s.cur.ctx (mxKind i == .step && w.bKind == 1) (w.bIdx.setWidth 5) := by
  refine ⟨rfl, rfl, rfl, rfl, rfl, rfl, rfl, rfl, rfl, rfl, ?_, rfl, rfl⟩
  exact ite_not_isEmpty _ _ _

/-- A word of the matrix engine keeps to its clauses: what `exec` runs, its view, and the register that it writes. -/
theorem matrixQueues {i : MX → Instr} {v : MX → WideWord} {dst : MX → List GReg}
    (hexec : ∀ w s, exec (i w) s = .next (mxWord (v w) w (dst w) s)) (hpre : ∀ w, (v w).pre = w.pre)
    (hview : ∀ w, ∃ op, (v w).view = .mx op w)
    (hdst : ∀ w, ∀ r ∈ dst w, mxKind (v w) = .stat ∧ r = w.statD) : MatrixQueues i v dst := by
  intro w s hr hp hh hn
  obtain ⟨op, hop⟩ := hview w
  have hx : s.cur.strand = .X := by
    have hslot := hr.slotOk
    rw [show (AnyWord.wide (v w)).view = .mx op w from hop] at hslot
    exact beq_iff_eq.mp hslot
  obtain ⟨u, hu⟩ := State.popTokens_ready (s := s.issued) (hpre w ▸ hr.tokOk) hp
  have hrun := mxWord_ready hr hh hn
  rw [hu] at hrun
  have hcur : (s.issued.withPops u 0).cur.carried = s.cur.carried := rfl
  rw [hcur] at hrun
  simp only [hexec, hrun]
  refine ⟨fun hc hf => ?_, fun hc hf => ?_, fun hc => ?_⟩
  · simp only [hc, hf, Bool.not_false, Bool.true_and, Bool.false_eq_true, if_false]
    obtain ⟨hword, hw, hseed, hphase, htarget, hserial, hstamp, hcc, hinc, hpush, hticket, ha, hb⟩ :=
      (s.issued.withPops u 0).prepareMx_cmd (v w) w
    rw [State.matrixTarget_withPops] at htarget
    rw [State.here_withPops] at hserial hstamp hticket ha hb
    refine ⟨_, _, rfl, (State.enqueueMx_mx _ _ _).trans ?_, hword, hw, hseed, hphase, htarget, hserial, hstamp, hcc, hinc, hpush,
      hticket, ha.trans ?_, hb.trans ?_, (State.enqueueMx_streams _ _ _).trans ?_, fun r hmem hr0 => ?_⟩
    · rw [State.here_withPops]; rfl
    · exact s.snapIf_eq_taken (v w) w.aKind _
    · exact s.snapIf_eq_taken (v w) w.bKind _
    · rw [State.here_withPops]
      exact Context.advanceStep_streams_congr (s.here.withPops s.cur.strand u 0) s.here rfl (v w) w
    · obtain ⟨hstat, rfl⟩ := hdst w r hmem
      exact State.enqueueMx_reserves hx hstat hr0
  · simp only [hc, hf, Bool.not_false, Bool.true_and, if_true]
  · refine ⟨s.issued.withPops u 0, ?_, ?_, ?_⟩
    · simp only [hc, Bool.not_true, Bool.false_and, Bool.false_eq_true, if_false, if_true]
    · rw [State.here_withPops]; rfl
    · rw [State.here_withPops]; rfl

/-! ## Seeding (R71, R227) -/

/-- The context with this queue register qlx, and these notes of bad entries. -/
def Context.withQlx (k : Context) (l : List Word) (b : List (Nat × Nat)) : Context := { k with qlx := l, qbad := b }
def State.withQlx (s : State) (l : List Word) (b : List (Nat × Nat)) : State := s.modHere (·.withQlx l b)
theorem State.here_withQlx (s : State) (l : List Word) (b : List (Nat × Nat)) : (s.withQlx l b).here = s.here.withQlx l b :=
  State.here_modHere _ _

/-- Value `v` stands in the source of a vsr.seed: the low 32 bits of a register, or of the head of qlx. -/
def State.SeedValue (s : State) (o : VOp) (v : BitVec 32) : Prop :=
  (o.kind = 3 ∧ v = (s.rd (o.index.setWidth 5)).setWidth 32) ∨
    (o.kind = 2 ∧ o.index = 1 ∧ s.here.headBad 1 = false ∧ ∃ x q, s.here.qlx = x :: q ∧ v = x.setWidth 32)
/-- A vsr.seed takes that value; from qlx it pops it. -/
theorem State.source_seed {s : State} {o : VOp} {v : BitVec 32} (h : s.SeedValue o v) :
    ∃ l b line, s.source o 32 0 1 = .ok (s.withQlx l b) [⟨v.toNat, false⟩] line := by
  obtain ⟨hk, rfl⟩ | ⟨hk, hi, hb, x, q, hq, rfl⟩ := h
  · have hs : s.withQlx s.here.qlx s.here.qbad = s := (State.modHere_congr rfl).trans s.modHere_id
    refine ⟨s.here.qlx, s.here.qbad, BitVec.allOnes 64, ?_⟩
    rw [hs, BitVec.toNat_setWidth]
    simp only [State.source, hk]
    rfl
  · have hs : s.modHere (·.popQueue 1 q) = s.withQlx q (s.here.popQueue 1 q).qbad := State.modHere_congr rfl
    refine ⟨q, (s.here.popQueue 1 q).qbad, BitVec.allOnes 64, ?_⟩
    rw [← hs, BitVec.toNat_setWidth]
    simp only [State.source, hk, hi, hq, hb]
    rfl

theorem seedState_xor (u : BitVec 32) :
    seedState (u ^^^ 0x5A5A5A5A) = if u = 0x5A5A5A5A then 1 else u ^^^ 0x5A5A5A5A := by
  have h0 : u ^^^ 0x5A5A5A5A = 0 ↔ u = 0x5A5A5A5A := BitVec.xor_eq_zero_iff
  simp only [seedState, h0]
theorem State.seedIn_of_not_replay {s : State} {c : CoreId} {x : Ctx} (h : s.capMode (s.ctx c x).part ≠ 2) (v : BitVec 32) :
    s.seedIn c x v = v := by
  simp only [State.seedIn, if_neg h]
theorem State.seedIn_congr {s t : State} (hparts : t.parts = s.parts) (hcore : t.cur.core = s.cur.core) (hctx : t.cur.ctx = s.cur.ctx)
    (hpart : t.here.part = s.here.part) (v : BitVec 32) : t.seedIn s.cur.core s.cur.ctx v = s.seedIn s.cur.core s.cur.ctx v := by
  simp only [State.here, hcore, hctx] at hpart
  simp only [State.seedIn, State.capMode, hparts, hpart]
  rfl
/-- Recording a seed, or taking one off what is left to replay, changes no context. -/
theorem State.here_recordIn (s : State) (p : PartId) (f : Capture → Capture) : (s.recordIn p f).here = s.here := by
  simp only [State.recordIn]
  split <;> rfl
theorem State.here_noteIn (s : State) (p : PartId) (f : Capture → Capture) : (s.noteIn p f).here = s.here := by
  unfold State.noteIn
  split
  · exact s.here_recordIn p f
  · rfl
theorem State.here_consume (s : State) (p : PartId) (f : Capture → Capture) : (s.consume p f).here = s.here := by
  unfold State.consume
  split <;> rfl
theorem State.here_noteSeed (s : State) (c : CoreId) (x : Ctx) (v : BitVec 32) : (s.noteSeed c x v).here = s.here :=
  (State.here_consume _ _ _).trans (s.here_noteIn _ _)

/-- The command by which the drain generator takes value `d` in the order of the matrix queue. -/
def State.seedCmd (s : State) (w : VA) (x : Ctx) (d : BitVec 32) : MxCmd :=
  { tag := { s.tag false false w.pre 0 0 with push := 0 }, word := .vsrSeed w, seed := some d
    nameA := 0xFFFF, nameB := 0xFFFF, nameD := 0xFFFF, a := none, b := none, sa := none, sb := none
    md := none, phase := .queued, holds := [], target := x, ahead := [], wpos := 0, w := MX.zero }
/-- The context after a vsr.seed of value `v`: the drain generator follows at once when its matrix queue is empty and firmware has no
command there either, else by command `q`. -/
def Context.seeded (k : Context) (v : BitVec 32) (noneOther : Bool) (q : MxCmd) : Context :=
  { k.enqueued false with
    srVec := seedState v
    srDrain := if k.mx.isEmpty && noneOther then seedState (v ^^^ 0x5A5A5A5A) else k.srDrain
    mx := if k.mx.isEmpty && noneOther then k.mx else k.mx ++ [q] }
/-- The state after it; its push-after tokens go with a landing of their own. -/
def State.seeded (s : State) (w : VA) (x : Ctx) (v : BitVec 32) (noneOther : Bool) : State :=
  let t := (s.noteSeed s.cur.core s.cur.ctx v).modHere (·.seeded v noneOther (s.seedCmd w x (seedState (v ^^^ 0x5A5A5A5A))))
  if w.pre.tok &&& 12 = 0 then t else t.landWith 1 false w.pre.tok .tokens
/-- What a seeding leaves of the context, but for the tokens on their way. -/
theorem State.here_seeded (s : State) (w : VA) (x : Ctx) (v : BitVec 32) (noneOther : Bool) :
    let k := s.here.seeded v noneOther (s.seedCmd w x (seedState (v ^^^ 0x5A5A5A5A)))
    (s.seeded w x v noneOther).here.srVec = k.srVec ∧ (s.seeded w x v noneOther).here.srDrain = k.srDrain ∧
      (s.seeded w x v noneOther).here.mx = k.mx := by
  simp only [State.seeded]
  split
  · simp only [State.here_modHere, State.here_noteSeed, and_self]
  · simp only [State.here_landWith, State.here_modHere, State.here_noteSeed, Context.modStrand_srVec, Context.modStrand_srDrain,
      Context.modStrand_mx, and_self]

/-- A vsr.seed whose source and tokens are there takes its value and seeds the generators. -/
theorem vsrSeed_ready {w : VA} {s : State} {v : BitVec 32} (hr : s.Ready (.wide (.vsrSeed w)) (gregsOf w.op1 true) [])
    (hp : s.CanPop w.pre.tok) (hv : s.SeedValue w.op1 v) :
    ∃ (r : State) (l : List Word) (b : List (Nat × Nat)) (u : Tokens), r.here = (s.here.withQlx l b).withPops s.cur.strand u 0 ∧
      exec (.vsrSeed w) s =
        .next (r.seeded w s.cur.ctx (s.seedIn s.cur.core s.cur.ctx v) (s.myCore.noneFor s.cur.ctx)) := by
  obtain ⟨l, b, line, hsrc⟩ := State.source_seed (s := s.issued) hv
  have hpop : (s.issued.withQlx l b).CanPop w.pre.tok := by
    rw [State.CanPop, State.me, State.here_withQlx]
    exact hp
  obtain ⟨u, hu⟩ := State.popTokens_ready (s := s.issued.withQlx l b) (tok := w.pre.tok) hr.tokOk hpop
  have hhere : ((s.issued.withQlx l b).withPops u 0).here = (s.here.withQlx l b).withPops s.cur.strand u 0 := by
    rw [State.here_withPops, State.here_withQlx]
    rfl
  refine ⟨(s.issued.withQlx l b).withPops u 0, l, b, u, hhere, ?_⟩
  have hexec : exec (.vsrSeed w) s = execVsrSeed w s := rfl
  rw [hexec, execVsrSeed, State.issue_ready hr]
  simp only [hsrc, hu, id]
  have hcore : ((s.issued.withQlx l b).withPops u 0).cur.core = s.cur.core := rfl
  have hctx : ((s.issued.withQlx l b).withPops u 0).cur.ctx = s.cur.ctx := rfl
  have hdone : ((s.issued.withQlx l b).withPops u 0).cur.res = .done := rfl
  have hpart : ((s.issued.withQlx l b).withPops u 0).here.part = s.here.part := by rw [hhere]; rfl
  have hparts : ((s.issued.withQlx l b).withPops u 0).parts = s.parts := rfl
  generalize (s.issued.withQlx l b).withPops u 0 = r at hcore hctx hdone hpart hparts ⊢
  have hval : BitVec.ofNat 32 ([⟨v.toNat, false⟩].headD (⟨0, false⟩ : Elem)).val = v := by simp
  rw [hdone, if_neg (by decide), hcore, hctx, hval, State.seedIn_congr hparts hcore hctx hpart, State.seeded, hcore, hctx]
  rfl

/-- The generators after a vsr.seed, and the command that seeds the drain generator later. -/
theorem vsrSeed_seeds {w : VA} {s : State} {v : BitVec 32} (hr : s.Ready (.wide (.vsrSeed w)) (gregsOf w.op1 true) [])
    (hp : s.CanPop w.pre.tok) (hv : s.SeedValue w.op1 v) :
    ∃ t u, exec (.vsrSeed w) s = .next t ∧ u = s.seedIn s.cur.core s.cur.ctx v ∧ (s.capMode s.here.part ≠ 2 → u = v) ∧
      t.here.srVec = (if u = 0 then 1 else u) ∧
      (s.here.mx = [] ∧ s.myCore.noneFor s.cur.ctx = true → t.here.mx = [] ∧
        t.here.srDrain = if u = 0x5A5A5A5A then 1 else u ^^^ 0x5A5A5A5A) ∧
      (s.here.mx ≠ [] ∨ s.myCore.noneFor s.cur.ctx = false → t.here.srDrain = s.here.srDrain ∧ ∃ q, t.here.mx = s.here.mx ++ [q] ∧
        q.seed = some (if u = 0x5A5A5A5A then 1 else u ^^^ 0x5A5A5A5A)) := by
  obtain ⟨r, l, b, k, hhere, he⟩ := vsrSeed_ready hr hp hv
  obtain ⟨hvec, hdrain, hmx⟩ := r.here_seeded w s.cur.ctx (s.seedIn s.cur.core s.cur.ctx v) (s.myCore.noneFor s.cur.ctx)
  have hrmx : r.here.mx = s.here.mx := by rw [hhere]; rfl
  have hrdrain : r.here.srDrain = s.here.srDrain := by rw [hhere]; rfl
  simp only [Context.seeded, hrmx, hrdrain, seedState_xor] at hvec hdrain hmx
  refine ⟨_, _, he, rfl, fun h => State.seedIn_of_not_replay h v, hvec, fun ⟨h0, h1⟩ => ?_, fun h => ?_⟩
  · rw [hmx, hdrain, h0, h1]
    exact ⟨rfl, rfl⟩
  · have hbusy : ¬(s.here.mx.isEmpty && s.myCore.noneFor s.cur.ctx) = true := by
      rcases h with h | h
      · simp [h]
      · simp [h]
    rw [if_neg hbusy] at hdrain hmx
    exact ⟨hdrain, _, hmx, rfl⟩

/-- Settles O20: cp.w by the position of its enqueue, the matrix-width words by what they leave in the queue, vsr.seed by what it seeds. -/
theorem matrixWordResults : Obligations.MatrixWordResults := by
  have reserves (w : MX) (r : GReg) (h : r ∈ [w.statD]) : mxKind (.mstat w) = .stat ∧ r = w.statD := ⟨rfl, List.mem_singleton.mp h⟩
  refine ⟨fun w s hr hp _ hn hroom => cpW_wpos hr hp hn hroom, ?_, ?_, ?_, ?_, ?_, ?_, ?_,
    matrixQueues (fun _ _ => rfl) (fun _ => rfl) (fun _ => ⟨_, rfl⟩) reserves, fun w s v hr hp hv => vsrSeed_seeds hr hp hv⟩
  all_goals exact matrixQueues (fun _ _ => rfl) (fun _ => rfl) (fun _ => ⟨_, rfl⟩) nofun

end Sys2Proof.Machine
